-- ==== Sys2Proof/Word.lean ====
section
/-! DEFINITION. The word types of the block and their plainest arithmetic (00_scope.md R7: bit 0 is the least
significant bit, a range [msb:lsb] includes both ends, multi-byte values are little-endian). -/

namespace Sys2Proof

/-- An 8-bit byte. -/
abbrev Byte := BitVec 8
/-- A 32-bit control-bus word. -/
abbrev Word := BitVec 32
/-- One count of GTC, 64 bits (R9). -/
abbrev Tick := BitVec 64
/-- A 256-byte tile row, line or sector; byte k is bits [8k+7:8k] (R7, R22). -/
abbrev Row := BitVec 2048
/-- A tile number on an engine port: 0-15 DT, 16-23 ST, 24-31 none (R44). -/
abbrev TileNo := BitVec 5
/-- A tile row number (R44). -/
abbrev RowNo := BitVec 7
/-- A route id (R180). -/
abbrev RouteId := BitVec 14
/-- A physical cell P0-P67 (R5). -/
abbrev PCell := Fin 68
/-- A logical cell L0-L63 within the instance (R5). -/
abbrev LCell := BitVec 6
/-- A quadrant Q0-Q3 (R6). -/
abbrev QuadNo := Fin 4
/-- A 52-bit package-global physical address (R365). -/
abbrev PAddr := BitVec 52
/-- A 48-bit virtual address (R113). -/
abbrev VAddr := BitVec 48
/-- A route descriptor of 128 bytes (R180). -/
abbrev Desc := BitVec 1024

/-- Saturating count: the counters of R409 stay at their largest value. -/
def satTo (limit n : Nat) : Nat := if n ≤ limit then n else limit

/-- `a` rounded up to a multiple of `k`, in units of `k`. -/
def ceilDiv (a k : Nat) : Nat := (a + k - 1) / k

end Sys2Proof
end

