-- ==== Sys2Proof/Syntax.lean ====
section
/-! DEFINITION. The commands of the block: one constructor per row of the opcode table, with the row's operands.
An operand is what reaches the block from outside at that step, or names which of the block's own activities the
step concerns. `now` is the GTC value at which a tick event is taken (R382), `aclk` the number of the ACLK. -/

namespace Sys2Proof

/-- An engine port: the DEP (`sep = false`) or the SEP of a physical cell (R43, R44). -/
structure EPort where
  p   : PCell
  sep : Bool
  deriving DecidableEq, Repr

/-- What the SECDED check of a read finds (R97, R293), or the answer of the memory side to it (R63, R115). -/
inductive Ecc where
  | ok
  | corrected
  | uncorr
  deriving DecidableEq, Repr

/-- What the SECDED check finds on one row of a tile (R97). A list of them says what the reads of a command find: a row that it does
not name is free of errors. -/
structure RowEcc where
  tile : TileNo
  row  : RowNo
  ecc  : Ecc
  deriving DecidableEq, Repr

/-- What the reads of a unit of a run find: on its tile rows (R97), and on the first line of a source in memory (R117, R293). -/
structure UnitEcc where
  rows : List RowEcc
  line : Ecc
  deriving DecidableEq, Repr

/-- A unit of a run, with what the reads of it find. -/
structure UnitRead where
  unit : Nat
  ecc  : UnitEcc
  deriving DecidableEq, Repr

/-- Four consecutive samples of EP_ID on one port (R58). -/
structure IdSample where
  e  : EPort
  s0 : BitVec 64
  s1 : BitVec 64
  s2 : BitVec 64
  s3 : BitVec 64
  deriving DecidableEq, Repr

/-- One XSP message as it arrives: header fields of R66 and payload. `framed` is false for a beat without SOP after an
EOP or an SOP inside a message (R74 no. 13); `beats` counts the 512-byte beats from SOP to EOP (R65); `rsvdZero` says
that every reserved byte of the header is zero. -/
structure XMsg where
  type     : Byte
  flags    : Byte
  src      : BitVec 16
  dst      : BitVec 16
  vshard   : BitVec 16
  step     : BitVec 48
  stream   : BitVec 16
  length   : BitVec 16
  seq      : BitVec 32
  pcrc     : BitVec 32
  rsvdZero : Bool
  framed   : Bool
  beats    : Nat
  payload  : List Byte
  deriving DecidableEq, Repr

/-- Does a report to the master ask for recovery hold (R299), and is an INSTFATAL the reason, with which the package's heartbeats stop? -/
inductive HoldAsk where
  | no
  | asked
  | fatal
  deriving DecidableEq, Repr

/-- The activity that a page-table walk or a default-target answer concerns (R115, R175, R192). -/
inductive Who where
  | row   (e : EPort) (tag : Byte) (row : RowNo)   -- a row of a TLOAD or TSTORE
  | line  (route : RouteId) (va : VAddr) (write : Bool)   -- a line of a run
  | other                                           -- any other initiator of the network
  deriving DecidableEq, Repr

/-- A put or get of the stash: a command of a port or a run (R234, R238). -/
inductive StashWho where
  | port (e : EPort) (tag : Byte)
  | run  (route : RouteId)
  deriving DecidableEq, Repr

/-- The two virtual channels a packet below QoS 15 may take, and the one of QoS 15 (R159). -/
inductive VChan where
  | req
  | rsp
  | svc
  deriving DecidableEq, Repr

/-- What a packet carries (R159): REQ takes the first two, RSP the other two. -/
inductive PKind where
  | read        -- a read request
  | writeData
  | readData
  | writeAck
  deriving DecidableEq, Repr

/-- The initiator of an access: its station and port (R160, R161), which its packets carry with the QoS (R158, R166). -/
structure Initiator where
  station : Fin 11
  port    : BitVec 5
  qos     : Nat
  deriving DecidableEq, Repr

/-- A packet that waits in the pool of a target port (R158, R168). `bytes` counts its payload `data`, or what a read asks for; `station`
and `init` name its initiator, `inst`, `dest` and `target` where it goes: the instance (R370), the spine station at which it leaves the ring
(R162) and the port behind it. `mem` marks one on a memory path (R174), `lane` is its lane of the channel (R163), `through` marks one that
is already on the ring; `entry` is the NCLK in which it entered the pool, or in which its initiator began to hold it. -/
structure Packet where
  addr  : PAddr
  qos   : BitVec 4
  svcCore : Bool        -- from the service core or the traffic that R166 lists under 15
  station : Fin 11
  init  : BitVec 5
  seq   : Nat
  vc    : VChan
  kind  : PKind
  bytes : Nat
  data  : List Byte
  inst  : BitVec 3
  dest  : Fin 11
  target : Nat
  mem   : Bool
  lane  : Bool
  through : Bool
  entry : Nat
  deriving DecidableEq, Repr

/-- A link of the network (R178, R179). -/
inductive Link where
  | matrixCell (p : PCell)                  -- the matrix port link of a cell
  | matrixPort (q : QuadNo) (port : BitVec 5)   -- another port of R160
  | station (s : Fin 11)                    -- the attachment of a spine station
  | spine (s : Fin 11) (up : Bool)          -- one direction of the segment between station s and s + 1 mod 11
  | wiquin (w : Fin 4)
  | remote                                  -- a Wiquin link between two other instances of the package (R372)
  deriving DecidableEq, Repr

/-- The word a patrol-scrub read names (R403), or one of the structures that no patrol reads and R293 checks at each read. -/
inductive ScrubWord where
  | cacheLine (line : Nat)       -- a line by its package-global address divided by 256
  | stash (dirIndex : Nat)       -- space of the entry at a directory index
  | route (id : RouteId)
  | gen (idx : BitVec 12)
  | dir (dirIndex : Nat)
  | claims (index : Nat)         -- a word of the overlap or accumulate table, read by a start check (R293)
  | service (word : Nat)         -- a word of service-core RAM, read by firmware (R293)
  deriving DecidableEq, Repr

/-- The outcome of the row test of R306, or of BIST on a row (R303, R307): the banks whose entry of this row fails a pattern. -/
structure RowTest where
  p    : PCell
  tile : TileNo
  row  : RowNo
  failing : List (Fin 8)
  deriving DecidableEq, Repr

/-- What the block measures and samples when ORL_RST_N rises (R29, R71). -/
structure Release where
  aclkMHz  : BitVec 12
  nclkMHz  : BitVec 16
  phaseOk  : Bool
  id       : BitVec 3
  master   : Bool
  gradeS   : Bool
  ids      : List IdSample
  deriving DecidableEq, Repr

/-- IEEE 1149.1 and IEEE 1500 instructions of R73. -/
inductive TapInstr where
  | bypass
  | idcode
  | samplePreload
  | wsBypass
  | wsExtest
  | wsIntest
  | memBist
  deriving DecidableEq, Repr

/-- Who has firmware apply a command of scope P (R354): a host through a mailbox, or the master over Wiquin with the request that it took. -/
inductive Caller where
  | mailbox (n : Fin 8)
  | master (req : BitVec 2048)
  deriving DecidableEq, Repr

/-- The commands of the block. Trisia commands name the mailbox whose taken request firmware executes (R350, R355). -/
inductive Instr where
  -- engine-port command beats (R49): `arg` holds bits [127:16] of the beat
  | tcfg (e : EPort) (tag : Byte) (arg : BitVec 112)
  | tload (e : EPort) (tag : Byte) (arg : BitVec 112)
  | tstore (e : EPort) (tag : Byte) (arg : BitVec 112)
  | tzero (e : EPort) (tag : Byte) (arg : BitVec 112)
  | tmove (e : EPort) (tag : Byte) (arg : BitVec 112) (ecc : List RowEcc)
  | trelease (e : EPort) (tag : Byte) (arg : BitVec 112)
  | rkick (e : EPort) (tag : Byte) (arg : BitVec 112)
  | rwait (e : EPort) (tag : Byte) (arg : BitVec 112)
  | rvread (e : EPort) (tag : Byte) (arg : BitVec 112) (rvEcc : List (BitVec 7 × Ecc))
  | stashput (e : EPort) (tag : Byte) (arg : BitVec 112)
  | stashget (e : EPort) (tag : Byte) (arg : BitVec 112)
  | fence (e : EPort) (tag : Byte) (arg : BitVec 112)
  | reservedOpcodeBeat (e : EPort) (op : Byte) (tag : Byte) (arg : BitVec 112)
  | commandStart (e : EPort) (ecc : List RowEcc)
  -- operand reads, result writes, grants, engine errors
  | operandReadRequest (e : EPort) (a b : BitVec 12) (aclk : Nat) (eccA eccB : Ecc)
  | resultWrite (e : EPort) (tile : TileNo) (row : RowNo) (data : Row) (rctl : Byte) (aclk : Nat) (ecc : List RowEcc) (rvEcc : Ecc)
  | correctedRowWriteback (p : PCell) (tile : TileNo) (row : RowNo)
  | currentGrantRequest (e : EPort) (amt : BitVec 12) (aclk : Nat)
  | rampRefill (now : Tick)
  | epErrReport (e : EPort) (v : BitVec 2)
  -- loads and stores
  | atuWalkComplete (w : Who) (ecc : Ecc)
  | loadRowArrival (e : EPort) (tag : Byte) (row : RowNo) (ecc : Ecc)
  | storeRowWritten (e : EPort) (tag : Byte) (row : RowNo) (piece : Nat) (ecc : Ecc)
  -- routes
  | armedTickKick (now : Tick) (route : RouteId)
  | routeRunStart (q : QuadNo)
  | routeLineArrival (route : RouteId) (unit : Nat) (ecc : UnitEcc)
  | routeLineFault (route : RouteId) (unit : UnitRead)
  | routeRunEnd (route : RouteId)
  | streamPrefetch (route : RouteId)
  | indexWindow (route : RouteId) (ecc : Ecc)
  | windowFoldDone (route : RouteId) (w : Nat) (rows : List RowEcc) (ecc : Ecc)
  | scatterPartialApply (route : RouteId) (w row : Nat) (ecc : Ecc)
  -- network
  | packetGrant (target : Nat) (nclk : Nat) (arrivals : List Packet) (credits : List VChan)
  | defaultTargetAnswer (q : QuadNo) (port : BitVec 5) (addr : PAddr) (write : Bool) (w : Who)
  | flitCrcFail (l : Link) (replayed : Bool) (reach : BitVec 8)
  | linkFail (l : Link) (reach : BitVec 8)
  -- memory-side ports
  | mspReadSector (m : Fin 6) (id : BitVec 12) (seq : BitVec 4) (status : BitVec 2) (data : Row)
  | mspWriteResponse (m : Fin 6) (id : BitVec 12) (status : BitVec 2)
  | mspTimeout (m : Fin 6) (id : BitVec 12) (now : Tick)
  | mspIdAck (m : Fin 6) (data : Word)
  | mspIdTimeout (m : Fin 6)
  -- external station ports
  | gradientPartial (x : Fin 2) (msg : XMsg)
  | parityDelta (x : Fin 2) (msg : XMsg)
  | rebuildStream (x : Fin 2) (msg : XMsg) (fails : List (Nat × Nat))
  | stepvoid (x : Fin 2) (msg : XMsg)
  | heartbeat (x : Fin 2) (msg : XMsg)
  | divergenceDigest (x : Fin 2) (msg : XMsg)
  | tickValue (x : Option (Fin 2)) (msg : XMsg)   -- none: passed on by another instance of the package (R380)
  | xspBadMessage (x : Fin 2) (msg : XMsg)
  | heartbeatSend (now : Tick)
  | peerLossTimeout (chip : BitVec 16) (now : Tick)
  | digestExchange (now : Tick)
  -- Tumbler and step machinery
  | replayAgreementTimeout (now : Tick)
  | replayTick (now : Tick)
  | launchTick (now : Tick) (ids : List IdSample)
  | stepDueTick (now : Tick)
  | boundaryDecided (now : Tick)
  | boundaryTaken (now : Tick)
  -- stash, generations, checkpoint
  | stashSpaceFreed (w : StashWho)
  | stashTimeout (w : StashWho) (now : Tick)
  | stashSpill (w : StashWho)
  | stashRefill (q : QuadNo)
  | genwaitRelease (route : RouteId)
  | genTimeout (route : RouteId) (now : Tick)
  | checkpointDrainDone (idx : BitVec 12) (ecc : Ecc)
  -- fills, cell power, scrub
  | fillStageDone (pass : Bool) (ids : List IdSample) (rows : List RowTest)
  | cellPowerStageDone (p : PCell) (pass : Bool) (ids : List IdSample) (rows : List RowTest)
  | patrolScrub (w : ScrubWord) (ecc : Ecc)
  -- error log
  | pennantRecordWrite
  | coalesceDrain
  | preresetFall
  | preresetRise
  -- reset and start-up
  | resetRelease (r : Release)
  | resetAssert
  | instanceWipeDone (badCells : List PCell) (badOther : Bool)
  | wiquinTraining (w : Fin 4) (reversed : Bool) (both : Bool) (w0 w1 w2 w3 : BitVec 64)
  | wiquinTrainTimeout (w : Fin 4)
  | masterSettlement (words : List (BitVec 64)) (reach : BitVec 8) (gtc : Tick) (canon : BitVec 8) (late : Bool)
  | peerIdentityWord (word : BitVec 64) (canon : Bool)
  | lateJoinRequest (id : BitVec 3)
  | voidReportToMaster (id : BitVec 3) (cause : Byte) (hold : HoldAsk) (notBefore : Tick)
  | gtcSyncPulse (now : Tick)
  | syncHoldover (now : Tick)
  | timingFlit (masterGtc : Tick) (launch : Tick) (clErr : BitVec 16) (load : Bool)
  | bootImageChunk
  | firmwareVerifyDone
  -- mailboxes and the control bus
  | mbRing (n : Fin 8)
  | mbAck (n : Fin 8)
  | mbResponse (n : Fin 8) (lost : Option (BitVec 3))
  | mbRequestWrite (n : Fin 8) (word : BitVec 6) (val : Word)
  | routeWindowWrite (route : RouteId) (word : BitVec 5) (val : Word)
  | gtcLaunchHiWrite (val : Word)
  | irqStsW1c (val : Word)
  | irqEnWrite (val : Word)
  | tfFaultClear (p : PCell) (val : Word)
  | buntingWrite (off : BitVec 24) (be : BitVec 4) (val : Word)
  | buntingRead (off : BitVec 24)
  | pairLoReadLatch (off : BitVec 24)
  | registerWrite (off : BitVec 24) (be : BitVec 4) (val : Word)
  | tapInstruction (ir : TapInstr)
  -- Trisia commands
  | info (n : Fin 8)
  | identRead (n : Fin 8)
  | cellmapRead (n : Fin 8)
  | steprecRead (n : Fin 8)
  | stashdirRead (n : Fin 8)
  | gentabRead (n : Fin 8)
  | memRead (n : Fin 8) (ecc : Ecc)
  | jobConfigure (n : Caller)
  | routeLoad (n : Fin 8)
  | routeKick (n : Fin 8)
  | routeArm (n : Fin 8)
  | genRegister (n : Fin 8)
  | stashAbort (n : Fin 8)
  | cursorSet (n : Caller)
  | detSet (n : Caller)
  | haltSet (n : Caller)
  | pause (n : Caller)
  | snapshotExport (n : Caller)
  | resume (n : Caller)
  | digestConfigure (n : Caller)
  | xlateInvalidate (n : Caller)
  | cacheFlush (n : Fin 8)
  | preempt (n : Fin 8)
  | buntGroup (n : Fin 8)
  | ctxSave (n : Fin 8) (ecc : List RowEcc)
  | ctxRestore (n : Fin 8)
  | parityConfigure (n : Caller) (agree : Bool)
  | parityResync (n : Caller)
  | parityRebuild (n : Caller) (lostStale : Bool) (two : Bool)
  | recoveryJoin (n : Caller)
  | recoveryResume (n : Caller)
  | ckptArm (n : Caller)
  | cellRepair (n : Fin 8)
  | pennantAck (n : Fin 8)
  | logConfigure (n : Fin 8)
  | memWrite (n : Fin 8) (ecc : Ecc)
  | imageLoad (n : Fin 8)
  | powerConfigure (n : Fin 8)
  | cellPower (n : Fin 8)
  | tickConfigure (n : Caller)
  | lifecycleSet (n : Fin 8) (fuseOk : Bool)
  | mbGrant (n : Fin 8)
  | testRun (n : Fin 8) (failing : BitVec 32)
  | reservedTrisiaOpcode (n : Fin 8)
  -- the last rows of the table
  | xspLinkStateChange (x : Fin 2) (up : Bool)
  | epCgAmtChange (e : EPort) (amt : BitVec 12)
  | stashRowTransfer (w : StashWho) (ecc : List RowEcc)
  | hostReadDecerr (off : BitVec 24) (be : BitVec 4)
  | pairHiRead (off : BitVec 24)
  | voidCleanupDone (tests : List RowTest)
  deriving DecidableEq, Repr

end Sys2Proof
end

