-- ==== Sys2Proof/Decode.lean ====
section
/-! DEFINITION. Commands that a word spells. The table gives no row any bits: every command reaches the block over an
interface of its own (an engine port, a station port, the control bus, a pin, an event inside the block), so no word
spells one. -/

namespace Sys2Proof

/-- The command that a word spells by the bits the table gives its rows: none, since it gives none. -/
def decodeTableWord (_nbits _w : Nat) : Option Instr := none

end Sys2Proof
end

