-- ==== Sys2Proof/Config.lean ====
section
/-! DEFINITION. Values the manual leaves open, as constants with no body: nothing can evaluate them, so a claim holds
whatever they are. Each is applied to the operands it depends on or to the counter `State.free`. -/

namespace Sys2Proof

/-- Which free place of the stash directory a put takes (R232 gives no rule): a free value, reduced modulo the number
of free places. Log entry 20. -/
opaque Config.dirPick : Nat → Nat

/-- Offset of an entry within its stash slice in units of 256 B (R232, R239 give no rule). Log entry 20. -/
opaque Config.slicePlace : Nat → BitVec 16

/-- Offset of an entry within the spill region in units of 256 B (R232, R240 give no rule). Log entry 20. -/
opaque Config.spillPlace : Nat → BitVec 32

/-- Which unused transaction id an MSP request carries (R61 gives no rule): a free value, reduced modulo the number of
unused ids. Log entry 21. -/
opaque Config.txnPick : Nat → Nat

/-- The set of its operand-cache slice in which a line lies (R25 and R31 give the sets, no rule gives the index): a free value, reduced
modulo the number of sets. Log entry 8. -/
opaque Config.cacheSet : Nat → Nat

/-- The set of the translation cache in which a leaf lies (R116 gives no index). Log entry 8. -/
opaque Config.tlbSet : Nat → Nat

/-- Which entry of a full set of the operand cache, the translation cache or the walk cache leaves it (R116, R118 give no rule). Log
entry 8. -/
opaque Config.victim : Nat → Nat

/-- What a byte of a lane that a reset or an instance wipe finds dirty in the operand cache, or in a write its controller has
not answered, reads as afterwards: the stack's older byte, which the model does not keep (R400, R402). Log entry 32. -/
opaque Config.staleByte : Nat → Nat → Byte

/-- A code before the faulting position of a converting run whose block has an element that is not read (R192 has its lane written, and its
shared scale is not known). Log entry 106. -/
opaque Config.cutByte : Nat → Nat → Byte

/-- Links on the shortest way between two other instances of the package (R369, R370), after so many of the links between others have failed
(R372): the wiring is not in this instance's state. Log entry 77. -/
opaque Config.wqLinks : Nat → Nat → Nat → Nat

/-- The value IDCODE shifts out (R73 gives none). Log entry 22. -/
opaque Config.idcode : BitVec 32

/-- The firmware build that INFO returns (R357 gives none), by the image that runs. Log entry 23. -/
opaque Config.fwBuild : List Byte → BitVec 32

/-- Scale byte and element code of a BP1 block of padding with a PADCONST that is not zero (R151 defines no encoding into
BP1, R182 asks for one). Log entry 26. -/
opaque Config.bp1Pad : Word → Byte × Bool

/-- Whether an image's ECDSA P-384 signature verifies against the public key in the boot ROM (R347; the key is not
given). Log entry 24. -/
opaque Config.sigValid : List Byte → Bool

/-- Does the report of this number at an intake fall into the NCLK of the report before it, at the same tick (R332)? The spec gives NCLK no
relation to the ticks of GTC that says (log entry 13). -/
opaque Config.sameNclk : Nat → Nat → Bool

/-- Length of the snapshot image of another instance of the package (R357, R359), which is outside this instance. Log entry 6. -/
opaque Config.peerLength : Nat → BitVec 64

/-- VSHARD with which a tensor stands registered after RECOVERY_JOIN: the copied table (R250) does not carry it. Log entry 36. -/
opaque Config.joinVshard : Nat → BitVec 16

end Sys2Proof
end

