-- ==== Sys2Proof/Machine/Numeric.lean ====
section
/-! DEFINITION. Exact arithmetic behind the element formats (05_element_formats.md): values as signed dyadics, one
rounding at the end, FP32 addition, multiplication and division rounded to nearest even (R100, R151, R219), and the
layouts of R131. -/

namespace Sys2Proof.Machine

/-- A value: NaN, an infinity, or ± m * 2^e. -/
inductive Fp where
  | nan
  | inf (neg : Bool)
  | fin (neg : Bool) (m : Nat) (e : Int)
  deriving DecidableEq, Repr

/-- A scalar float layout of R131: exponent and mantissa widths, bias, largest finite magnitude code, whether the
type has infinities (whose code is then `maxFin + 1`), the canonical NaN and the smallest magnitude code that encodes NaN. -/
structure FFmt where
  ebits  : Nat
  mbits  : Nat
  bias   : Nat
  maxFin : Nat
  hasInf : Bool
  nan    : Option Nat
  deriving DecidableEq, Repr

/-- Width of a scalar type in bits, sign included. -/
def FFmt.width (f : FFmt) : Nat := 1 + f.ebits + f.mbits

def fp32 : FFmt := ⟨8, 23, 127, 0x7F7FFFFF, true, some 0x7FC00000⟩
def bf16 : FFmt := ⟨8, 7, 127, 0x7F7F, true, some 0x7FC0⟩
def fp16 : FFmt := ⟨5, 10, 15, 0x7BFF, true, some 0x7E00⟩
def e4m3 : FFmt := ⟨4, 3, 7, 0x7E, false, some 0x7F⟩
def e5m2 : FFmt := ⟨5, 2, 15, 0x7B, true, some 0x7E⟩
def e3m2 : FFmt := ⟨3, 2, 3, 0x1F, false, none⟩
def e2m1 : FFmt := ⟨2, 1, 1, 0x7, false, none⟩

/-- The value of magnitude code `x` of a float type (sign apart), R131. -/
def FFmt.mag (f : FFmt) (x : Nat) : Nat × Int :=
  let ex := x / 2 ^ f.mbits
  let m := x % 2 ^ f.mbits
  let lsb : Int := 1 - f.bias - f.mbits
  if ex = 0 then (m, lsb) else (2 ^ f.mbits + m, lsb + (ex - 1))

/-- Decoding of a scalar float (R131, R133: subnormals kept). -/
def FFmt.decode (f : FFmt) (x : Nat) : Fp :=
  let neg := (x / 2 ^ (f.ebits + f.mbits)) % 2 = 1
  let mg := x % 2 ^ (f.ebits + f.mbits)
  if mg ≤ f.maxFin then .fin neg (f.mag mg).1 (f.mag mg).2
  else if f.hasInf && mg = f.maxFin + 1 then .inf neg
  else .nan

/-- How a value between two destination values is rounded (R152, R153): to nearest even, or stochastically with the
element's 16-bit random value. -/
inductive Rnd where
  | rne
  | stoch (u : Nat)
  deriving DecidableEq, Repr

/-- `m / 2^d` rounded to an integer (R152, R153). -/
def roundShift (r : Rnd) (m d : Nat) : Nat :=
  let q := m / 2 ^ d
  let rem := m % 2 ^ d
  match r with
  | .rne => if 2 * rem > 2 ^ d ∨ (2 * rem = 2 ^ d ∧ q % 2 = 1) then q + 1 else q
  | .stoch u => if u < rem * 65536 / 2 ^ d then q + 1 else q

/-- `m * 2^e` rounded to an integer. -/
def roundInt (r : Rnd) (m : Nat) (e : Int) : Nat :=
  if 0 ≤ e then m * 2 ^ e.toNat else roundShift r m (-e).toNat

/-- Magnitude code of `m * 2^e`, rounded once; it may exceed `maxFin`, which is an overflow. -/
def FFmt.encMag (f : FFmt) (r : Rnd) (m : Nat) (e : Int) : Nat :=
  if m = 0 then 0
  else
    let top : Int := m.log2 + e
    let emin : Int := 1 - f.bias
    let base : Int := if top < emin then emin else top
    let lsb : Int := base - f.mbits
    let q := if lsb ≤ e then m * 2 ^ (e - lsb).toNat else roundShift r m (lsb - e).toNat
    (base - emin).toNat * 2 ^ f.mbits + q

/-- Code with its sign bit. -/
def FFmt.withSign (f : FFmt) (neg : Bool) (mg : Nat) : Nat :=
  if neg then mg + 2 ^ (f.ebits + f.mbits) else mg

/-- A value as FP32 bits, rounded to nearest even; overflow gives an infinity and NaN the canonical NaN (R131, R219). -/
def Fp.toF32 : Fp → Word
  | .nan => 0x7FC00000
  | .inf neg => BitVec.ofNat 32 (fp32.withSign neg 0x7F800000)
  | .fin neg m e =>
    let c := fp32.encMag .rne m e
    BitVec.ofNat 32 (fp32.withSign neg (if c ≤ fp32.maxFin then c else 0x7F800000))

/-- FP32 bits as a value. -/
def ofF32 (w : Word) : Fp := fp32.decode w.toNat

/-- ± m * 2^e as an integer multiple of 2^k, for k ≤ e. -/
def scaled (neg : Bool) (m : Nat) (e k : Int) : Int :=
  let v : Int := (m * 2 ^ (e - k).toNat : Nat)
  if neg then -v else v

/-- Exact sum; a zero sum is +0 unless both operands are negative (R219). -/
def Fp.add : Fp → Fp → Fp
  | .nan, _ => .nan
  | _, .nan => .nan
  | .inf a, .inf b => if a = b then .inf a else .nan
  | .inf a, .fin .. => .inf a
  | .fin .., .inf b => .inf b
  | .fin na ma ea, .fin nb mb eb =>
    let k := min ea eb
    let s := scaled na ma ea k + scaled nb mb eb k
    if s = 0 then .fin (na && nb) 0 k else .fin (decide (s < 0)) s.natAbs k

/-- Exact product. -/
def Fp.mul : Fp → Fp → Fp
  | .nan, _ => .nan
  | _, .nan => .nan
  | .inf a, .inf b => .inf (a != b)
  | .inf a, .fin nb mb _ => if mb = 0 then .nan else .inf (a != nb)
  | .fin na ma _, .inf b => if ma = 0 then .nan else .inf (na != b)
  | .fin na ma ea, .fin nb mb eb => .fin (na != nb) (ma * mb) (ea + eb)

/-- FP32 addition, round to nearest even (R219). -/
def f32Add (a b : Word) : Word := ((ofF32 a).add (ofF32 b)).toF32

/-- FP32 multiplication, round to nearest even (R100, R266). -/
def f32Mul (a b : Word) : Word := ((ofF32 a).mul (ofF32 b)).toF32

/-- Maximum of R101: NaN if either is NaN, and +0.0 above −0.0. -/
def f32Max (a b : Word) : Word :=
  match ofF32 a, ofF32 b with
  | .nan, _ => 0x7FC00000
  | _, .nan => 0x7FC00000
  | _, _ =>
    let key (w : Word) : Int := if w.msb then -(w.toNat - 0x80000000 : Int) - 1 else w.toNat
    if key a < key b then b else a

/-- FP32 quotient of a finite non-negative dividend and a positive divisor, round to nearest even (R151). The
quotient carries 64 extra bits and a sticky bit, so that it is rounded once. -/
def divDyadic (m1 : Nat) (e1 : Int) (m2 : Nat) (e2 : Int) : Nat × Int :=
  let k := 64 + m2.log2
  let q := (m1 * 2 ^ k) / m2
  let sticky := if (m1 * 2 ^ k) % m2 = 0 then 0 else 1
  (2 * q + sticky, e1 - e2 - k - 1)

/-- FP32 division by a positive finite divisor (R151). -/
def f32Div (a b : Word) : Word :=
  match ofF32 a, ofF32 b with
  | .fin na ma ea, .fin _ mb eb =>
    if mb = 0 then 0x7FC00000
    else (Fp.fin na (divDyadic ma ea mb eb).1 (divDyadic ma ea mb eb).2).toF32
  | .inf na, .fin .. => (Fp.inf na).toF32
  | _, _ => 0x7FC00000

/-- |m1 * 2^e1| ≤ |m2 * 2^e2|. -/
def magLe (m1 : Nat) (e1 : Int) (m2 : Nat) (e2 : Int) : Bool :=
  let k := min e1 e2
  decide (m1 * 2 ^ (e1 - k).toNat ≤ m2 * 2 ^ (e2 - k).toNat)

/-! ### Philox4x32-10 (R275) -/

/-- One round on counter words and key. -/
def philoxRound (c : Word × Word × Word × Word) (k : Word × Word) : Word × Word × Word × Word :=
  let p0 := 0xD2511F53 * c.1.toNat
  let p1 := 0xCD9E8D57 * c.2.2.1.toNat
  let hi (p : Nat) : Word := BitVec.ofNat 32 (p / 2 ^ 32)
  let lo (p : Nat) : Word := BitVec.ofNat 32 p
  (hi p1 ^^^ c.2.1 ^^^ k.1, lo p1, hi p0 ^^^ c.2.2.2 ^^^ k.2, lo p0)

/-- `n` rounds, the key bumped after each. -/
def philoxRounds : Nat → Word × Word × Word × Word → Word × Word → Word × Word × Word × Word
  | 0, c, _ => c
  | n + 1, c, k => philoxRounds n (philoxRound c k) (k.1 + 0x9E3779B9, k.2 + 0xBB67AE85)

/-- The 128-bit output for a seed and a counter (R275). -/
def philox (seed : BitVec 64) (ctr : BitVec 128) : BitVec 128 :=
  let c := philoxRounds 10 (ctr.extractLsb' 0 32, ctr.extractLsb' 32 32, ctr.extractLsb' 64 32, ctr.extractLsb' 96 32)
    (seed.extractLsb' 0 32, seed.extractLsb' 32 32)
  c.2.2.2 ++ c.2.2.1 ++ c.2.1 ++ c.1

/-- The random value u of element `i` of a run (R154). -/
def randU (seed : BitVec 64) (step : BitVec 48) (stream vshard : BitVec 16) (i : Nat) : Nat :=
  let ctr : BitVec 128 := step ++ stream ++ vshard ++ BitVec.ofNat 48 (i / 8)
  ((philox seed ctr).extractLsb' (16 * (i % 8)) 16).toNat

/-! ### CRCs (R66, R106, R288) and GF(2^8) (R311) -/

/-- One byte into CRC-64/ECMA-182, most significant bit first (R288). -/
def crc64Byte (crc : BitVec 64) (b : Byte) : BitVec 64 :=
  let step (c : BitVec 64) : BitVec 64 := if c.msb then (c <<< 1) ^^^ 0x42F0E1EBA9EA3693 else c <<< 1
  let c0 := crc ^^^ (b.setWidth 64 <<< 56)
  step (step (step (step (step (step (step (step c0)))))))

def crc64 (crc : BitVec 64) (bs : List Byte) : BitVec 64 := bs.foldl crc64Byte crc

/-- One byte into CRC-32C, reflected. -/
def crc32cByte (crc : Word) (b : Byte) : Word :=
  let step (c : Word) : Word := if c.getLsbD 0 then (c >>> 1) ^^^ 0x82F63B78 else c >>> 1
  let c0 := crc ^^^ b.setWidth 32
  step (step (step (step (step (step (step (step c0)))))))

/-- CRC-32C of a byte string. -/
def crc32c (bs : List Byte) : Word := ~~~ (bs.foldl crc32cByte 0xFFFFFFFF)

/-- Doubling in GF(2^8) modulo x^8 + x^4 + x^3 + x^2 + 1 (R311). -/
def gfDouble (a : Byte) : Byte := if a.msb then (a <<< 1) ^^^ 0x1D else a <<< 1

/-- Product in GF(2^8): the partial products of b's bits, from its most significant bit. -/
def gfMul (a b : Byte) : Byte :=
  (List.range 8).foldl (fun acc i => gfDouble acc ^^^ (if b.getLsbD (7 - i) then a else 0)) 0

/-- g^n for g = 2. -/
def gfPow : Nat → Byte
  | 0 => 1
  | n + 1 => gfDouble (gfPow n)

/-- Inverse in GF(2^8): a^254. -/
def gfInv (a : Byte) : Byte :=
  let a2 := gfMul a a
  let a4 := gfMul a2 a2
  let a8 := gfMul a4 a4
  let a16 := gfMul a8 a8
  let a32 := gfMul a16 a16
  let a64 := gfMul a32 a32
  let a128 := gfMul a64 a64
  gfMul (gfMul (gfMul a128 a64) (gfMul a32 a16)) (gfMul (gfMul a8 a4) a2)

/-- The pairwise tree of R221. -/
def treePass (op : Word → Word → Word) : List Word → List Word
  | a :: b :: r => op a b :: treePass op r
  | r => r

/-- Passes until one value is left; `fuel` passes suffice for a list of at most 2^fuel values. -/
def treeFold (op : Word → Word → Word) : Nat → List Word → Word
  | 0, l => l.headD 0
  | n + 1, l => treeFold op n (treePass op l)

end Sys2Proof.Machine
end

