-- ==== Sys2Proof/Machine/Formats.lean ====
section
/-! DEFINITION. Element formats (05_element_formats.md): format codes, bit packing, decoding to FP32 and encoding from
it with the overflow and NaN policy, microscaling and bit-plane blocks, tile row placement of scaled formats. -/

namespace Sys2Proof.Machine

/-- Bit-plane codes BP1-BP8 (R129). -/
def isBP (f : BitVec 5) : Bool := 0x10 ≤ f.toNat && f.toNat ≤ 0x17
/-- Planes k of a BPk code (R129). -/
def bpK (f : BitVec 5) : Nat := f.toNat - 0x0F
/-- Microscaling codes (R129). -/
def isMX (f : BitVec 5) : Bool := f == 0x08 || f == 0x09 || f == 0x0A
def isNP4 (f : BitVec 5) : Bool := f == 0x1E

/-- Defined format codes; every other is reserved (R129, R130). -/
def fmtDefined (f : BitVec 5) : Bool := f.toNat ≤ 5 || isMX f || isBP f || isNP4 f

/-- Formats with a block scale (R129). -/
def hasScale (f : BitVec 5) : Bool := isMX f || isBP f || isNP4 f

/-- Bits b of one element in its data array; 1 per plane for BPk (R129). -/
def fmtBits (f : BitVec 5) : Nat :=
  match f.toNat with
  | 0x00 => 32
  | 0x01 | 0x02 => 16
  | 0x03 | 0x04 | 0x05 | 0x08 => 8
  | 0x09 => 6
  | 0x0A | 0x1E => 4
  | _ => 1

/-- eb(f, n): byte offset of element n in a data array, in plane bytes for BPk (R194). -/
def eb (f : BitVec 5) (n : Nat) : Nat := n * fmtBits f / 8

/-- The scalar float layout of a code, or of the elements of an MX code (R129, R131). -/
def scalarOf (f : BitVec 5) : Option FFmt :=
  match f.toNat with
  | 0x00 => some fp32
  | 0x01 => some bf16
  | 0x02 => some fp16
  | 0x03 | 0x08 => some e4m3
  | 0x04 => some e5m2
  | 0x09 => some e3m2
  | 0x0A => some e2m1
  | _ => none

/-- Two's complement reading of the low `n` bits. -/
def signed (n x : Nat) : Int := if x % 2 ^ n < 2 ^ (n - 1) then (x % 2 ^ n : Nat) else (x % 2 ^ n : Nat) - (2 ^ n : Int)

/-- An integer as a value. -/
def ofInt (q : Int) : Fp := .fin (decide (q < 0)) q.natAbs 0

/-- `n` bits at bit offset `o` of a byte string given by its bytes, little-endian (R132). -/
def bitsAt (rd : Nat → Byte) (o n : Nat) : Nat :=
  let a := o / 8
  let k := (o % 8 + n + 7) / 8
  let v := (List.range k).foldl (fun acc i => acc + (rd (a + i)).toNat * 2 ^ (8 * i)) 0
  v / 2 ^ (o % 8) % 2 ^ n

/-- Bytes of a little-endian integer. -/
def bytesOf (n v : Nat) : List Byte := (List.range n).map fun i => BitVec.ofNat 8 (v / 2 ^ (8 * i))

/-- Little-endian integer of bytes. -/
def natOf (bs : List Byte) : Nat := bs.foldr (fun b acc => b.toNat + 256 * acc) 0

/-- Packs element codes of `b` bits in index order (R132). -/
def packCodes (b : Nat) (codes : List Nat) : Nat := codes.foldr (fun c acc => c + 2 ^ b * acc) 0

/-- E8M0 scale as a value: 2^(x - 127), NaN at 0xFF (R131). -/
def e8m0 (x : Byte) : Fp := if x = 0xFF then .nan else .fin false 1 (x.toNat - 127)

/-- The exact value of an element with raw bits `raw` and scale byte `sc` (R134, R138, R148). For BPk and NP4 `raw` is
the integer's bits; under a negative scale the integer 0 is −0.0, the sign of the product (log entry 61). -/
def elemValue (f : BitVec 5) (raw : Nat) (sc : Byte) : Fp :=
  if isBP f || isNP4 f then
    let k := if isNP4 f then 4 else bpK f
    match e4m3.decode sc.toNat with
    | .nan => .nan
    | .inf _ => .nan
    | .fin n m e =>
      let q := signed k raw
      if m = 0 then .fin false 0 0 else (Fp.fin n m e).mul (ofInt q)
  else if f == 0x05 then ofInt (signed 8 raw)
  else
    match scalarOf f with
    | none => .nan
    | some sf => if isMX f then (sf.decode raw).mul (e8m0 sc) else sf.decode raw

/-- Decoding to FP32 outside the reducer: a product beyond the FP32 range follows P_FP32.OVF and counts once (R148). The rule names
MXFP8 and MXFP6; an MXFP4 product beyond the range (6 x 2^127) is treated in the same way (DESIGN CHOICE, log entry 80). -/
def decodeEl (f : BitVec 5) (ovf32 : Bool) (raw : Nat) (sc : Byte) : Word × Bool :=
  match elemValue f raw sc with
  | .fin neg m e =>
    let c := fp32.encMag .rne m e
    if c ≤ fp32.maxFin then ((Fp.fin neg m e).toF32, false)
    else ((if ovf32 then (Fp.inf neg).toF32 else BitVec.ofNat 32 (fp32.withSign neg fp32.maxFin)), true)
  | v => (if f == 0x00 then BitVec.ofNat 32 raw else v.toF32, false)

/-- Decoding in the row reducer, where a value beyond the FP32 range becomes an infinity (R137). -/
def decodeRed (f : BitVec 5) (raw : Nat) (sc : Byte) : Word :=
  if f == 0x00 then BitVec.ofNat 32 raw else (elemValue f raw sc).toF32

/-- The 2-bit policy field of a destination code in FMT_POLICY: (OVF, NANZ) (R155). -/
def policyOf (pol : Word) (f : BitVec 5) : Bool × Bool :=
  let at' (n : Nat) : Bool × Bool := (pol.getLsbD n, pol.getLsbD (n + 1))
  match f.toNat with
  | 0x00 => at' 0
  | 0x01 => at' 2
  | 0x02 => at' 4
  | 0x03 => at' 6
  | 0x04 => at' 8
  | 0x08 => at' 16
  | 0x09 => at' 18
  | 0x0A => at' 20
  | _ => (false, false)

/-- Overflow of a scalar float (R155, R156): infinity or the canonical NaN under OVF, else the largest finite value. -/
def overflowCode (f : FFmt) (ovf neg : Bool) : Nat :=
  if ovf then (if f.hasInf then f.withSign neg (f.maxFin + 1) else f.nan.getD f.maxFin) else f.withSign neg f.maxFin

/-- Encoding into a scalar float: code and whether the value counts under R157 (R149, R156). -/
def encFloat (f : FFmt) (pol : Bool × Bool) (r : Rnd) (v : Fp) : Nat × Bool :=
  match v with
  | .nan => if pol.2 then (0, true) else (f.nan.getD 0, false)
  | .inf neg => (overflowCode f pol.1 neg, !(f.hasInf && pol.1))
  | .fin neg m e =>
    let c := f.encMag r m e
    if c ≤ f.maxFin then (f.withSign neg c, false) else (overflowCode f pol.1 neg, true)

/-- Encoding into INT8: rounded to an integer and saturated; NaN becomes 0 (R149, R156). -/
def encInt8 (r : Rnd) (v : Fp) : Nat × Bool :=
  match v with
  | .nan => (0, true)
  | .inf neg => (if neg then 0x80 else 0x7F, true)
  | .fin neg m e =>
    let q := roundInt r m e
    if neg then (if q ≤ 128 then ((256 - q) % 256, false) else (0x80, true))
    else (if q ≤ 127 then (q, false) else (0x7F, true))

/-- An element to be encoded: a value, or padding of the lowest value (PADVAL 0b10, R182). -/
inductive Elt where
  | val (w : Word)
  | low
  deriving DecidableEq, Repr

/-- Value of an element, none for lowest-value padding. -/
def Elt.fp? : Elt → Option Fp
  | .val w => some (ofF32 w)
  | .low => none

/-- Lowest value of a scalar code: −infinity where there is one, else the most negative finite value (R182). -/
def lowCode (f : BitVec 5) : Nat :=
  if f == 0x05 then 0x80
  else match scalarOf f with
    | some sf => if sf.hasInf then sf.withSign true (sf.maxFin + 1) else sf.withSign true sf.maxFin
    | none => 0

/-- One element into a format without block scale: code and count (R149, R182). -/
def encScalar (f : BitVec 5) (pol : Word) (r : Rnd) : Elt → Nat × Bool
  | .low => (lowCode f, false)
  | .val w =>
    if f == 0x05 then encInt8 r (ofF32 w)
    else match scalarOf f with
      | some sf => encFloat sf (policyOf pol f) r (ofF32 w)
      | none => (0, false)

/-- The larger of two finite magnitudes. -/
def maxMag (a b : Nat × Int) : Nat × Int := if magLe a.1 a.2 b.1 b.2 then b else a

/-- An encoded block: scale byte, element codes, and which values count under R157. -/
structure Block where
  scale : Byte
  codes : List Nat
  flags : List Bool
  deriving DecidableEq, Repr

/-- Exponent of the largest finite element: 8, 4, 2 (R150). -/
def mxEmax (f : BitVec 5) : Int := if f == 0x08 then 8 else if f == 0x09 then 4 else 2

/-- One MX element from x / 2^e: saturated, or the E4M3 NaN under OVF, when the quotient rounds beyond the largest finite
value (R150, R156). The flag says that the value counts: an infinity, or a NaN under NANZ (R156). -/
def mxElem (f : BitVec 5) (sf : FFmt) (pol : Bool × Bool) (r : Rnd) (e : Int) (x : Elt) : Nat × Bool :=
  let tooBig (neg : Bool) : Nat := if pol.1 && f == 0x08 then 0x7F else sf.withSign neg sf.maxFin
  match x.fp? with
  | none => (sf.withSign true sf.maxFin, false)
  | some .nan => (0, true)
  | some (.inf neg) => (tooBig neg, true)
  | some (.fin neg m ex) =>
    let c := sf.encMag r m (ex - e)
    if c ≤ sf.maxFin then (sf.withSign neg c, false) else (tooBig neg, false)

/-- Encoding of a block of 32 into an MX format (R150, R182). In a block whose scale is NaN lowest-value padding keeps the most negative
code, as R182 has it, where R150 says that all elements are 0 (DESIGN CHOICE, log entry 80). -/
def encMX (f : BitVec 5) (pol : Word) (rs : List Rnd) (xs : List Elt) : Block :=
  let sf := (scalarOf f).getD e4m3
  let p := policyOf pol f
  if xs.any (fun x => x.fp? == some .nan) && !p.2 then
    ⟨0xFF, xs.map fun x => if x == .low then sf.withSign true sf.maxFin else 0, xs.map fun _ => false⟩
  else if xs.all (fun x => x == .low) then ⟨0xFE, xs.map fun _ => sf.withSign true sf.maxFin, xs.map fun _ => false⟩
  else
    let m := xs.foldl (fun acc x => match x.fp? with | some (.fin _ a b) => maxMag acc (a, b) | _ => acc) (0, 0)
    let e : Int := if m.1 = 0 then -127 else max (-127) (min 127 (m.1.log2 + m.2 - mxEmax f))
    let els := (xs.zip rs).map fun x => mxElem f sf p x.2 e x.1
    ⟨BitVec.ofInt 8 (e + 127), els.map (·.1), els.map (·.2)⟩

/-- Smallest E4M3 code whose value is at least m * 2^e, at least 2^-9 and at most 448 (R151). -/
def e4m3Ceil (m : Nat) (e : Int) : Nat :=
  ((List.range' 1 0x7E).find? fun c => magLe m e (e4m3.mag c).1 (e4m3.mag c).2).getD 0x7E

/-- Encoding of a block of 32 into BPk, k = 2 to 8 (R151, R182). Codes are the k-bit integers; in a block whose scale is NaN those of
lowest-value padding stay the most negative one (log entry 80). -/
def encBP (k : Nat) (rs : List Rnd) (xs : List Elt) : Block :=
  let qmax : Nat := 2 ^ (k - 1) - 1
  let lowQ : Nat := 2 ^ (k - 1)
  if xs.any (fun x => x.fp? == some .nan) then ⟨0x7F, xs.map fun x => if x == .low then lowQ else 0, xs.map fun _ => false⟩
  else if xs.all (fun x => x == .low) then ⟨0x7E, xs.map fun _ => lowQ, xs.map fun _ => false⟩
  else
    let hasInf := xs.any fun x => match x.fp? with | some (.inf _) => true | _ => false
    let m := xs.foldl (fun acc x => match x.fp? with | some (.fin _ a b) => maxMag acc (a, b) | _ => acc) (0, 0)
    if m.1 = 0 && !hasInf then ⟨0, xs.map fun x => if x == .low then lowQ else 0, xs.map fun _ => false⟩
    else
      let t := f32Div (if hasInf then 0x7F800000 else (Fp.fin false m.1 m.2).toF32) (ofInt qmax).toF32
      let tooBig := match ofF32 t with | .fin _ a b => !(magLe a b 7 6) | _ => true
      let sc := if tooBig then 0x7E else match ofF32 t with | .fin _ a b => e4m3Ceil a b | _ => 0x7E
      let s32 := (Fp.fin false (e4m3.mag sc).1 (e4m3.mag sc).2).toF32
      let els := (xs.zip rs).map fun x =>
        match x.1 with
        | .low => (lowQ, false)
        | .val w =>
          match ofF32 (f32Div w s32) with
          | .fin neg a b =>
            let q := roundInt x.2 a b
            if neg then (if q ≤ qmax + 1 then ((2 ^ k - q) % 2 ^ k, false) else (lowQ, tooBig))
            else (if q ≤ qmax then (q, false) else (qmax, tooBig))
          | .inf neg => (if neg then lowQ else qmax, true)
          | .nan => (0, false)
      ⟨BitVec.ofNat 8 sc, els.map (·.1), els.map (·.2)⟩

/-- The scale of a plane-truncated read: s * 2^(k-j), 448 with the source sign beyond it, counted once per block;
zero and NaN scales pass (R141). -/
def truncScale (d : Nat) (s : Byte) : Byte × Nat :=
  match e4m3.decode s.toNat with
  | .fin neg m e =>
    if m = 0 then (s, 0)
    else
      let c := e4m3.encMag .rne m (e + d)
      if c ≤ 0x7E then (BitVec.ofNat 8 (e4m3.withSign neg c), 0) else (BitVec.ofNat 8 (e4m3.withSign neg 0x7E), 1)
  | _ => (s, 0)

/-- A byte of INT8 saturated to the k-bit range, with the count of R144. -/
def splitInt8 (k : Nat) (b : Byte) : Nat × Nat :=
  let q := b.toInt
  let hi : Int := 2 ^ (k - 1) - 1
  let lo : Int := -(2 ^ (k - 1))
  if hi < q then (hi.toNat, 1)
  else if q < lo then (2 ^ (k - 1), 1)
  else (b.toNat % 2 ^ k, 0)

/-! ### Scaled formats in a tile (R136, R140) -/

/-- Rows G of a scale group: K + 1 = 4b + 1 for MX (R136), 4k + 1 for BPk (R140); 1 otherwise (no scale rows). -/
def groupRows (f : BitVec 5) : Nat :=
  if isMX f then 4 * fmtBits f + 1 else if isBP f then 4 * bpK f + 1 else 1

/-- Tile row of data row `d` (MX), or of a row without scale (R136). -/
def dataRowOf (f : BitVec 5) (d : Nat) : Nat :=
  if isMX f then let k := 4 * fmtBits f; (d / k) * (k + 1) + d % k + 1 else d

/-- Tile row of plane p of element row `e` of a BPk tile (R140). -/
def planeRowOf (f : BitVec 5) (e p : Nat) : Nat :=
  let k := bpK f
  (e / 4) * (4 * k + 1) + 1 + (e % 4) * k + (k - 1 - p)

/-- Tile row and byte of the scale of block m of data row (or element row) d (R136, R140). -/
def scaleByteOf (f : BitVec 5) (rowBytes d m : Nat) : Nat × Nat :=
  if isMX f then
    let k := 4 * fmtBits f
    ((d / k) * (k + 1), (d % k) * (rowBytes / k) + m)
  else ((d / 4) * (4 * bpK f + 1), (d % 4) * (rowBytes / 4) + m)

/-- Is tile row t a scale row (R136, R140)? -/
def isScaleRow (f : BitVec 5) (t : Nat) : Bool := (isMX f || isBP f) && t % groupRows f == 0

/-- Data rows (element rows for BPk) that a tile of `rows` rows holds, a last group cut short (R136, R140). -/
def dataRows (f : BitVec 5) (rows : Nat) : Nat :=
  let g := groupRows f
  if isMX f then (rows / g) * (g - 1) + (rows % g - 1)
  else if isBP f then (rows / g) * 4 + (rows % g - 1) / bpK f
  else rows

end Sys2Proof.Machine
end

