-- ==== Sys2Proof/Machine/State.lean ====
section
/-! DEFINITION. The state of one ORL-6400 instance as plain data, and its state in reset.
Things the manual treats as words stay bit vectors; what lives only inside the block is an inductive type, a Bool, a
Nat or a list. Each structure names the rules that give it. Fields that the manual derives from others (busy bits,
CELL_STS, QD_STS, GEN_STS, STASH_ENTRIES, interrupt levels) are functions, not fields. -/

namespace Sys2Proof.Machine

/-- Reasons for a stop with a fault. The manual answers every command with an effect, so no command of this model
raises one; the type stands for the interface. Safe: nothing is left out by it. -/
inductive Fault where
  /-- Raised by no command: the block never stops with a fault of its own (a stop of the instance by INSTFATAL is an
  effect on `Pins.fatal`, R293). Safe. -/
  | none
  deriving DecidableEq, Repr

/-- Reasons for a refusal. -/
inductive Refusal where
  /-- Raised by an arm of `exec` whose command has no meaning yet; by no arm of this model. Safe. -/
  | notModelled (mnemonic : String)
  deriving DecidableEq, Repr

/-- Fault codes of completions, route completions and Pennants (R17). -/
inductive Code where
  | ok | tshape | tfmt | tnotvalid | pagefault | permfault | align | idxrange | ovlap | stashfull | genstale
  | routebad | decerr | portproto | uncorr | preempt | ndetblock | fenced
  deriving DecidableEq, Repr

/-- Pennant severities in their ranking (R19, R327). -/
inductive Sev where
  | info | corrected | stepvoid | cellfatal | instfatal
  deriving DecidableEq, Repr

/-- A report on its way to the ring (R327, R332): an intake entry, a coalescing-table entry. -/
structure Report where
  tick    : Tick
  level   : BitVec 4
  src     : BitVec 16
  cls     : Byte
  sev     : Sev
  reports : Nat
  count   : Nat
  last    : Tick
  detail  : BitVec 96
  deriving DecidableEq, Repr

/-- One of the five intakes (R332). `nclk` holds the reports of the NCLK that reported last, in the order in which they are accepted, `since`
its tick, `before` the ordinary entries and the lane as it found them, and `lost` the reports that it lost; `seen` counts all reports. -/
structure Intake where
  ordinary : List Report := []
  fatal    : List Report := []
  nclk     : List Report := []
  since    : Tick := 0
  before   : List Report × List Report := ([], [])
  lost     : Nat := 0
  seen     : Nat := 0
  deriving DecidableEq, Repr

/-- A flush under way (R342, R343): what its header holds, and the next line of the image. -/
structure Flush where
  tick  : Tick
  head  : Word
  tail  : Word
  lost  : Word
  steps : Word
  line  : Nat := 0
  deriving DecidableEq, Repr

/-- The error log (R332-R343). `draining` says that the table is on its way to the ring (R336). -/
structure Log where
  intakes   : Vector Intake 5 := Vector.replicate 5 {}
  rotation  : Nat := 0
  ring      : List (Nat × BitVec 256) := []
  head      : Word := 0
  tail      : Word := 0
  lost      : Word := 0
  coal      : Bool := false
  draining  : Bool := false
  flush     : Option Flush := none
  flushEn   : Bool := false
  flushBase : PAddr := 0
  table     : List Report := []
  deriving DecidableEq, Repr

/-- Life-cycle states (R404, R406). -/
inductive Life where
  | blank | test | provisioned | service | returned
  deriving DecidableEq, Repr

/-- Pins, straps, fuses and the boot of the instance (R29, R71, R346-R348, R400-R406). `held` says that start-up has stopped at the clock
check or at the wipe (R29, R402), `fwStop` says that an uncorrectable error of
service-core RAM has stopped firmware (R293, R364). -/
structure Pins where
  stepping    : BitVec 4 := 2
  serial      : Word := 0
  life        : Life := .service
  trans       : Bool := false
  lifeReq     : Option (Nat × Life × Bool) := none
  instanceId  : BitVec 3 := 0
  masterStrap : Bool := true
  gradeS      : Bool := false
  rstN        : Bool := false
  preRstN     : Bool := true
  wiping      : Bool := true
  held        : Bool := false
  fatal       : Bool := false
  fwStop      : Bool := false
  aclkMHz     : BitVec 12 := 0
  nclkMHz     : BitVec 16 := 0
  boot        : BitVec 4 := 0
  bootErr     : BitVec 4 := 0
  ready       : Bool := false
  image       : List Byte := []
  deriving DecidableEq, Repr

/-- Discipline states of GTC_SKEW.STATE (R379, R381). -/
inductive Skew where
  | free | acquire | locked | holdover
  deriving DecidableEq, Repr

/-- Clocks, GTC and its discipline (R9, R28, R283, R377-R381): `slew` is the correction still to be made in ticks, `reached` a launch that was replaced as its tick came (R422), `good` the
pulses in a row within 128 ticks, `quiet` the TCLK cycles since the last corrected one, up to 99 (R378). -/
structure Clk where
  gtc       : Tick := 0
  gtcOn     : Bool := false
  aclk      : Nat := 0
  launch    : Tick := 0
  reached   : Option Tick := none
  launchLo  : Word := 0
  armed     : Bool := false
  stepUs    : BitVec 24 := 0x002710
  load      : Bool := false
  source    : Bool := false
  en        : Bool := false
  skew      : Skew := .free
  pkgSkew   : BitVec 8 := 0
  clErr     : BitVec 16 := 0
  samples   : List Tick := []
  good      : Nat := 0
  slew      : Int := 0
  quiet     : Nat := 99
  lastPulse : Tick := 0
  deriving DecidableEq, Repr

/-- Global registers (R425) that no other structure holds. -/
structure Glob where
  halt      : Bool := false
  detmode   : Bool := false
  numrev    : Byte := 0
  irqSts    : BitVec 16 := 0
  irqEn     : BitVec 16 := 0x0018
  fmtPolicy : Word := 0x00000115
  stashCfg  : Word := 0x03E80400
  spillBase : PAddr := 0
  spillSize : Word := 0
  genCfg    : Word := 0x03E80000
  tmbCfg    : Word := 0x08001388
  seed      : BitVec 64 := 0
  vshard    : Word := 0
  cursor    : BitVec 64 := 0
  geo       : Vector Word 31 := Vector.replicate 31 0
  bunt      : Vector (BitVec 64) 16 := Vector.replicate 16 0
  latches   : List (Nat × Word) := []
  skipped   : List PCell := []
  deriving DecidableEq, Repr

/-- The values of a job configuration (R358). -/
structure JobCfg where
  ptRoot     : PAddr
  seed       : BitVec 64
  vshard     : Word
  fmtPolicy  : Word
  stashCfg   : Word
  genCfg     : Word
  tmbCfg     : Word
  spillSize  : Word
  spillLocal : BitVec 48
  mergeLocal : BitVec 48
  mergeSize  : Word
  recompute  : List (Nat × BitVec 14)
  hbList     : List (BitVec 16)
  hbPeriod   : Nat
  hbTimeout  : Nat
  mspTimeout : Nat
  netPeriod  : BitVec 4
  fence      : List (Nat × Nat)
  deriving DecidableEq, Repr

/-- The job in force and values that wait for the next step boundary (R68, R75, R239, R248, R262, R267, R358). -/
structure Job where
  present    : Bool := false
  ptRoot     : PAddr := 0
  mergeLocal : BitVec 48 := 0
  mergeSize  : Word := 0
  recompute  : List (Nat × BitVec 14) := []
  hbList     : List (BitVec 16) := []
  hbPeriod   : Nat := 5000000
  hbTimeout  : Nat := 50000000
  hbNext     : Tick := 0
  hbOn       : Bool := false
  mspTimeout : Nat := 100000
  fence      : List (Nat × Nat) := [(16, 20), (16, 20), (16, 20), (16, 20)]
  home       : Vector (Option QuadNo) 64 := Vector.replicate 64 none
  launched   : Bool := false
  defJob     : Option JobCfg := none
  defDet     : Option Bool := none
  defCursor  : Option (BitVec 64) := none
  defBunt    : List (Nat × BitVec 64) := []
  defStepUs  : Option (BitVec 24) := none
  deriving DecidableEq, Repr

/-- A step record (R281). -/
structure StepRec where
  step     : BitVec 48
  dclass   : BitVec 16
  cursor   : BitVec 64
  opened   : Tick
  closed   : Tick
  ndet     : Nat
  voids    : BitVec 16
  det      : Bool
  canon    : Bool
  loss     : Bool
  diverged : Bool
  peer     : Bool
  vshard   : Word
  digest   : BitVec 64
  deriving DecidableEq, Repr

/-- Step machinery (R280-R284, R384-R388). `resumed` says that a RESUME or RECOVERY_RESUME lets a launch end the pause (R292), `marks` counts the marks installed for
the step that the next launch begins (R321). -/
structure Step where
  count     : BitVec 48 := 0
  running   : Bool := false
  paused    : Bool := false
  pausePend : Bool := false
  ndet      : Nat := 0
  records   : List StepRec := []
  anchor    : Tick := 0
  due       : Tick := 0
  stop      : Bool := false
  decided   : Option Tick := none
  flipped   : Nat := 0
  resumed   : Bool := false
  marks     : Nat := 0
  deriving DecidableEq, Repr

/-- Tumbler (R294-R300). `since` is the tick at which a request for the pair was first sent or received, `taken` the
tick at which the leader took it. -/
structure Tmb where
  hold      : Bool := false
  stop      : Bool := false
  armed     : Bool := false
  cause     : Byte := 0
  voids     : BitVec 16 := 0
  replay    : Tick := 0
  cleanup   : Bool := false
  stopTick  : Tick := 0
  since     : Tick := 0
  taken     : Option Tick := none
  notBefore : Tick := 0
  holdReq   : Bool := false
  deriving DecidableEq, Repr

/-- Cell power states (R396). -/
inductive Pwr where
  | off | wiping | bist | ready | active | draining
  deriving DecidableEq, Repr

/-- Shape, format and layout of a tile (R81): ROWBYTES / 32 - 1 and ROWS - 1 as the register holds them. -/
structure TileCfg where
  layout : Bool
  fmt    : BitVec 5
  rb     : BitVec 3
  rm1    : BitVec 7
  deriving DecidableEq, Repr

/-- A resume record (R121). -/
structure Resume where
  store  : Bool
  va     : Nat
  stride : Nat
  row    : Nat
  deriving DecidableEq, Repr

/-- One tile (R77-R89). `data` holds the stored rows, which a release leaves in the banks (R89). -/
structure Tile where
  cfg     : Option TileCfg := none
  inUse   : Bool := false
  valid   : Nat := 0
  written : BitVec 128 := 0
  data    : List (Nat × Row) := []
  resume  : Option Resume := none
  deriving DecidableEq, Repr

/-- Progress of a running TLOAD or TSTORE (R109-R120): rows `start` to `n - 1`, `next` the lowest row not moved,
`segs` the translations of rows as (address, bytes) pieces, `held` rows waiting at the cell router, `fault` the lowest
faulting row with its code and DETAIL, `parts` the pieces of row `next` that a store has written (R120). -/
structure LsProg where
  store  : Bool
  va     : Nat
  stride : Nat
  start  : Nat
  next   : Nat
  n      : Nat
  segs   : List (Nat × List (Nat × Nat)) := []
  held   : List (Nat × Row) := []
  fault  : Option (Nat × Code × Word) := none
  parts  : List Nat := []
  deriving DecidableEq, Repr

/-- A command that a port has taken and not yet completed (R51-R54). `rv` holds the register an RVREAD reads, as it stood
when the command was taken (R103). -/
structure Cmd where
  beat    : BitVec 128
  rv      : List Word := []
  started : Bool := false
  carried : Bool := false
  ls      : Option LsProg := none
  gen     : Option (BitVec 12 × BitVec 16) := none
  kick    : Option Nat := none
  stash   : Option Nat := none
  waitSince : Option Tick := none
  noted   : Bool := false
  earlier : List Byte := []
  other   : List Byte := []
  runs    : List Nat := []
  deriving DecidableEq, Repr

/-- A result write of the last ACLKs, with the row as it was before it (R48). -/
structure Recent where
  aclk    : Nat
  tile    : TileNo
  row     : RowNo
  valid   : Nat
  written : Bool
  data    : Row
  deriving DecidableEq, Repr

/-- An engine port (R53-R60, R75). -/
structure Port where
  fenced  : Bool := false
  viols   : List Tick := []
  cmds    : List Cmd := []
  idStart : BitVec 64 := 0
  idNow   : BitVec 64 := 0
  idOk    : Bool := false
  recent  : List Recent := []
  deriving DecidableEq, Repr

/-- An update of an RV entry by the SEP (R102): its ACLK, the entry, what it held before, RCTL and the value. -/
structure RvUpd where
  aclk  : Nat
  entry : Nat
  old   : Word
  rctl  : Byte
  val   : Word
  deriving DecidableEq, Repr

/-- A physical cell (R24, R396-R399, R434-R437). `sepRv` holds the SEP's RV updates of the present ACLK (R102), `mb` the mailbox whose
command last repaired or switched the cell (R328). `toTest` marks a cell that start-up BIST has not yet passed, `again` one whose repair
runs BIST for the second time (R307), `users` the runs that used the cell when it was retired (R397). -/
structure Cell where
  pwr       : Pwr := .off
  down      : Bool := false
  enpend    : Bool := false
  logical   : Option LCell := none
  spare     : Bool := false
  retired   : Bool := false
  filling   : Bool := false
  repairing : Bool := false
  toTest    : Bool := false
  dep       : Port := {}
  sep       : Port := {}
  tiles     : Vector Tile 24 := Vector.replicate 24 {}
  rv        : Vector Word 512 := Vector.replicate 512 0
  tfFault   : Word := 0
  rowStart  : Word := 0
  wbq       : List (TileNo × RowNo) := []
  erred     : List (TileNo × RowNo) := []
  lastUncorr : Option Tick := none
  spareRows : Vector Nat 16 := Vector.replicate 16 0
  sepRv     : List RvUpd := []
  mb        : Option Nat := none
  again     : Bool := false
  users     : List Nat := []
  deriving DecidableEq, Repr

/-- Where a kick came from (R187). -/
inductive KickSrc where
  | port (e : EPort) (tag : Byte)
  | service (mb : Nat)
  | tick
  deriving DecidableEq, Repr

/-- A kick that is taken and whose run has not started (R187, R188, R255, R386). -/
structure Kick where
  seq     : Nat
  route   : RouteId
  desc    : Desc
  src     : KickSrc
  eng     : QuadNo
  gen     : Option (BitVec 12 × BitVec 16) := none
  genwait : Option Tick := none
  granted : Bool := false
  noted   : Bool := false
  carried : Bool := false
  deriving DecidableEq, Repr

/-- A leaf entry held by an ATU (R116). -/
structure Leaf where
  va    : Nat
  big   : Bool
  pa    : Nat
  read  : Bool
  write : Bool
  deriving DecidableEq, Repr

/-- A window of an indexed run (R216, R217): positions with the resolved row, none for a skip; `snap` holds the bytes of the table rows
that a GATHER has fetched for the window, each once (R218), `leaves` the translations of every line it needs (R217), `units` the
partials that the digest stream has not yet folded (R287). -/
structure Window where
  w       : Nat
  rows    : List (Nat × Option Nat)
  folded  : Bool := false
  pending : List (Nat × List Word) := []
  snap    : List (Nat × List Byte) := []
  leaves  : List Leaf := []
  units   : List (Nat × List Word) := []
  deriving DecidableEq, Repr

/-- Running state of a REDUCE_MERGE (R272): values of a block, with the level reached. -/
structure MergeBlk where
  block  : Nat
  level  : Nat
  vals   : List Word
  deriving DecidableEq, Repr

/-- An array of a run as its start resolved it (R184, R194, R195): format, base, plane stride, scale offset; for a tile or
group its tile number and ROWBYTES (0 for memory). -/
structure View where
  fmt  : BitVec 5 := 0
  base : Nat := 0
  ps   : Nat := 0
  soff : Int := 0
  tile : TileNo := 0
  rb   : Nat := 0
  deriving DecidableEq, Repr

/-- A run (R187-R196). `code` is none while it runs and the held code afterwards. `sv`, `dv` and `tv` are its source, its
destination and the T copy; `next` counts the innermost destination runs (units) already written in destination order,
`done` those whose lines have come, `buf` the tile rows being assembled, `tail` destination bytes not yet folded. `stop` is a
stop that waits for the windows before it (R224, R228). -/
structure Run where
  seq    : Nat
  route  : RouteId
  desc   : Desc
  src    : KickSrc
  code   : Option Code := none
  detail : Word := 0
  sv     : View := {}
  dv     : View := {}
  tv     : View := {}
  gen    : Option (BitVec 12 × BitVec 16) := none
  cells  : List LCell := []
  done   : List Nat := []
  next   : Nat := 0
  buf    : List (Nat × Row) := []
  tail   : List Byte := []
  ranged : Nat := 0
  skips  : Nat := 0
  decerr : Option Word := none
  answered : List (Nat × Bool) := []
  stop   : Option (Code × Word × Option (Nat × Word)) := none
  wins   : List Window := []
  nextWin : Nat := 0
  pf     : Nat := 0
  blks   : List MergeBlk := []
  phase  : Nat := 0
  lo     : Nat := 0
  hi     : Nat := 0
  acks   : List (BitVec 16) := []
  stash  : Option Nat := none
  waitSince : Option Tick := none
  noted  : Bool := false
  deriving DecidableEq, Repr

/-- A pointer entry held by an ATU's walk cache (R116): its level, its virtual range divided by the level's size, the next table. -/
structure Walk where
  level : Nat
  page  : Nat
  table : Nat
  deriving DecidableEq, Repr

/-- A quadrant (R116, R170, R176, R188, R215). -/
structure Quad where
  maxwait : BitVec 16 := 0
  period  : BitVec 4 := 9
  decerr  : Option (BitVec 5 × PAddr) := none
  idxskip : Word := 0
  runs    : List Run := []
  tlb     : List Leaf := []
  walks   : List Walk := []
  deriving DecidableEq, Repr

/-- A byte range that a run may write (R205, R226). -/
structure Range where
  seq   : Nat
  route : RouteId
  lo    : Nat
  hi    : Nat
  xor   : Bool
  deriving DecidableEq, Repr

/-- Route table and instance-wide route state (R180, R187, R205, R226, R386). -/
structure Rt where
  desc    : List (RouteId × Desc) := []
  arms    : List (RouteId × Tick) := []
  kicks   : List Kick := []
  carried : List Kick := []
  overlap : List Range := []
  accum   : List Range := []
  seq     : Nat := 0
  deriving DecidableEq, Repr

/-- A stash directory entry with its rows (R230-R236). `placed` says that it has its stash space, `put` that the put has
completed, `getting` that a get of it has started. -/
structure SEntry where
  idx     : Nat
  uid     : Nat
  cell    : LCell
  slot    : BitVec 9
  layer   : BitVec 12
  part    : BitVec 4
  spilled : Bool
  mark    : Bool
  gen     : Option (BitVec 12 × BitVec 16)
  retired : Bool
  isNew   : Bool
  cfg     : TileCfg
  vrows   : Nat
  loc     : Word
  rows    : List Row
  placed  : Bool
  put     : Bool
  getting : Bool
  deriving DecidableEq, Repr

/-- The stash (R230-R249). -/
structure Stash where
  entries : List SEntry := []
  peak    : Nat := 0
  uid     : Nat := 0
  deriving DecidableEq, Repr

/-- States of a trainable tensor (R250, R257). -/
inductive GState where
  | steady | genwait | writing | ready
  deriving DecidableEq, Repr

/-- A generation-table entry (R250, R310) with the VSHARD of its registration (R357). REF_A and REF_B are counted from
the stash entries (Flags.lean). -/
structure Gen where
  idx   : BitVec 12
  vshard : BitVec 16
  baseA : BitVec 48
  baseB : BitVec 48
  offO  : Word
  offN  : Word
  offT  : Word
  genA  : BitVec 16
  genB  : BitVec 16
  fmtM  : BitVec 5
  fmtO  : BitVec 5
  fmtN  : BitVec 5
  fmtT  : BitVec 5
  nPs   : Word
  tPs   : Word
  nSo   : Word
  tSo   : Word
  frozen : Bool
  live  : Bool
  st    : GState
  ckpt  : Bool
  drained : Bool
  parts : BitVec 4
  prot  : Bool
  piOff : BitVec 31
  plen  : Word
  deriving DecidableEq, Repr

/-- A rebuild or resync under way (R316, R320): the role of PARITY_REBUILD (0 for a resync), its lost members and holders,
the image slot worked, for each source of lines the blocks asked for and the lines received, and the lines solved. -/
structure Rebuild where
  role    : Byte
  lost    : List Nat
  holders : BitVec 2
  slot    : Bool
  asked   : List (Nat × Nat)
  got     : List (Nat × Nat)
  solved  : Nat
  two     : Bool
  bad     : List (Nat × Nat)
  deriving DecidableEq, Repr

/-- A line of a parity image with its tag (R312). -/
structure PLine where
  slot : Bool
  line : Nat
  data : Row
  ctr  : BitVec 16
  voids : BitVec 16
  deriving DecidableEq, Repr

/-- A part of a directory mirror at a holder (R317): its member, the pair of its boundary, its first entry, whether it is the last. -/
structure MirrorPart where
  member : Nat
  step   : BitVec 48
  voids  : BitVec 16
  first  : Nat
  last   : Bool
  words  : List (BitVec 128)
  deriving DecidableEq, Repr

/-- The parity unit (R309-R323). `mirrors` holds the entries of complete mirrors by
member, `mirrorIn` the parts of mirrors that are coming in, `mirrorAt` the last part of each complete one, `chips` the chips that have sent as
members of the held group, with their index; `collected` holds
(source, line, row) of a rebuild. -/
structure Par where
  mcfg    : Word := 0
  holders : Word := 0
  hcfg    : Word := 0
  stale   : Bool := true
  rebuilding : Bool := false
  okIdx   : List (BitVec 12) := []
  image   : List PLine := []
  mirrors : List (Nat × BitVec 128) := []
  mirrorIn : List MirrorPart := []
  mirrorAt : List MirrorPart := []
  chips   : List (BitVec 16 × Nat) := []
  mirrorAcks : List (BitVec 16) := []
  mirrorWait : Bool := false
  rebuild : Option Rebuild := none
  memReb  : Option Rebuild := none
  collected : List (Nat × Nat × Row) := []
  deriving DecidableEq, Repr

/-- Checkpoint registers (R326). -/
structure Ckpt where
  base     : BitVec 48 := 0
  stepArm  : BitVec 48 := 0
  armed    : Bool := false
  draining : Bool := false
  done     : Bool := false
  fail     : Bool := false
  left     : Nat := 0
  rec0     : Option StepRec := none
  table    : List (BitVec 12 × BitVec 512) := []
  deriving DecidableEq, Repr

/-- A digest stream (R287): its id, units folded and running CRC. -/
structure Stream where
  id    : BitVec 16
  units : Nat
  crc   : BitVec 64
  deriving DecidableEq, Repr

/-- A digest entry (R289) with the step it belongs to and the tick at which its granule closed. -/
structure DEntry where
  step    : BitVec 48
  stream  : BitVec 16
  inst    : BitVec 3
  granule : Word
  crc     : BitVec 64
  tick    : Tick
  deriving DecidableEq, Repr

/-- Flags of a step record that a peer's digest messages set (R290, R291). -/
inductive RecFlag where
  | loss | diverged | peer
  deriving DecidableEq, Repr

/-- Lock-step comparison (R287-R291). `done` holds own entries that have been compared, newest first, `exch` the tick of the last exchange,
`ahead` the flags of records that are not open yet, by step. -/
structure Dig where
  peer     : BitVec 16 := 0
  mismatch : Bool := false
  loss     : Bool := false
  period   : BitVec 5 := 0x14
  grain    : BitVec 3 := 6
  action   : Bool := false
  en       : Bool := false
  last     : BitVec 64 := 0
  streams  : List Stream := []
  own      : List DEntry := []
  peerEnts : List DEntry := []
  toSend   : List DEntry := []
  done     : List DEntry := []
  exch     : Tick := 0
  ahead    : List (BitVec 48 × RecFlag) := []
  deriving DecidableEq, Repr

/-- A gradient-partial message held in the merge buffer (R273, R274). -/
structure Partial where
  src    : BitVec 16
  route  : RouteId
  step   : BitVec 48
  block  : Nat
  level  : Nat
  phase  : Nat
  last   : Bool
  vals   : List Word
  deriving DecidableEq, Repr

/-- Result of a Trisia command (R352). -/
structure Resp where
  result  : BitVec 16
  detail  : Word := 0
  payload : List Byte := []
  deriving DecidableEq, Repr

/-- What a response waits for (R116, R188, R355, R357): rows of TLOADs and TSTOREs with their translations, write-backs of
lines, lines of memory to read, or a kick. -/
inductive Wait where
  | none
  | rows (l : List (EPort × Byte × Nat × List (Nat × Nat)))
  | flush (lines : List Nat)
  | fill (lines : List Nat)
  | kick (seq : Nat)
  deriving DecidableEq, Repr

/-- The request a mailbox has taken (R350). `lost` names an instance that became unreachable during a P command (R354). -/
structure MReq where
  req     : BitVec 2048
  started : Bool := false
  resp    : Option Resp := none
  wait    : Wait := .none
  lost    : Option (BitVec 3) := none
  deriving DecidableEq, Repr

/-- Mailbox states (R349). -/
inductive MState where
  | idle | busy | done
  deriving DecidableEq, Repr

/-- A mailbox (R349, R350). -/
structure Mbox where
  st      : MState := .idle
  dropped : Byte := 0
  classes : BitVec 5 := 0x01
  req     : BitVec 2048 := 0
  rsp     : BitVec 2048 := 0
  cur     : Option MReq := none
  deriving DecidableEq, Repr

/-- An MSP transaction that is outstanding (R61-R63). -/
structure Txn where
  id     : BitVec 12
  write  : Bool
  line   : Nat
  len    : Nat
  got    : BitVec 16
  issued : Tick
  qos    : BitVec 4
  deriving DecidableEq, Repr

/-- A memory-side port (R61-R64, R75). -/
structure Msp where
  ident  : List Word := []
  idDone : Bool := false
  absent : Bool := false
  txns   : List Txn := []
  fenced : Bool := false
  viols  : List Tick := []
  deriving DecidableEq, Repr

/-- An external station port (R39, R65, R75). -/
structure Xsp where
  up     : Bool := false
  fenced : Bool := false
  viols  : List Tick := []
  deriving DecidableEq, Repr

/-- A peer chip (R68). `back` marks one that has been heard again after its loss: a replacement (R323). -/
structure Peer where
  chip  : BitVec 16
  armed : Bool
  last  : Tick
  lost  : Bool
  back  : Bool := false
  deriving DecidableEq, Repr

/-- A miss that waits at its home slice for a transaction of its memory-side port (R174). -/
structure Miss where
  line  : Nat
  qos   : Nat
  since : Tick
  deriving DecidableEq, Repr

/-- Message traffic of the instance on the XSPs (R66-R68, R412), pools of the target ports with the packets that their initiators hold
while a pool is full (R168, R174), links with the failed replays of the flit they carry, the open spine segment (R178, R179); `away` holds
the lines of other instances that have been asked for and not yet used (R365), `misses` those that wait at home slices for a transaction of
their port (R174), `topo` counts the links between other instances that have failed (R372). -/
structure Net where
  xsps   : Vector Xsp 2 := Vector.replicate 2 {}
  seq    : BitVec 29 := 0
  seen   : List (BitVec 16 × BitVec 32) := []
  peers  : List Peer := []
  pools  : List (Nat × List Packet) := []
  held   : List (Nat × List Packet) := []
  links  : List (Link × Nat) := []
  open1  : Option (Fin 11) := none
  deadLinks : List Link := []
  away   : List Nat := []
  misses : List Miss := []
  topo   : Nat := 0
  deriving DecidableEq, Repr

/-- States of a Wiquin port (R367). -/
inductive WqState where
  | down | training | up | fenced | failed
  deriving DecidableEq, Repr

/-- A Wiquin port (R366-R368). -/
structure Wq where
  st       : WqState := .down
  leader   : Bool := false
  reversed : Bool := false
  peerId   : BitVec 3 := 0
  peerPort : BitVec 2 := 0
  replays  : BitVec 16 := 0
  deriving DecidableEq, Repr

/-- The package (R365-R376). `canon` says which other instances report that every engine port of theirs declares CANON (R38). -/
structure Pkg where
  wq      : Vector Wq 4 := Vector.replicate 4 {}
  words   : Vector (Option (BitVec 64)) 8 := Vector.replicate 8 none
  present : BitVec 8 := 0
  master  : BitVec 3 := 0
  settled : Bool := false
  late    : List (BitVec 3) := []
  canon   : BitVec 8 := 0
  deriving DecidableEq, Repr

/-- The current-budget arbiter (R389-R395). `order` holds the engine clients with a raise pending, each with the ACLK in which its request
rose (R393). -/
structure Cba where
  budget  : BitVec 12 := 0x2EE
  ramp    : BitVec 12 := 0x100
  left    : Nat := 0
  level   : Vector Nat 209 := Vector.replicate 209 0
  want    : Vector Nat 209 := Vector.replicate 209 0
  cap     : Vector (BitVec 12) 136 := Vector.replicate 136 0
  order   : List (Nat × Nat) := []
  peak    : Nat := 0
  deriving DecidableEq, Repr

/-- A Jack fill under way (R302, R303): the logical cell, the cell being filled and the stage. -/
structure Fill where
  logical : LCell
  home    : QuadNo
  p       : PCell
  stage   : BitVec 3
  deriving DecidableEq, Repr

/-- Fills of the instance (R302-R305). -/
structure Fills where
  cur   : Option Fill := none
  queue : List (LCell × QuadNo) := []
  deriving DecidableEq, Repr

/-- What a packet for memory of another instance asks for (R159, R222, R365). -/
inductive AwayKind where
  | read
  | write
  | add       -- FP32 partials of a scatter, which the home slice adds
  | xor       -- words that the home slice combines by XOR
  deriving DecidableEq, Repr

/-- What the block presents at its boundary, in order. -/
inductive Out where
  | cpl (e : EPort) (word : BitVec 64)                               -- R51
  | rd (e : EPort) (due : Nat) (reqA reqB : BitVec 12) (sa : BitVec 2) (a : Row) (sb : BitVec 2) (b : Row)  -- R45
  | cgAck (e : EPort) (lvl : BitVec 12)                               -- R55
  | cgUpd (e : EPort) (lvl : BitVec 12)                               -- R56
  | mspReq (m : Nat) (write : Bool) (id : BitVec 12) (addr : BitVec 36) (len : BitVec 4) (qos : BitVec 4)   -- R61
  | mspWd (m : Nat) (id : BitVec 12) (mask : Byte) (data : Row)       -- R61
  | mspIdReq (m : Nat) (idx : BitVec 2)                               -- R64
  | xsp (x : Nat) (qos : Nat) (msg : XMsg)                            -- R65, R66, R166
  | wiquin (port : Option (Fin 4)) (what : Byte) (val : BitVec 64)    -- package control traffic, on one port or every path (R370, R373)
  | cb (data : Word) (decerr : Bool)                                  -- R70
  | away (port : Option (Fin 4)) (kind : AwayKind) (addr : PAddr) (ini : Initiator) (vc : VChan) (data : List Byte)   -- a packet for another instance (R158, R365, R370)
  | share (req : BitVec 2048)                                         -- a P command for every joined instance (R354)
  | shareDone (op : BitVec 16) (result : BitVec 16)                    -- a non-master has applied it (R354)
  | packet (target : Nat) (p : Packet) (port : Option (Fin 4))        -- R168; the Wiquin port of one that leaves the instance (R370)
  | tdo (val : Word)                                                  -- R73
  deriving DecidableEq, Repr

/-- Memory as the home slices show it: (address, byte) pairs by package-global physical address, addresses strictly
rising, no entry equal to what an unlisted address reads as (see Ops.lean). -/
abbrev Mem := List Host.Cell

/-- A line held by its home slice (R26, R117): its package-global number, the lanes written since it was last written
back, the lanes that are held, all of them once it is filled from its stack, and the way of its set it stands in (16 where it
waits for one, log entry 8). -/
structure Line where
  line  : Nat
  dirty : Byte
  held  : Byte
  way   : Nat := 0
  deriving DecidableEq, Repr

/-- Repair state of the memories other than tile files (R306): places of the operand cache, as (slice and set, way), that have given
an uncorrectable error, with the tick of the last one; ways that are disabled; words of stash slices and tables for which
firmware maps a spare row at the next boundary, as (source level, source, address, structure); rows mapped so far. -/
structure Sram where
  errs   : List ((Nat × Nat) × Tick) := []
  dead   : List (Nat × Nat) := []
  todo   : List (BitVec 4 × BitVec 16 × Nat × Nat) := []
  mapped : Nat := 0
  deriving DecidableEq, Repr

/-- The instance. -/
structure State where
  pending : List Instr := []
  mem     : Mem := []
  free    : Nat := 0
  outs    : List Out := []
  lines   : List Line := []
  sram    : Sram := {}
  pins    : Pins := {}
  clk     : Clk := {}
  glob    : Glob := {}
  job     : Job := {}
  step    : Step := {}
  tmb     : Tmb := {}
  cells   : Vector Cell 68 := Vector.replicate 68 {}
  quads   : Vector Quad 4 := Vector.replicate 4 {}
  fills   : Fills := {}
  rt      : Rt := {}
  stash   : Stash := {}
  gens    : List Gen := []
  par     : Par := {}
  ckpt    : Ckpt := {}
  dig     : Dig := {}
  merge   : List Partial := []
  log     : Log := {}
  mbs     : Vector Mbox 8 := (Vector.replicate 8 {}).set 0 { classes := 0x1F }
  fwOrder : List Nat := []
  msps    : Vector Msp 6 := Vector.replicate 6 {}
  net     : Net := {}
  pkg     : Pkg := {}
  cba     : Cba := {}
  tap     : TapInstr := .idcode
  deriving DecidableEq, Repr

/-- The state with ORL_RST_N low, right after reset (R400): every register at its reset value (R425-R437) or, where
the manual states none, at the value that log entries 1 and 2 name; memory with nothing listed; no command waiting. -/
def State.reset : State := {}

end Sys2Proof.Machine
end

