-- ==== Sys2Proof/Machine/Ops.lean ====
section
/-! DEFINITION. Named operations over memory, cells, ports, quadrants, the error log, completions, the digest streams
and the boundary outputs. The block has no exception entry: raising a Pennant, an interrupt flag or a completion code
is the effect of a command on the state. -/

namespace Sys2Proof.Machine

/-! ### Memory -/

/-- What a byte that nothing has written reads as: zero. DESIGN CHOICE, log entry 7 (the manual gives stack contents
no value, R400). -/
def unlisted : Byte := 0

/-- Canonical form: addresses strictly rising, no entry equal to `unlisted`. -/
def Mem.wf : Mem → Bool
  | [] => true
  | [x] => x.2 != unlisted
  | x :: y :: r => (x.2 != unlisted) && decide (x.1 < y.1) && Mem.wf (y :: r)

/-- One byte (R26: an address has one home slice, so one value). -/
def Mem.read (m : Mem) (a : Nat) : Byte :=
  match m with
  | [] => unlisted
  | x :: r => if x.1 = a then x.2 else if a < x.1 then unlisted else Mem.read r a

/-- Writes one byte, keeping the canonical form. -/
def Mem.write (m : Mem) (a : Nat) (b : Byte) : Mem :=
  match m with
  | [] => if b = unlisted then [] else [(a, b)]
  | x :: r =>
    if a < x.1 then (if b = unlisted then x :: r else (a, b) :: x :: r)
    else if a = x.1 then (if b = unlisted then r else (a, b) :: r)
    else x :: Mem.write r a b

/-- Writes bytes at rising addresses. -/
def Mem.writeBytes (m : Mem) (a : Nat) : List Byte → Mem
  | [] => m
  | b :: r => Mem.writeBytes (m.write a b) (a + 1) r

/-- `n` bytes from `a`. -/
def Mem.readBytes (m : Mem) (a n : Nat) : List Byte := (List.range n).map fun i => m.read (a + i)

/-- Little-endian value of `n` bytes (R7). -/
def Mem.readNat (m : Mem) (a n : Nat) : Nat := natOf (m.readBytes a n)

/-! ### Rows -/

/-- Byte k of a row. -/
def rowByte (r : Row) (k : Nat) : Byte := r.extractLsb' (8 * k) 8

/-- Bytes 0 to n - 1 of a row. -/
def rowBytes (r : Row) (n : Nat) : List Byte := (List.range n).map (rowByte r)

/-- A row from its bytes, zero above them. -/
def rowOf (bs : List Byte) : Row := BitVec.ofNat 2048 (natOf bs)

/-- The row with bytes [o, o + n) replaced. -/
def rowPatch (r : Row) (o : Nat) (bs : List Byte) : Row :=
  let mask : Row := (BitVec.ofNat 2048 (2 ^ (8 * bs.length) - 1)) <<< (8 * o)
  (r &&& ~~~mask) ||| ((rowOf bs <<< (8 * o)) &&& mask)

/-- The row cut to its first `n` bytes (lanes beyond ROWBYTES do not exist, R78). -/
def rowCut (r : Row) (n : Nat) : Row := r &&& BitVec.ofNat 2048 (2 ^ (8 * n) - 1)

/-! ### Cells, ports, quadrants -/

def State.cell (s : State) (p : PCell) : Cell := s.cells.get p
def State.setCell (s : State) (p : PCell) (c : Cell) : State := { s with cells := s.cells.set p c }
def State.modCell (s : State) (p : PCell) (f : Cell → Cell) : State := s.setCell p (f (s.cell p))
def Cell.port (c : Cell) (sep : Bool) : Port := if sep then c.sep else c.dep
def Cell.setPort (c : Cell) (sep : Bool) (q : Port) : Cell := if sep then { c with sep := q } else { c with dep := q }
def State.port (s : State) (e : EPort) : Port := (s.cell e.p).port e.sep
def State.modPort (s : State) (e : EPort) (f : Port → Port) : State :=
  s.modCell e.p fun c => c.setPort e.sep (f (c.port e.sep))
def State.quad (s : State) (q : QuadNo) : Quad := s.quads.get q
def State.modQuad (s : State) (q : QuadNo) (f : Quad → Quad) : State :=
  { s with quads := s.quads.set q (f (s.quad q)) }

/-- Quadrant of a physical cell (R5, R25). -/
def quadOf (p : PCell) : QuadNo := ⟨p.val / 17, by omega⟩

/-- All physical cells in ascending order. -/
def allCells : List PCell := List.finRange 68
def allQuads : List QuadNo := List.finRange 4
/-- All engine ports, DEP before SEP of each cell. -/
def allPorts : List EPort := allCells.flatMap fun p => [⟨p, false⟩, ⟨p, true⟩]

/-- The working physical cell that serves a logical cell (R5, R36). -/
def State.physOf (s : State) (l : LCell) : Option PCell := allCells.find? fun p => (s.cell p).logical == some l

/-- Cells that serve a logical cell: the cells of the job. -/
def State.mapped (s : State) : List PCell := allCells.filter fun p => (s.cell p).logical.isSome

/-- Package logical cell number (R5): instance × 64 + logical, 0xFFFF when none (R331). -/
def State.pkgLogical (s : State) (p : PCell) : BitVec 16 :=
  match (s.cell p).logical with
  | some l => BitVec.ofNat 16 (s.pins.instanceId.toNat * 64 + l.toNat)
  | none => 0xFFFF

/-- A tile of a cell by its number 0-23, none for 24-31 (R44). -/
def Cell.tile? (c : Cell) (t : TileNo) : Option Tile := if h : t.toNat < 24 then some (c.tiles.get ⟨t.toNat, h⟩) else none

def Cell.modTile (c : Cell) (t : TileNo) (f : Tile → Tile) : Cell :=
  if h : t.toNat < 24 then { c with tiles := c.tiles.set t.toNat (f (c.tiles.get ⟨t.toNat, h⟩)) } else c

/-- Does the tile number lie in the file of this port (R50)? -/
def ownFile (sep : Bool) (t : TileNo) : Bool := if sep then 16 ≤ t.toNat && t.toNat < 24 else t.toNat < 16

def TileCfg.rows (c : TileCfg) : Nat := c.rm1.toNat + 1
def TileCfg.bytes (c : TileCfg) : Nat := 32 * (c.rb.toNat + 1)

/-- The stored bytes of a row slot (R77). -/
def Tile.stored (t : Tile) (r : Nat) : Row := ((t.data.find? (·.1 = r)).map (·.2)).getD 0

/-- A row as a read returns it (R87): the stored row when written, zeros when only below VALIDROWS. -/
def Tile.rowAt (t : Tile) (r : Nat) : Row := if t.written.getLsbD r then t.stored r else 0

/-- A write of a row into a configured tile (R86): the whole row, its row-written bit, VALIDROWS and TF_INUSE. -/
def Tile.writeRow (t : Tile) (r : Nat) (d : Row) : Tile :=
  { t with
    data := (r, d) :: t.data.filter (·.1 ≠ r)
    written := t.written ||| (1 <<< r)
    valid := max t.valid (r + 1)
    inUse := true }

/-- Release (R88): clears the row-written bits, VALIDROWS and TF_INUSE; keeps the configuration. -/
def Tile.release (t : Tile) : Tile := { t with written := 0, valid := 0, inUse := false }

/-- Drops the row-written bits of rows at or beyond `n` (R91, R236). -/
def Tile.cutWritten (t : Tile) (n : Nat) : Tile := { t with written := t.written &&& BitVec.ofNat 128 (2 ^ n - 1) }

/-- What the list of a command's outcomes says of a row (R97). -/
def eccAt (l : List RowEcc) (t : TileNo) (r : RowNo) : Ecc := ((l.find? fun x => x.tile == t && x.row == r).map (·.ecc)).getD .ok

/-- A later write of a tile by anything but a result write ends the windows of R48 in which reads look behind it. -/
def Port.forget (q : Port) (t : TileNo) : Port := { q with recent := q.recent.filter (·.tile ≠ t) }
def Cell.forget (c : Cell) (t : TileNo) : Cell := { c with dep := c.dep.forget t, sep := c.sep.forget t }

/-- Write-backs of corrected rows that a write of these rows cancels (R97). -/
def Cell.cancelBack (c : Cell) (t : TileNo) (rows : RowNo → Bool) : Cell := { c with wbq := c.wbq.filter fun w => !(w.1 == t && rows w.2) }

/-- Discards the resume record of a tile; TF_ROWSTART.VALID clears when it shows that record (R123, R124). -/
def Cell.dropResume (c : Cell) (t : TileNo) : Cell :=
  let c' := c.modTile t fun x => { x with resume := none }
  if c.rowStart.extractLsb' 24 5 == t then { c' with rowStart := c'.rowStart &&& 0x7FFFFFFF } else c'

/-! ### Outputs -/

def State.out (s : State) (o : Out) : State := { s with outs := s.outs ++ [o] }

/-! ### Codes -/

/-- Fault code bytes (R17). -/
def Code.byte : Code → Byte
  | .ok => 0x00 | .tshape => 0x01 | .tfmt => 0x02 | .tnotvalid => 0x03 | .pagefault => 0x04 | .permfault => 0x05
  | .align => 0x06 | .idxrange => 0x07 | .ovlap => 0x08 | .stashfull => 0x09 | .genstale => 0x0A | .routebad => 0x0B
  | .decerr => 0x0C | .portproto => 0x0D | .uncorr => 0x0E | .preempt => 0x0F | .ndetblock => 0x10 | .fenced => 0x11

def Sev.code : Sev → BitVec 3
  | .info => 0 | .corrected => 1 | .stepvoid => 2 | .cellfatal => 3 | .instfatal => 4

/-- Fatal severities (R327). -/
def Sev.fatal : Sev → Bool
  | .cellfatal => true | .instfatal => true | _ => false

/-! Class codes from 0x20 (R330); a class below 0x20 is its fault code. -/
def clsClock : Byte := 0x20
def clsGeometry : Byte := 0x21
def clsTilehazard : Byte := 0x22
def clsFmtrange : Byte := 0x23
def clsFlitcrc : Byte := 0x24
def clsNetlink : Byte := 0x25
def clsIdxskip : Byte := 0x26
def clsStashfrozen : Byte := 0x27
def clsStashdup : Byte := 0x28
def clsStashmiss : Byte := 0x29
def clsStashmark : Byte := 0x2A
def clsGenwait : Byte := 0x2B
def clsGenpartial : Byte := 0x2C
def clsResumeMismatch : Byte := 0x2D
def clsLaunchlate : Byte := 0x2E
def clsDigestloss : Byte := 0x2F
def clsDiverge : Byte := 0x30
def clsPeerlost : Byte := 0x31
def clsPeervoid : Byte := 0x32
def clsVoidloop : Byte := 0x33
def clsRetire : Byte := 0x34
def clsJackfail : Byte := 0x35
def clsRepair : Byte := 0x36
def clsRepaired : Byte := 0x37
def clsRepairfail : Byte := 0x38
def clsParstale : Byte := 0x39
def clsCkptfail : Byte := 0x3A
def clsEcc : Byte := 0x3B
def clsMemcorr : Byte := 0x3C
def clsEngerr : Byte := 0x3D

/-! Source levels (R328). -/
def lvlInstance : BitVec 4 := 0
def lvlQuadrant : BitVec 4 := 1
def lvlCell : BitVec 4 := 2
def lvlMsp : BitVec 4 := 3
def lvlXsp : BitVec 4 := 4
def lvlWiquin : BitVec 4 := 5
def lvlRoute : BitVec 4 := 6
def lvlControl : BitVec 4 := 7
def lvlFirmware : BitVec 4 := 8
def lvlPeer : BitVec 4 := 9
def lvlSpine : BitVec 4 := 0xA

/-- SRC_ID of a cell, with a port named or not (R328). -/
def srcCell (p : PCell) : BitVec 16 := BitVec.ofNat 16 p.val
def srcPort (e : EPort) : BitVec 16 := BitVec.ofNat 16 (0x100 + (if e.sep then 0x80 else 0) + e.p.val)
/-- SRC_ID of a route: quadrant of the route engine and route id (R328). -/
def srcRoute (q : QuadNo) (r : RouteId) : BitVec 16 := BitVec.ofNat 16 (q.val * 2 ^ 14 + r.toNat)

/-- Detail bytes from a list, byte 0 first (R331). -/
def detailOf (bs : List Byte) : BitVec 96 := BitVec.ofNat 96 (natOf bs)
def b8 (n : Nat) : List Byte := [BitVec.ofNat 8 n]
def b16 (n : Nat) : List Byte := bytesOf 2 n
def b32 (n : Nat) : List Byte := bytesOf 4 n

/-- Layout A (R331). -/
def detA (tile row op tag : Nat) (cpl : Word) (route : Nat) (lcell : BitVec 16) : BitVec 96 :=
  detailOf (b8 tile ++ b8 row ++ b8 op ++ b8 tag ++ b32 cpl.toNat ++ b16 route ++ b16 lcell.toNat)
/-- Layout B (R331). -/
def detB (off : BitVec 24) (write : Bool) : BitVec 96 := detailOf (bytesOf 3 off.toNat ++ b8 write.toNat)
/-- Layout D (R331). -/
def detD (addr : PAddr) (port : BitVec 5) (write : Bool) : BitVec 96 :=
  detailOf (bytesOf 7 addr.toNat ++ b8 port.toNat ++ b8 write.toNat)
/-- Layout G (R331). -/
def detG (idx : BitVec 12) (route : Nat) (ctr : BitVec 16) : BitVec 96 := detailOf (b16 idx.toNat ++ b16 route ++ b16 ctr.toNat)
/-- Layout K (R331). -/
def detK (slot layer part cell x : Nat) : BitVec 96 := detailOf (b16 slot ++ b16 layer ++ b8 part ++ b8 cell ++ b16 x)
/-- Layout L (R331). -/
def detL (kind port replays : Nat) : BitVec 96 := detailOf (b8 kind ++ b8 port ++ b8 replays)
/-- Layout P (R331). -/
def detP (no reason ident : Nat) : BitVec 96 := detailOf (b8 no ++ b8 reason ++ [0, 0] ++ b32 ident)
/-- Layout X (R331). -/
def detX (p : PCell) (cause : Nat) (lcell : BitVec 16) : BitVec 96 := detailOf (b8 p.val ++ b8 cause ++ b16 lcell.toNat)
/-- Layout C (R331). -/
def State.detC (s : State) (peer : BitVec 16) : BitVec 96 :=
  detailOf (b32 s.step.count.toNat ++ b16 s.tmb.voids.toNat ++ b16 peer.toNat)
/-- Layout M (R331). -/
def State.detM (s : State) (addr struct : Nat) : BitVec 96 :=
  detailOf (bytesOf 7 addr ++ b8 struct ++ b32 s.step.count.toNat)

/-! ### Reports (R332, R337, R341) -/

def State.setIrq (s : State) (bit : Nat) : State := { s with glob := { s.glob with irqSts := s.glob.irqSts ||| (1 <<< bit) } }

/-- Reports are lost (R337): PNT_LOST counts each report that an entry stands for; an increase sets the interrupt flag (R341). -/
def State.loseN (s : State) (n : Nat) : State :=
  let l := BitVec.ofNat 32 (satTo 0xFFFFFFFF (s.log.lost.toNat + n))
  { s with log := { s.log with lost := l }, glob := { s.glob with irqSts := if l = s.log.lost then s.glob.irqSts else s.glob.irqSts ||| (1 <<< 6) } }

/-- Same coalescing key: SRC_LEVEL, SRC_ID, CLASS and SEV (R332, R335). -/
def Report.same (a b : Report) : Bool := a.level == b.level && a.src == b.src && a.cls == b.cls && a.sev == b.sev

/-- Merging `b` into `a`: REPORTS and COUNT add, LAST_TICK is updated (R332, R335). -/
def Report.merge (a b : Report) : Report :=
  { a with reports := satTo 0xFFFF (a.reports + b.reports), count := satTo 0xFFFFFFFF (a.count + b.count), last := b.last }

/-- The intake a unit reports into: its quadrant's, or the fifth for everything else (R332). -/
def intakeOf (level : BitVec 4) (src : BitVec 16) : Fin 5 :=
  if level = lvlQuadrant then ⟨src.toNat % 4, by omega⟩
  else if level = lvlCell then ⟨(src.toNat % 128) / 17 % 4, by omega⟩
  else if level = lvlRoute then ⟨src.toNat / 2 ^ 14 % 4, by omega⟩
  else 4

/-- Merges into the newest entry if the key is the same. -/
def mergeNewest (l : List Report) (r : Report) : Option (List Report) :=
  match l.getLast? with
  | some x => if x.same r then some (l.dropLast ++ [x.merge r]) else none
  | none => none

/-- Units that report through the SCLK port of the instance-wide intake: the control bus, firmware and the clock check of R29 (log entry 13). -/
def Report.onSclk (r : Report) : Bool := r.level == lvlControl || r.level == lvlFirmware || r.cls == clsClock

/-- The order of acceptance within one NCLK (R332): ascending SRC_LEVEL, SRC_ID and CLASS, and a report of the SCLK port last. -/
def Report.rank (r : Report) : List Nat := [r.onSclk.toNat, r.level.toNat, r.src.toNat, r.cls.toNat]

/-- A report takes its place among those of its NCLK, behind its equals. -/
def rankIn (r : Report) : List Report → List Report
  | [] => [r]
  | x :: l => if r.rank < x.rank then r :: x :: l else x :: rankIn r l

/-- What becomes of one report (R332): with `room` in its NCLK it is taken while the intake is not full; else it enters the fatal lane,
merges with the newest entry, or is lost. The newest entry is that of the fatal lane while one waits there, since the recorder serves it
first and nothing else leaves the intake. -/
def Intake.place (k : Intake) (room : Bool) (r : Report) : Intake :=
  if room && decide (k.ordinary.length < 64) then { k with ordinary := k.ordinary ++ [r] }
  else if r.sev.fatal && decide (k.fatal.length < 4) then { k with fatal := k.fatal ++ [r] }
  else match mergeNewest (if k.fatal.isEmpty then k.ordinary else k.fatal) r with
    | some l => if k.fatal.isEmpty then { k with ordinary := l } else { k with fatal := l }
    | none => { k with lost := k.lost + r.reports }

/-- The reports of one NCLK are accepted in their order, the first 8 with room (R332). -/
def Intake.accept (k : Intake) : Intake :=
  k.nclk.zipIdx.foldl (fun k x => k.place (x.1.onSclk || decide (x.2 < 8)) x.1) { k with ordinary := k.before.1, fatal := k.before.2, lost := 0 }

/-- A report reaches intake `i` at a tick, and the reports that it makes the intake lose. One that falls into the NCLK of the reports before
it (log entry 13) takes its place in their order, and they are accepted anew. -/
def Intake.arrive (k : Intake) (i : Nat) (now : Tick) (r : Report) : Intake × Nat :=
  let same := !k.nclk.isEmpty && k.since == now && Config.sameNclk i k.seen
  let k' := ({ k with
    nclk := if same then rankIn r k.nclk else [r]
    since := now
    before := if same then k.before else (k.ordinary, k.fatal)
    seen := k.seen + 1 } : Intake).accept
  (k', k'.lost - if same then k.lost else 0)

/-- A report reaches its intake (R332). PNT_SEV is set whatever becomes of it (R341). -/
def State.intake (s : State) (i : Fin 5) (r : Report) : State :=
  let s := s.setIrq r.sev.code.toNat
  let y := (s.log.intakes.get i).arrive i.val s.clk.gtc r
  ({ s with log := { s.log with intakes := s.log.intakes.set i y.1 } } : State).loseN y.2

/-- A unit makes a report with a COUNT (R327, R332). -/
def State.reportN (s : State) (level : BitVec 4) (src : BitVec 16) (cls : Byte) (sev : Sev) (count : Nat) (detail : BitVec 96) : State :=
  s.intake (intakeOf level src)
    { tick := s.clk.gtc, level := level, src := src, cls := cls, sev := sev, reports := 1, count := satTo 0xFFFFFFFF count,
      last := s.clk.gtc, detail := detail }

/-- An ordinary report counts 1 (R327). -/
def State.report (s : State) (level : BitVec 4) (src : BitVec 16) (cls : Byte) (sev : Sev) (detail : BitVec 96) : State :=
  s.reportN level src cls sev 1 detail

/-! ### TF_FAULT and completions (R51, R52, R98) -/

/-- The word TF_FAULT takes for a fault (R98). -/
def tfWord (sep : Bool) (tile : Nat) (code : Code) (op : Byte) (row : Nat) : Word :=
  BitVec.ofNat 32 (0x80000000 + (if sep then 0x20000000 else 0) + tile % 32 * 2 ^ 24 + code.byte.toNat * 2 ^ 16 + op.toNat * 2 ^ 8 + row % 128)

/-- A fault of the cell: recorded when VALID is clear, OVER otherwise (R98). -/
def State.tfFault (s : State) (e : EPort) (tile : Nat) (code : Code) (op : Byte) (row : Nat) : State :=
  s.modCell e.p fun c =>
    if c.tfFault.msb then { c with tfFault := c.tfFault ||| 0x40000000 } else { c with tfFault := tfWord e.sep tile code op row }

def Cmd.op (c : Cmd) : Byte := c.beat.extractLsb' 0 8
def Cmd.tag (c : Cmd) : Byte := c.beat.extractLsb' 8 8
/-- Tile that a command names (SRC of a TMOVE), 0 for a command that names none (R49, R98). -/
def Cmd.tileNo (c : Cmd) : TileNo :=
  match c.op.toNat with
  | 0x12 => c.beat.extractLsb' 32 5
  | 0x06 | 0x10 | 0x11 | 0x30 => 0
  | _ => c.beat.extractLsb' 24 5

/-- The completion word (R51). -/
def cplWord (detail : Word) (row : Nat) (op : Byte) (code : Code) (tag : Byte) : BitVec 64 :=
  detail ++ (0 : BitVec 1) ++ BitVec.ofNat 7 row ++ op ++ code.byte ++ tag

/-- Presents a completion; one whose code is not OK is recorded in TF_FAULT (R51, R98). -/
def State.present (s : State) (e : EPort) (op tag : Byte) (tile : Nat) (code : Code) (detail : Word) (row : Nat) : State :=
  let s := s.out (.cpl e (cplWord detail row op code tag))
  if code = .ok then s else s.tfFault e tile code op row

/-- Tile that TF_FAULT names: for a failed check the tile of DETAIL, else the command's (R52, R98). -/
def faultTile (c : Cmd) (code : Code) (detail : Word) : Nat :=
  if code = .tshape || code = .tfmt || code = .tnotvalid then detail.toNat % 32 else c.tileNo.toNat

/-- Takes a completed command out of its port; a FENCE waits for its tag no longer (R50, R53). -/
def Port.retireTag (q : Port) (tag : Byte) : Port :=
  { q with cmds := (q.cmds.filter fun x => x.tag ≠ tag).map fun x => { x with earlier := x.earlier.filter (· ≠ tag) } }

/-- The same for FENCE commands of the cell's other port. -/
def Port.retireOther (q : Port) (tag : Byte) : Port :=
  { q with cmds := q.cmds.map fun x => { x with other := x.other.filter (· ≠ tag) } }

/-- Completes an outstanding command: its tag is free from then on (R53). -/
def State.complete (s : State) (e : EPort) (c : Cmd) (code : Code) (detail : Word) (row : Nat := 0) : State :=
  (s.present e c.op c.tag (faultTile c code detail) code detail row).modCell e.p fun x =>
    (x.setPort e.sep ((x.port e.sep).retireTag c.tag)).setPort (!e.sep) ((x.port !e.sep).retireOther c.tag)

def Port.find (q : Port) (tag : Byte) : Option Cmd := q.cmds.find? (·.tag = tag)

/-- Replaces the outstanding command with the same tag. -/
def State.putCmd (s : State) (e : EPort) (c : Cmd) : State :=
  s.modPort e fun q => { q with cmds := q.cmds.map fun x => if x.tag = c.tag then c else x }

/-! ### NDET (R280) and the digest streams (R287-R289) -/

/-- Adds to this instance's NDET, saturating at 24 bits (R280). -/
def State.addNdet (s : State) (n : Nat) : State := { s with step := { s.step with ndet := satTo 0xFFFFFF (s.step.ndet + n) } }

/-- Units per granule: 0b111 acts as 0b110 (R291). -/
def Dig.grainUnits (d : Dig) : Nat := 2 ^ (if d.grain = 7 then 6 else d.grain.toNat)

/-- Changes the records of a step (R281). -/
def State.modRecOf (s : State) (step : BitVec 48) (f : StepRec → StepRec) : State :=
  { s with step := { s.step with records := s.step.records.map fun r => if r.step = step then f r else r } }

/-- Layout V (R331): the step, stream, instance and first unit of a digest entry. -/
def State.detV (s : State) (x : DEntry) : BitVec 96 :=
  detailOf (b32 x.step.toNat ++ b16 x.stream.toNat ++ b8 x.inst.toNat ++ [0] ++ b32 (x.granule.toNat * s.dig.grainUnits))

/-- A flag of the record of a step: of one that has not begun here, as that of a peer which is ahead, it waits until the record opens. -/
def State.flagStep (s : State) (step : BitVec 48) (f : RecFlag) : State :=
  if s.step.records.any (fun r => r.step == step) || decide (step.toNat < s.step.count.toNat) then
    s.modRecOf step fun r => match f with
      | .loss => { r with loss := true }
      | .diverged => { r with diverged := true }
      | .peer => { r with peer := true }
  else if s.dig.ahead.contains (step, f) then s
  else { s with dig := { s.dig with ahead := (step, f) :: s.dig.ahead } }

/-- A digest entry that finds its buffer full (R290). -/
def State.digestLoss (s : State) (x : DEntry) : State :=
  let s := ({ s with dig := { s.dig with loss := true } } : State).flagStep x.step .loss
  s.report lvlInstance (s.pins.instanceId.setWidth 16) clsDigestloss .info (s.detV x)

/-- A mismatch of an entry; the first of a step is recorded, and asks for a pause when ACTION is set (R290). `own` is the
local entry, whose tick the Pennant carries. -/
def State.diverge (s : State) (own : DEntry) : State :=
  let s := ({ s with dig := { s.dig with mismatch := true } } : State)
  if s.dig.ahead.contains (own.step, .diverged) || s.step.records.any (fun r => r.step == own.step && r.diverged) then s
  else
    let s := s.flagStep own.step .diverged
    let src := s.pins.instanceId.setWidth 16
    let s := s.intake (intakeOf lvlInstance src)
      { tick := own.tick, level := lvlInstance, src := src, cls := clsDiverge, sev := .info, reports := 1, count := 1,
        last := own.tick, detail := s.detV own }
    if s.dig.action then { s with step := { s.step with pausePend := true } } else s

/-- Same step, instance, stream and granule (R290). -/
def DEntry.same (a b : DEntry) : Bool := a.step == b.step && a.inst == b.inst && a.stream == b.stream && a.granule == b.granule

/-- Entries of one side that a comparison may hold unmatched (R290). -/
def digestCap : Nat := 8192

/-- An own entry is recorded: it is to be sent, and is compared with the peer's if that has come (R289, R290), also by a replay that folds
an entry again which a comparison has used up (R292). -/
def State.ownEntry (s : State) (x : DEntry) : State :=
  let s := { s with dig := { s.dig with toSend := s.dig.toSend ++ [x] } }
  match s.dig.done.find? x.same, s.dig.peerEnts.find? x.same with
  | some y, _ => if y.crc = x.crc then s else s.diverge x
  | none, some y =>
    let s := { s with dig := { s.dig with peerEnts := s.dig.peerEnts.filter fun z => !x.same z, done := x :: s.dig.done } }
    if y.crc = x.crc then s else s.diverge x
  | none, none =>
    if digestCap ≤ s.dig.own.length then s.digestLoss x else { s with dig := { s.dig with own := s.dig.own ++ [x] } }

/-- An entry of the peer arrives (R290). An entry sent again with another value is a mismatch (R292), also once the own entry has been
compared with the first. -/
def State.peerEntry (s : State) (x : DEntry) : State :=
  match s.dig.own.find? x.same with
  | some y =>
    let s := { s with dig := { s.dig with own := s.dig.own.filter fun z => !x.same z, done := y :: s.dig.done } }
    if y.crc = x.crc then s else s.diverge y
  | none =>
    match s.dig.done.find? x.same, s.dig.peerEnts.find? x.same with
    | some y, _ => if y.crc = x.crc then s else s.diverge y
    | none, some y => if y.crc = x.crc then s else s.diverge x
    | none, none =>
      if digestCap ≤ s.dig.peerEnts.length then s.digestLoss x else { s with dig := { s.dig with peerEnts := s.dig.peerEnts ++ [x] } }

/-- One unit folded into a stream; a full granule is recorded (R287, R289). Nothing is folded while EN is clear (R291). -/
def State.fold (s : State) (id : BitVec 16) (unit : List Byte) : State :=
  if !s.dig.en then s
  else
    let old := (s.dig.streams.find? (·.id = id)).getD ⟨id, 0, 0⟩
    let new : Stream := ⟨id, old.units + 1, crc64 old.crc unit⟩
    let s := { s with dig := { s.dig with streams := new :: s.dig.streams.filter (·.id ≠ id) } }
    if new.units % s.dig.grainUnits = 0 then
      s.ownEntry ⟨s.step.count, id, s.pins.instanceId, BitVec.ofNat 32 (new.units / s.dig.grainUnits - 1), new.crc, s.clk.gtc⟩
    else s

/-- Stream id of an engine port of a logical cell (R287). -/
def State.portStream (s : State) (e : EPort) : BitVec 16 :=
  BitVec.ofNat 16 (0x4000 + 2 * (s.pkgLogical e.p).toNat + (if e.sep then 1 else 0))

/-- The NCLK count moves with the ACLK of an engine event (R28). -/
def State.atAclk (s : State) (k : Nat) : State := { s with clk := { s.clk with aclk := max s.clk.aclk k } }

/-- The master of a package of several instances (R377). -/
def State.leadsPackage (s : State) : Bool :=
  s.pkg.settled && s.pkg.master == s.pins.instanceId && (List.range 8).any fun i => s.pkg.present.getLsbD i && i != s.pins.instanceId.toNat

/-- GTC moves on to what it is in `t`: when it passes a multiple of 2^12 ticks the master sends its timing flit (R377). -/
def State.passes (s t : State) : State :=
  if t.leadsPackage && decide (s.clk.gtc.toNat / 4096 < t.clk.gtc.toNat / 4096) then t.out (.wiquin none 7 t.clk.gtc) else t

/-- A tick event taken at `now` (R382): GTC has reached it; GTC never runs backwards (R378). -/
def State.atTick (s : State) (now : Tick) : State :=
  if s.clk.gtc.toNat ≤ now.toNat then s.passes { s with clk := { s.clk with gtc := now } } else s

/-- GTC advances over one TCLK cycle: by 10 ticks, or by 9 or 11 while a correction is outstanding, in at most one cycle of 100
(R377, R378). -/
def State.cycle (s : State) : State :=
  let c := s.clk
  if c.slew = 0 || decide (c.quiet < 99) then { s with clk := { c with gtc := c.gtc + 10, quiet := min 99 (c.quiet + 1) } }
  else if 0 < c.slew then { s with clk := { c with gtc := c.gtc + 11, slew := c.slew - 1, quiet := 0 } }
  else { s with clk := { c with gtc := c.gtc + 9, slew := c.slew + 1, quiet := 0 } }

/-- With no command waiting one TCLK cycle passes (log entry 4). -/
def State.idle (s : State) : State := if !s.clk.gtcOn then s else s.passes s.cycle

/-- Little-endian fields of a byte list. -/
def fld (bs : List Byte) (o n : Nat) : Nat := natOf ((bs.drop o).take n)

end Sys2Proof.Machine
end

