-- ==== Sys2Proof/Machine/Operands.lean ====
section
/-! DEFINITION. Operand fields: command beats (R49), route descriptors (R180-R186, R202, R208, R238, R270), address
translation (R113-R115), the address map (R164, R165, R365), and the tiles that commands and runs use (R93). -/

namespace Sys2Proof.Machine

/-- Bits [lo + n - 1 : lo] as a number. -/
def bf {w : Nat} (x : BitVec w) (lo n : Nat) : Nat := (x.extractLsb' lo n).toNat

/-! ### Command beats (R49) -/

/-- A beat from its opcode, tag and bits [127:16]. -/
def beatOf (op tag : Byte) (arg : BitVec 112) : BitVec 128 := arg ++ tag ++ op

def opTCFG : Byte := 0x01
def opTLOAD : Byte := 0x02
def opTSTORE : Byte := 0x03
def opTZERO : Byte := 0x04
def opTMOVE : Byte := 0x05
def opTRELEASE : Byte := 0x06
def opRKICK : Byte := 0x10
def opRWAIT : Byte := 0x11
def opRVREAD : Byte := 0x12
def opSTASHPUT : Byte := 0x20
def opSTASHGET : Byte := 0x21
def opFENCE : Byte := 0x30

/-- Fields of each opcode as (lowest bit, width), none for a reserved opcode (R49). -/
def beatFields (op : Byte) : Option (List (Nat × Nat)) :=
  match op.toNat with
  | 0x01 => some [(24, 5), (32, 7), (40, 3), (48, 5), (56, 1)]
  | 0x02 => some [(24, 5), (32, 48), (80, 32)]
  | 0x03 => some [(24, 5), (32, 48), (80, 32)]
  | 0x04 => some [(24, 5), (32, 1)]
  | 0x05 => some [(24, 5), (32, 5)]
  | 0x06 => some [(24, 24)]
  | 0x10 => some [(24, 14)]
  | 0x11 => some [(24, 14)]
  | 0x12 => some [(24, 2), (32, 5), (40, 7)]
  | 0x20 => some [(24, 5), (32, 9), (48, 12), (64, 4), (80, 12), (92, 1)]
  | 0x21 => some [(24, 5), (32, 9), (48, 12), (64, 4)]
  | 0x30 => some [(24, 1), (25, 1), (26, 1), (32, 16)]
  | _ => none

/-- Bits that the layout lists, opcode and tag included. -/
def listedBits (op : Byte) : Nat :=
  ((beatFields op).getD []).foldl (fun acc f => acc ||| ((2 ^ f.2 - 1) * 2 ^ f.1)) 0xFFFF

/-- A non-zero reserved bit (R49, R74 no. 2). -/
def reservedBitSet (op : Byte) (beat : BitVec 128) : Bool := beat.toNat &&& listedBits op != beat.toNat

def Cmd.dstTile (c : Cmd) : TileNo := c.beat.extractLsb' 32 5
def Cmd.va (c : Cmd) : Nat := bf c.beat 32 48
def Cmd.stride (c : Cmd) : Nat := bf c.beat 80 32
def Cmd.mask (c : Cmd) : BitVec 24 := c.beat.extractLsb' 24 24
def Cmd.route (c : Cmd) : RouteId := c.beat.extractLsb' 24 14
def Cmd.slot (c : Cmd) : BitVec 9 := c.beat.extractLsb' 32 9
def Cmd.layer (c : Cmd) : BitVec 12 := c.beat.extractLsb' 48 12
def Cmd.part (c : Cmd) : BitVec 4 := c.beat.extractLsb' 64 4
def Cmd.genIdx (c : Cmd) : BitVec 12 := c.beat.extractLsb' 80 12
def Cmd.genValid (c : Cmd) : Bool := c.beat.getLsbD 92

/-- Tiles of a mask, bit positions as TF_INUSE. -/
def maskTiles (m : BitVec 24) : List TileNo := ((List.range 24).filter fun i => m.getLsbD i).map (BitVec.ofNat 5)

/-- Tiles that a command writes (R93). -/
def Cmd.writes (c : Cmd) : List TileNo :=
  match c.op.toNat with
  | 0x01 | 0x02 | 0x04 | 0x12 | 0x21 => [c.tileNo]
  | 0x05 => [c.dstTile]
  | 0x06 => maskTiles c.mask
  | _ => []

/-- Tiles that a command reads (R93). -/
def Cmd.reads (c : Cmd) : List TileNo :=
  match c.op.toNat with
  | 0x03 | 0x05 | 0x20 => [c.tileNo]
  | _ => []

/-! ### Route descriptors (R182-R186) -/

/-- Little-endian field of a descriptor: byte offset and bytes. -/
def dfld (d : Desc) (o n : Nat) : Nat := bf d (8 * o) (8 * n)

/-- Two's complement reading of the same. -/
def dsfld (d : Desc) (o n : Nat) : Int := signed (8 * n) (dfld d o n)

def dValid (d : Desc) : Bool := d.getLsbD 7
def dKind (d : Desc) : Nat := bf d 0 4
def dCanon (d : Desc) : Bool := d.getLsbD 14
def dPadwrite (d : Desc) : Bool := d.getLsbD 13
def dRnd (d : Desc) : Bool := d.getLsbD 12
def dQos (d : Desc) : Nat := bf d 8 4
def dSrcFmt (d : Desc) : BitVec 5 := d.extractLsb' 16 5
def dDstFmt (d : Desc) : BitVec 5 := d.extractLsb' 24 5
def dStream (d : Desc) : BitVec 16 := d.extractLsb' 32 16
def dVshard (d : Desc) : BitVec 16 := d.extractLsb' 48 16
def dSrcEp (d : Desc) : Nat := bf d 64 4
def dDstEp (d : Desc) : Nat := bf d 68 4
def dPfdepth (d : Desc) : Nat := bf d 72 6
def dFencegrp (d : Desc) : Nat := bf d 80 4
def dPadval (d : Desc) : Nat := bf d 86 2
def dPadconst (d : Desc) : Word := d.extractLsb' 96 32
def dcnt (d : Desc) (k : Nat) : Nat := dfld d (16 + 6 * k) 2
def sext (d : Desc) (k : Nat) : Nat := dfld d (18 + 6 * k) 2
def padlo (d : Desc) (k : Nat) : Nat := dfld d (20 + 6 * k) 2
/-- Strides of dimension k = 1 to 5; dimension 0 has none (R185). -/
def srcStride (d : Desc) (k : Nat) : Int := if k = 0 then 0 else dsfld d (52 + 8 * (k - 1)) 4
def dstStride (d : Desc) (k : Nat) : Int := if k = 0 then 0 else dsfld d (56 + 8 * (k - 1)) 4
def srcPstride (d : Desc) : Nat := dfld d 92 4
def dstPstride (d : Desc) : Nat := dfld d 112 4
def srcSoff (d : Desc) : Int := dsfld d 116 4
def dstSoff (d : Desc) : Int := dsfld d 120 4
def srcWord (d : Desc) : BitVec 64 := d.extractLsb' 768 64
def dstWord (d : Desc) : BitVec 64 := d.extractLsb' 832 64
def tail16 (d : Desc) : Nat := bf d 896 128

/-- Kinds (R183). -/
def kCOPY : Nat := 1
def kTRANSPOSE : Nat := 2
def kSPLIT : Nat := 3
def kJOIN : Nat := 4
def kBROADCAST : Nat := 5
def kGATHER : Nat := 6
def kSCATTER : Nat := 7
def kPUT : Nat := 8
def kGET : Nat := 9
def kDUAL : Nat := 0xA
def kPARITY : Nat := 0xB
def kMERGE : Nat := 0xC

/-- Endpoint types (R184). -/
def epNONE : Nat := 0
def epMEM : Nat := 1
def epTILE : Nat := 2
def epGROUP : Nat := 3
def epGEN : Nat := 4
def epSTASH : Nat := 5
def epXSP : Nat := 6

/-! Endpoint words (R184, R238). -/
def epBase (w : BitVec 64) : Nat := bf w 0 48
def epCell (w : BitVec 64) : Nat := bf w 16 9
def epLocal (w : BitVec 64) : LCell := w.extractLsb' 16 6
def epTileNo (w : BitVec 64) : TileNo := w.extractLsb' 0 5
def epGroupTile (w : BitVec 64) : TileNo := w.extractLsb' 8 5
def epGroupAll (w : BitVec 64) : Bool := w.getLsbD 4
def epGroup (w : BitVec 64) : Nat := bf w 0 4
def epGenMb (w : BitVec 64) : BitVec 9 := w.extractLsb' 20 9
def epGenPart (w : BitVec 64) : Nat := bf w 16 2
def epGenSlot (w : BitVec 64) : Nat := bf w 12 2
def epGenIdx (w : BitVec 64) : BitVec 12 := w.extractLsb' 0 12
def epStashGenV (w : BitVec 64) : Bool := w.getLsbD 60
def epStashGen (w : BitVec 64) : BitVec 12 := w.extractLsb' 48 12
def epStashLayer (w : BitVec 64) : BitVec 12 := w.extractLsb' 32 12
def epStashPart (w : BitVec 64) : BitVec 4 := w.extractLsb' 24 4
def epStashCell (w : BitVec 64) : LCell := w.extractLsb' 16 6
def epStashSlot (w : BitVec 64) : BitVec 9 := w.extractLsb' 0 9

/-! Fields of GATHER and SCATTER_ACC (R208). -/
def idxBase (d : Desc) : Nat := dfld d 112 6
def idxAccXor (d : Desc) : Bool := d.getLsbD (118 * 8 + 3)
def idxMode (d : Desc) : Nat := bf d (118 * 8 + 1) 2
def idx64 (d : Desc) : Bool := d.getLsbD (118 * 8)
def idxExtent (d : Desc) : Nat := dfld d 120 5

/-! ### Tiles that runs use (R93, R190) -/

/-- Logical cells of a GROUP endpoint in ascending order (R201). -/
def State.groupCells (s : State) (w : BitVec 64) : List LCell :=
  let m := if h : epGroup w < 16 then s.glob.bunt.get ⟨epGroup w, h⟩ else 0
  ((List.range 64).filter fun j => epGroupAll w || m.getLsbD j).map (BitVec.ofNat 6)

/-- Logical cells and tile that a run writes. -/
def Run.tileWrites (r : Run) : List (LCell × TileNo) :=
  if dDstEp r.desc = epTILE then [(epLocal (dstWord r.desc), epTileNo (dstWord r.desc))]
  else if dDstEp r.desc = epGROUP then r.cells.map fun c => (c, epGroupTile (dstWord r.desc))
  else []

/-- Logical cell and tile that a run reads. -/
def Run.tileReads (r : Run) : List (LCell × TileNo) :=
  if dSrcEp r.desc = epTILE then [(epLocal (srcWord r.desc), epTileNo (srcWord r.desc))] else []

/-- Every run of the instance, running or held. -/
def State.runs (s : State) : List Run := allQuads.flatMap fun q => (s.quad q).runs

/-- Runs that are running. -/
def State.running (s : State) : List Run := s.runs.filter fun r => r.code.isNone

/-- A run uses tiles of a logical cell (R397). -/
def Run.usesCell (r : Run) (l : LCell) : Bool := (r.tileWrites ++ r.tileReads).any fun x => x.1 == l

/-- Busy for write (R93). -/
def State.busyW (s : State) (p : PCell) (t : TileNo) : Bool :=
  (([(s.cell p).dep, (s.cell p).sep].flatMap fun q => q.cmds).any fun c => c.started && c.writes.contains t)
  || (match (s.cell p).logical with
      | some l => s.running.any fun r => r.tileWrites.contains (l, t)
      | none => false)

/-- Busy for read (R93). -/
def State.busyR (s : State) (p : PCell) (t : TileNo) : Bool :=
  (([(s.cell p).dep, (s.cell p).sep].flatMap fun q => q.cmds).any fun c => c.started && c.reads.contains t)
  || (match (s.cell p).logical with
      | some l => s.running.any fun r => r.tileReads.contains (l, t)
      | none => false)

/-- A TSTORE issued again while the one it repeats still runs (R125). -/
def State.repeats (s : State) (p : PCell) (c : Cmd) : Bool :=
  c.op == opTSTORE && ([(s.cell p).dep, (s.cell p).sep].flatMap fun q => q.cmds).any fun x =>
    x.started && x.op == opTSTORE && x.tileNo == c.tileNo && x.va == c.va && x.stride == c.stride

/-- A command that is about to start conflicts with a busy tile (R93); one that is issued again waits for the one it repeats
(R125). -/
def State.conflict (s : State) (p : PCell) (c : Cmd) : Bool :=
  (c.writes.any fun t => s.busyW p t || s.busyR p t) || (c.reads.any fun t => s.busyW p t) || s.repeats p c

/-! ### Address map (R164, R165, R365) -/

/-- Home slice of a local address: XOR of the ten 4-bit groups of A[47:8] (R164). -/
def homeSlice (a : Nat) : Nat := (List.range 10).foldl (fun acc i => acc ^^^ (a / 2 ^ (8 + 4 * i)) % 16) 0

/-- CAP_GB of an MSP with an identified stack (R64). -/
def Msp.capGb (m : Msp) : Nat := match m.ident with | w :: _ => if m.idDone && !m.absent then bf w 0 16 else 0 | [] => 0

/-- MSPs with an identified stack in ascending order (R165). -/
def State.mspSet (s : State) : List (Fin 6) := (List.finRange 6).filter fun m => (s.msps.get m).capGb ≠ 0

/-- Smallest stack capacity in bytes; stack vendors' GB is decimal (R165). -/
def State.stackCap (s : State) : Nat :=
  let caps := s.mspSet.map fun m => (s.msps.get m).capGb
  (caps.foldl min (caps.headD 0)) * 1000000000

/-- Usable capacity of the instance: M × C (R165). -/
def State.memCap (s : State) : Nat := s.mspSet.length * s.stackCap

/-- XOR of the bytes of a number. -/
def xorBytes (q : Nat) : Nat := (List.range 8).foldl (fun acc i => acc ^^^ (q / 2 ^ (8 * i)) % 256) 0

/-- MSP and stack-local byte address of a local address, none when M is zero (R165). -/
def State.interleave (s : State) (a : Nat) : Option (Fin 6 × Nat) :=
  let m := s.mspSet.length
  if m = 0 then none
  else
    let g := a / 4096
    let q := g / m
    match s.mspSet[(g % m + xorBytes q) % m]? with
    | some p => some (p, q * 4096 + a % 4096)
    | none => none

/-- PRESENT of GEO_INSTANCE (R38). -/
def State.presentMask (s : State) : BitVec 8 := (s.glob.geo.get 2).extractLsb' 16 8

/-- Owner and local part of a package-global address (R365). -/
def paOwner (pa : Nat) : Nat := pa / 2 ^ 48 % 8
def paLocal (pa : Nat) : Nat := pa % 2 ^ 48

/-- Own memory: the owner is this instance. -/
def State.ownPa (s : State) (pa : Nat) : Bool := paOwner pa == s.pins.instanceId.toNat

/-- A local address that no stack holds: at or above the usable capacity, or interleaved to a stack-local address at or above the
capacity of every stack, where Orlith issues nothing (R62, R165). -/
def State.beyond (s : State) (a : Nat) : Bool :=
  decide (s.memCap ≤ a) || (match s.interleave a with | some x => decide (s.stackCap ≤ x.2) | none => true)

/-- An address that decodes to the default target (R175, R365). The capacity of another instance is not known here, so
its addresses decode by PRESENT alone (log entry 9). -/
def State.isDefault (s : State) (pa : Nat) : Bool :=
  2 ^ 51 ≤ pa || !(s.presentMask.getLsbD (paOwner pa)) || (s.ownPa pa && s.beyond (paLocal pa))

/-! ### Translation (R113-R115) -/

/-- What a walk finds: a leaf, PAGEFAULT, or a table address that decodes to the default target. -/
inductive WalkRes where
  | leaf (l : Leaf)
  | fault
  | decerr (pa : Nat)
  deriving DecidableEq, Repr

/-- A table entry breaks R114: a reserved bit, LEAF at the wrong level (L1 and L2 hold pointers, L4 leaves), or ADDR not
aligned to the table or page it names. -/
def malformed (level e : Nat) : Bool :=
  let leaf := e / 2 % 2 = 1
  let addr := (e / 256 % 2 ^ 44) * 256
  let al := if level = 1 || level = 2 then 4096 else if level = 3 then (if leaf then 2 ^ 21 else 256) else 2 ^ 16
  decide (e / 2 ^ 52 ≠ 0) || decide (e / 16 % 16 ≠ 0) || (decide (level ≤ 2) && leaf) || (decide (level = 4) && !leaf)
    || decide (addr % al ≠ 0)

/-- Bytes of virtual address space that one entry of a level covers. -/
def levelSize (level : Nat) : Nat := if level = 1 then 2 ^ 39 else if level = 2 then 2 ^ 30 else if level = 3 then 2 ^ 21 else 2 ^ 16

/-- Physical address of the entry of a level's table for a virtual address. -/
def entryPa (va level table : Nat) : Nat := table + 8 * (va / levelSize level % (if level = 4 then 32 else 512))

/-- The pointer that a walk cache holds for a level and an address (R116). -/
def Quad.walk? (x : Quad) (va level : Nat) : Option Walk := x.walks.find? fun w => w.level == level && w.page == va / levelSize level

/-- The walk from level `level` with `fuel` levels left; a pointer that the quadrant's walk cache holds is taken from there
(R113, R116). -/
def State.walkFrom (s : State) (q : QuadNo) (va : Nat) : Nat → Nat → Nat → WalkRes
  | 0, _, _ => .fault
  | fuel + 1, level, table =>
    match (s.quad q).walk? va level with
    | some w => s.walkFrom q va fuel (level + 1) w.table
    | none =>
      let pa := entryPa va level table
      if s.isDefault pa then .decerr pa
      else
        let e := s.mem.readNat pa 8
        let leaf := e / 2 % 2 = 1
        let addr := (e / 256 % 2 ^ 44) * 256
        if e % 2 = 0 || malformed level e then .fault
        else if leaf then
          let big := level = 3
          let sz := levelSize level
          .leaf ⟨va / sz * sz, big, addr, decide (e / 4 % 2 = 1), decide (e / 8 % 2 = 1)⟩
        else s.walkFrom q va fuel (level + 1) addr

/-- Pointer entries that a walk reads, with the address of each entry, in order: those that the walk cache holds are not read. The
last address is that of the entry at which the walk ends. -/
def State.walkPath (s : State) (q : QuadNo) (va : Nat) : Nat → Nat → Nat → List Walk × List Nat
  | 0, _, _ => ([], [])
  | fuel + 1, level, table =>
    match (s.quad q).walk? va level with
    | some w => s.walkPath q va fuel (level + 1) w.table
    | none =>
      let pa := entryPa va level table
      if s.isDefault pa then ([], [])
      else
        let e := s.mem.readNat pa 8
        if e % 2 = 0 || malformed level e || decide (e / 2 % 2 = 1) then ([], [pa])
        else
          let addr := (e / 256 % 2 ^ 44) * 256
          let y := s.walkPath q va fuel (level + 1) addr
          (⟨level, va / levelSize level, addr⟩ :: y.1, pa :: y.2)

/-- Size of the page of a leaf. -/
def Leaf.size (l : Leaf) : Nat := if l.big then 2 ^ 21 else 2 ^ 16

/-- The leaf that a quadrant's translation cache holds for an address. -/
def Quad.leaf? (x : Quad) (va : Nat) : Option Leaf := x.tlb.find? fun l => decide (l.va ≤ va) && decide (va < l.va + l.size)

/-- The leaf of a quadrant's translation cache for an address, else the walk's (R116). -/
def State.leafFor (s : State) (q : QuadNo) (va : Nat) : WalkRes :=
  match (s.quad q).leaf? va with
  | some l => .leaf l
  | none => s.walkFrom q va 4 1 s.job.ptRoot.toNat

/-- The walk that an address needs: none when the translation cache holds its leaf. -/
def State.walkFor (s : State) (q : QuadNo) (va : Nat) : List Walk × List Nat :=
  match (s.quad q).leaf? va with
  | some _ => ([], [])
  | none => s.walkPath q va 4 1 s.job.ptRoot.toNat

/-- Keeps an entry in a list of at most `cap`, in whose place `pick` another leaves (log entry 8). -/
def keepIn {α : Type} [BEq α] (cap pick : Nat) (x : α) (l : List α) : List α :=
  if l.contains x then l else if l.length < cap then l ++ [x] else l.eraseIdx (pick % l.length) ++ [x]

/-- A leaf enters a translation cache of 2,048 entries in 8 ways (R116). -/
def keepLeaf (pick : Nat) (x : Leaf) (l : List Leaf) : List Leaf :=
  let set (y : Leaf) : Nat := Config.tlbSet y.va % 256
  if decide (l.length < 8) then keepIn 8 pick x l
  else keepIn 8 pick x (l.filter fun y => set y == set x) ++ l.filter fun y => set y != set x

/-- Entries of a walk cache (R116). -/
def walkCap : Nat := 256

/-- Translation of one byte address for a read or a write (R115): physical address or fault code. `decerr` names the
address that decodes to the default target; a data address there is left to the caller. -/
inductive Xlate where
  | pa (a : Nat)
  | fault (c : Code)
  | decerr (a : Nat)
  deriving DecidableEq, Repr

def State.xlate (s : State) (q : QuadNo) (va : Nat) (write : Bool) : Xlate :=
  match s.leafFor q va with
  | .fault => .fault .pagefault
  | .decerr a => .decerr a
  | .leaf l =>
    if (if write then l.write else l.read) then .pa (l.pa + (va - l.va)) else .fault .permfault

/-- Cuts [va, va + n) at 64 KiB boundaries: every page boundary is one of them. -/
def pagePieces (va n : Nat) : List (Nat × Nat) :=
  let k := 2 ^ 16 - va % 2 ^ 16
  if n ≤ k then [(va, n)] else [(va, k), (va + k, n - k)]

/-- Cuts the pieces of a row, each of at most 256 bytes, at the 256-byte lines that packets carry. -/
def linePieces (ps : List (Nat × Nat)) : List (Nat × Nat) :=
  ps.flatMap fun x =>
    let k := 256 - x.1 % 256
    if x.2 ≤ k then [x] else [(x.1, k), (x.1 + k, x.2 - k)]

/-- Package-global lines that [pa, pa + n) touches. -/
def linesOf (pa n : Nat) : List Nat := if n = 0 then [] else (List.range ((pa + n - 1) / 256 - pa / 256 + 1)).map (pa / 256 + ·)

end Sys2Proof.Machine
end

