-- ==== Sys2Proof/Machine/Network.lean ====
section
/-! DEFINITION. The shape of the operand network (R160-R164, R370): matrix ports, spine stations, fixed paths on the ring, the Wiquin
port that a packet leaves by, and the order in which a target port grants (R167, R168, R173). -/

namespace Sys2Proof.Machine

/-! ### Matrix ports (R160) -/

/-- Matrix port of a cell P(17q + n). -/
def cellPortNo (p : PCell) : Nat := p.val % 17
/-- Matrix port of operand-cache slice 4q + n, and the quadrant of a slice (R164). -/
def slicePortNo (slice : Nat) : Nat := 17 + slice % 4
def sliceQuad (slice : Nat) : QuadNo := ⟨slice / 4 % 4, by omega⟩
/-- Matrix port of stash slice 2q + n. -/
def stashPortNo (slice : Nat) : Nat := 21 + slice % 2
def stationPortNo : Nat := 23
def routePortNo : Nat := 24
def bridgePortNo : Nat := 25

/-- Largest payload that a matrix port delivers in one packet (R158, R160). -/
def portBytes (port : Nat) : Nat := if port = bridgePortNo then 64 else 256

/-- Initiator of an answer of the default target (R160, R175): the cell of a row, the route engine and ATU for a walk or a line of a run. -/
def whoPort (w : Who) (walk : Bool) (port : BitVec 5) : BitVec 5 :=
  match w with
  | .row e _ _ => BitVec.ofNat 5 (if walk then routePortNo else cellPortNo e.p)
  | .line _ _ _ => BitVec.ofNat 5 routePortNo
  | .other => port

/-! ### The ring (R161, R162) -/

/-- Stations of the quadrants, of the memory-side ports, and of the Wiquin and external station ports (R161). -/
def quadStation (q : QuadNo) : Fin 11 := match q with | 0 => 0 | 1 => 3 | 2 => 6 | 3 => 9
def mspStation (m : Fin 6) : Fin 11 := match m with | 0 => 1 | 1 => 2 | 2 => 4 | 3 => 7 | 4 => 8 | 5 => 10
def wxStation : Fin 11 := 5

/-- The direction of a closed ring from a to b: true when the station number increases (R162). -/
def ringUp (a b : Fin 11) : Bool := decide ((b.val + 11 - a.val) % 11 ≤ 5)

/-- Segments crossed from a to b in a direction; segment n joins stations n and n + 1. -/
def ringPath (up : Bool) (a b : Fin 11) : List Nat :=
  if up then (List.range ((b.val + 11 - a.val) % 11)).map fun i => (a.val + i) % 11
  else (List.range ((a.val + 11 - b.val) % 11)).map fun i => (a.val + 10 - i) % 11

/-- The direction taken: away from the open segment, if one has failed (R162, R179). -/
def State.ringDir (s : State) (a b : Fin 11) : Bool :=
  let up := ringUp a b
  match s.net.open1 with
  | some n => if (ringPath up a b).contains n.val then !up else up
  | none => up

/-- Segments between two stations on the path that every packet between them takes. -/
def State.hops (s : State) (a b : Fin 11) : Nat := (ringPath (s.ringDir a b) a b).length

/-- Spine hops between quadrants on the closed ring (R162). -/
def quadHops (a b : QuadNo) : Nat := (ringPath (ringUp (quadStation a) (quadStation b)) (quadStation a) (quadStation b)).length

/-! ### Target ports (R168, R170) -/

/-- Numbers of target ports: 32 x quadrant + matrix port; the attachment of station n is 128 + n, its outputs onto the ring are
160 + 2n (increasing) and 161 + 2n (decreasing). -/
def ringOut (n : Fin 11) (up : Bool) : Nat := 160 + 2 * n.val + (if up then 0 else 1)

/-- The station a target port belongs to. -/
def targetStation (target : Nat) : Option (Fin 11) :=
  if h : target - 128 < 11 ∧ 128 ≤ target then some ⟨target - 128, h.1⟩
  else if h : (target - 160) / 2 < 11 ∧ 160 ≤ target then some ⟨(target - 160) / 2, h.1⟩
  else none

/-- The quadrant whose NET_QOS_AGE covers a target port: its matrix ports and its spine station (R170). -/
def targetQuad (target : Nat) : Option QuadNo :=
  if h : target / 32 < 4 then some ⟨target / 32, h⟩
  else (targetStation target).bind fun n => allQuads.find? fun q => quadStation q == n

/-- The output of station `n` that a packet for station `d` takes: one path for all of them (R162). -/
def State.stationOut (s : State) (n d : Fin 11) : Nat := if n = d then 128 + n.val else ringOut n (s.ringDir n d)

/-- May the packet wait for this target port? A station takes the packets whose path leads there, the bridge 64 bytes (R160, R162). -/
def State.reaches (s : State) (target : Nat) (p : Packet) : Bool :=
  match targetStation target with
  | some n => s.stationOut n p.dest == target
  | none => decide (p.bytes ≤ portBytes (target % 32))

/-- A packet as it leaves a target port: over the segment between S10 and S0 it moves to lane 1 (R163). -/
def packetSent (p : Packet) (target : Nat) : Packet :=
  if target = ringOut 10 true ∨ target = ringOut 0 false then { p with lane := true } else p

/-! ### Initiators of the block's own accesses (R158, R160, R161)

The service core enters the network at the bridge of Q0 (DESIGN CHOICE, log entry 100). -/

def cellIni (p : PCell) (qos : Nat) : Initiator := ⟨quadStation (quadOf p), BitVec.ofNat 5 (cellPortNo p), qos⟩
def engineIni (q : QuadNo) (qos : Nat) : Initiator := ⟨quadStation q, BitVec.ofNat 5 routePortNo, qos⟩
def stashIni (slice qos : Nat) : Initiator := ⟨quadStation ⟨slice / 2 % 4, by omega⟩, BitVec.ofNat 5 (stashPortNo slice), qos⟩
def svcIni : Initiator := ⟨quadStation 0, BitVec.ofNat 5 bridgePortNo, 15⟩

/-- The virtual channel of a request or of write data (R159). -/
def channelOf (i : Initiator) : VChan := if i.qos = 15 then .svc else .req

/-! ### The order of grants (R167, R168, R173) -/

/-- Effective QoS of a packet (R167, R168). -/
def packetEff (p : Packet) (now period : Nat) : Nat :=
  if p.svcCore && p.qos == 15 then 15
  else min 14 ((min 14 p.qos.toNat) + (now - p.entry) / period)

/-- Is `a` granted before `b` (R168)? Through traffic goes before injected traffic; no packet of a matrix port is through. -/
def packetBefore (now period : Nat) (a b : Packet) : Bool :=
  let ea := packetEff a now period
  let eb := packetEff b now period
  if ea ≠ eb then decide (eb < ea)
  else if a.entry ≠ b.entry then decide (a.entry < b.entry)
  else if a.through ≠ b.through then a.through
  else if a.init ≠ b.init then decide (a.init.toNat < b.init.toNat)
  else decide (a.seq < b.seq)

/-- An earlier packet of the same initiator to the same target on the same channel: it arrives first (R173). -/
def packetFollows (p a : Packet) : Bool :=
  a.station == p.station && a.init == p.init && a.inst == p.inst && a.dest == p.dest && a.target == p.target && a.vc == p.vc
    && decide (a.seq < p.seq)

/-- The candidates of R168: packets whose channel holds a credit, and which follow no other of the pool (R173; log entry 78). -/
def candidates (pool : List Packet) (credits : List VChan) : List Packet :=
  pool.filter fun p => credits.contains p.vc && !(pool.any fun a => packetFollows p a)

def bestPacket (now period : Nat) : List Packet → Option Packet
  | [] => none
  | p :: r => match bestPacket now period r with
    | none => some p
    | some b => some (if packetBefore now period b p then b else p)

/-- What waits at a target port, in the pool or held by the initiators. -/
def waitingAt (l : List (Nat × List Packet)) (target : Nat) : List Packet := ((l.find? (·.1 = target)).map (·.2)).getD []

/-- Replaces what waits at a target port. -/
def setWaiting (l : List (Nat × List Packet)) (target : Nat) (ps : List Packet) : List (Nat × List Packet) :=
  (if ps.isEmpty then [] else [(target, ps)]) ++ l.filter (·.1 ≠ target)

/-! ### Wiquin routes (R370) -/

/-- UP ports of this instance with the links from their peer to an instance. -/
def State.wqPeers (s : State) (b : BitVec 3) : List (Fin 4 × Nat) :=
  ((List.finRange 4).filter fun w => (s.pkg.wq.get w).st == .up).map fun w =>
    (w, if (s.pkg.wq.get w).peerId = b then 0 else Config.wqLinks s.net.topo (s.pkg.wq.get w).peerId.toNat b.toNat)

/-- Candidate ports toward an instance in ascending order (R370). -/
def State.wqCands (s : State) (b : BitVec 3) : List (Fin 4) :=
  let up := s.wqPeers b
  let near := (up.filter fun x => (s.pkg.wq.get x.1).peerId == b).map (·.1)
  if !near.isEmpty then near
  else match up with
    | [x] => [x.1]
    | _ => (up.filter fun x => up.all fun y => decide (x.2 ≤ y.2)).map (·.1)

/-- The port by which a packet for a home slice of an instance leaves; control traffic takes the lowest candidate (R370). -/
def State.wqPort (s : State) (b : BitVec 3) (slice : Nat) : Option (Fin 4) :=
  let ports := s.wqCands b
  ports[slice % ports.length]?

/-- The Wiquin port by which a packet for another instance leaves the attachment of the W/X station (R365, R370). -/
def State.packetPort (s : State) (target : Nat) (p : Packet) : Option (Fin 4) :=
  if target = 128 + wxStation.val ∧ p.inst ≠ s.pins.instanceId then s.wqPort p.inst (homeSlice (paLocal p.addr.toNat)) else none

end Sys2Proof.Machine
end

