-- ==== Sys2Proof/Machine/Power.lean ====
section
/-! DEFINITION. The current-budget arbiter (R389-R395) and cell power states (R390, R396-R399) as shared operations.
Clients are numbered as R389: 0-67 DEP, 68-135 SEP, 136-203 cells, 204-207 quadrants, 208 the instance. -/

namespace Sys2Proof.Machine

def Cba.lvl (c : Cba) (n : Nat) : Nat := (c.level[n]?).getD 0
def Cba.wants (c : Cba) (n : Nat) : Nat := (c.want[n]?).getD 0
def Cba.capOf (c : Cba) (n : Nat) : Nat := ((c.cap[n]?).getD 0).toNat
def Cba.setLvl (c : Cba) (n v : Nat) : Cba := { c with level := c.level.setIfInBounds n v }
def Cba.setWant (c : Cba) (n v : Nat) : Cba := { c with want := c.want.setIfInBounds n v }

/-- Client of an engine port and of a cell (R389). -/
def portClient (e : EPort) : Nat := e.p.val + (if e.sep then 68 else 0)
def cellClient (p : PCell) : Nat := 136 + p.val
def clientPort (n : Nat) : Option EPort :=
  if h : n < 68 then some ⟨⟨n, h⟩, false⟩ else if h : n - 68 < 68 then some ⟨⟨n - 68, h⟩, true⟩ else none

/-- Levels of the quadrant and instance clients by grade (R390). -/
def quadLevel (gradeS : Bool) : Nat := if gradeS then 68 else 80
def instLevel (gradeS : Bool) : Nat := if gradeS then 80 else 112

/-- Orlith's floor F (R391). -/
def floorF (gradeS : Bool) : Nat := instLevel gradeS + 4 * quadLevel gradeS + 68 * 3

def Cba.sumOf (c : Cba) (lo n : Nat) : Nat := (List.range n).foldl (fun acc i => acc + c.lvl (lo + i)) 0
def Cba.engineSum (c : Cba) : Nat := c.sumOf 0 136
def Cba.orlSum (c : Cba) : Nat := c.sumOf 136 73
def Cba.total (c : Cba) : Nat := c.sumOf 0 209

/-- Ramp allowance of a refill: STEP, 0 acting as 1 (R395). -/
def Cba.rampStep (c : Cba) : Nat := if c.ramp = 0 then 1 else c.ramp.toNat

/-- The level client `n` reaches if it is served now: the lowest of its request, its cap, and what R391 and R392 leave. -/
def Cba.target (c : Cba) (floor n : Nat) : Nat :=
  let cur := c.lvl n
  if n < 136 then
    min (min (c.wants n) (c.capOf n)) (cur + min c.left (c.budget.toNat - floor - c.engineSum))
  else min (c.wants n) (cur + c.left)

/-- Serves one client; a raise spends allowance and raises PEAK (R392, R395). -/
def Cba.serveOne (c : Cba) (floor n : Nat) : Cba :=
  let t := c.target floor n
  if c.lvl n < t then
    let c' := { c.setLvl n t with left := c.left - (t - c.lvl n) }
    { c' with peak := max c'.peak c'.total }
  else c

/-- Serving order: Orlith's own clients ascending, then engines in the order their requests rose (R393). -/
def Cba.serving (c : Cba) : List Nat := (List.range' 136 73) ++ c.order.map (·.2)

/-- Puts a request in its place: by the ACLK in which it rose, equal ACLKs by client number (R393). -/
def insertRaise (x : Nat × Nat) : List (Nat × Nat) → List (Nat × Nat)
  | [] => [x]
  | y :: l => if x.1 < y.1 ∨ (x.1 = y.1 ∧ x.2 ≤ y.2) then x :: y :: l else y :: insertRaise x l

/-- The pending raise of a client ends. -/
def Cba.dropRaise (c : Cba) (n : Nat) : Cba := { c with order := c.order.filter (·.2 ≠ n) }

def Cba.serveAll (c : Cba) (floor : Nat) : Cba := c.serving.foldl (fun c n => c.serveOne floor n) c

/-- Engine clients whose level changed, as EP_CG_UPD pulses; `skip` is the client answered by EP_CG_ACK instead (R56). -/
def updPulses (old new : Cba) (skip : Option Nat) : List Out :=
  new.order.filterMap fun x =>
    if old.lvl x.2 < new.lvl x.2 && skip != some x.2 then (clientPort x.2).map fun e => .cgUpd e (BitVec.ofNat 12 (new.lvl x.2)) else none

/-- The arbiter has served raises: the pulses are presented (R393). -/
def State.served (s : State) (c : Cba) (skip : Option Nat) : State := { s with cba := c, outs := s.outs ++ updPulses s.cba c skip }

/-- Serves pending raises and presents the pulses (R393). -/
def State.serve (s : State) (skip : Option Nat := none) : State := s.served (s.cba.serveAll (floorF s.pins.gradeS)) skip

/-- A request as it reaches the arbiter in an ACLK: a lower level at once, a raise in its place (R392, R393). -/
def Cba.request (c : Cba) (aclk n amt : Nat) : Cba :=
  let c := (c.setWant n amt).dropRaise n
  if amt ≤ c.lvl n then c.setLvl n amt else { c with order := insertRaise (aclk, n) c.order }

/-- A client as it stood in `old`, with what it was given since back in the allowance. -/
def Cba.giveBack (c old : Cba) (n : Nat) : Cba :=
  { (((c.setWant n (old.wants n)).setLvl n (old.lvl n)).dropRaise n) with
    left := c.left + (c.lvl n - old.lvl n)
    order := match old.order.find? (·.2 == n) with | some x => insertRaise x (c.dropRaise n).order | none => (c.dropRaise n).order }

/-- Serves raises where `first` are requests of the present ACLK whose commands still wait and whose clients go first (R393): what they will
be given is kept for them. -/
def Cba.serveBehind (c : Cba) (floor aclk : Nat) (first : List (Nat × Nat)) : Cba :=
  let d := (first.foldl (fun d x => d.request aclk x.1 x.2) c).serveAll floor
  first.foldl (fun d x => d.giveBack c x.1) d

/-- Request of a cell client by power state (R390); an OFF cell on its enable path asks for the WIPING level (R397). -/
def Pwr.level : Pwr → Nat
  | .off => 0 | .ready => 1 | .wiping => 2 | .active => 2 | .draining => 2 | .bist => 3

/-- Sets a request; a lower one takes effect at once (R392), a higher one is served in the order of R393. -/
def State.askLevel (s : State) (n want : Nat) : State :=
  let c := s.cba.setWant n want
  ({ s with cba := if want ≤ c.lvl n then c.setLvl n want else c } : State).serve

/-- A cell changes its power state and its request (R390, R396). -/
def State.setPwr (s : State) (p : PCell) (w : Pwr) : State :=
  (s.modCell p fun c => { c with pwr := w }).askLevel (cellClient p) w.level

/-- An OFF cell is on its enable path while its client asks for current (R397). -/
def State.enabling (s : State) (p : PCell) : Bool := (s.cell p).pwr == .off && decide (s.cba.wants (cellClient p) ≠ 0)

/-- Enters the shutdown path (R397, R398): any cell but one that is OFF drains, also one on its enable path, whose power-up is counted in
OFF. -/
def State.shutdown (s : State) (p : PCell) : State :=
  let c := s.cell p
  if c.pwr = .off && !s.enabling p then s.askLevel (cellClient p) 0
  else if c.down then s.modCell p fun c => { c with enpend := false }
  else (s.modCell p fun c => { c with down := true, enpend := false }).setPwr p .draining

/-- Begins the enable path of a cell: an OFF cell asks for the WIPING level, a cell on its shutdown path remembers the
enable (R397, R398). -/
def State.enable (s : State) (p : PCell) : State :=
  let c := s.cell p
  if c.down then s.modCell p fun c => { c with enpend := true }
  else if c.pwr = .off then s.askLevel (cellClient p) Pwr.wiping.level
  else s

/-- Drops the level of a fenced engine port to zero and ends its pending raise (R56, R394). -/
def State.dropGrant (s : State) (e : EPort) : State :=
  let n := portClient e
  { s with cba := ((s.cba.setWant n 0).setLvl n 0).dropRaise n }

end Sys2Proof.Machine
end

