-- ==== Sys2Proof/Machine/Flags.lean ====
section
/-! DEFINITION. Every status word, flag and interrupt line that the manual derives from the state: port ready signals
(R46, R53, R60), interrupt outputs (R71), and the registers of the Register map (R425-R437) as a host read returns them. -/

namespace Sys2Proof.Machine

/-- A bit at position k of a word. -/
def bitAt (b : Bool) (k : Nat) : Nat := if b then 2 ^ k else 0

/-- A word of the control bus from a number. -/
def w32 (n : Nat) : Word := BitVec.ofNat 32 n

/-! ### Ports -/

/-- Commands that are taken and wait to start (R53). -/
def Port.waiting (q : Port) : Nat := (q.cmds.filter fun c => !c.started).length

/-- A Tumbler stop, or the stop of an instance that an INSTFATAL has ended (R60, R293). -/
def State.stopped (s : State) : Bool := s.tmb.stop || s.pins.fatal

/-- A stop under R60 or R385 that lowers EP_CMD_READY. -/
def State.cmdStop (s : State) : Bool := s.stopped || s.glob.halt || s.step.stop

/-- Before start-up is over no port exists to its partner (R400-R402). -/
def State.asleep (s : State) : Bool := !s.pins.rstN || s.pins.wiping || s.pins.held

/-- EP_RRQ_READY and EP_WR_READY (R46). -/
def State.ioReady (s : State) (e : EPort) : Bool :=
  (s.cell e.p).pwr == .active && !(s.port e).fenced && !s.stopped && !s.asleep

/-- EP_CMD_READY of a port that is not fenced (R53, R60, R385). -/
def State.cmdReady (s : State) (e : EPort) : Bool :=
  (s.cell e.p).pwr == .active && !(s.port e).fenced && !s.cmdStop && !s.asleep && decide ((s.port e).waiting < 32)

/-! ### Generation references (R250, R252) -/

def Gen.liveCtr (g : Gen) : BitVec 16 := if g.live then g.genB else g.genA
def Gen.otherCtr (g : Gen) : BitVec 16 := if g.live then g.genA else g.genB
def Gen.setOther (g : Gen) (c : BitVec 16) : Gen := if g.live then { g with genA := c } else { g with genB := c }
def Gen.base (g : Gen) (slotB : Bool) : Nat := if slotB then g.baseB.toNat else g.baseA.toNat

/-- Stash entries, marks and retired entries included, that reference a generation of a tensor (R234, R236, R250). -/
def State.refs (s : State) (idx : BitVec 12) (ctr : BitVec 16) : Nat :=
  (s.stash.entries.filter fun x => x.gen == some (idx, ctr)).length

def State.gen? (s : State) (idx : BitVec 12) : Option Gen := s.gens.find? fun g => g.idx == idx
def State.modGen (s : State) (idx : BitVec 12) (f : Gen → Gen) : State :=
  { s with gens := s.gens.map fun g => if g.idx = idx then f g else g }

def GState.code : GState → Nat
  | .steady => 0 | .genwait => 1 | .writing => 2 | .ready => 3

/-! ### Instance words -/

def gradeBits (s : State) : Nat := if s.pins.gradeS then 1 else 0

/-- DCLASS (R279). -/
def State.dclass (s : State) : BitVec 16 :=
  BitVec.ofNat 16 (s.pins.stepping.toNat * 4096 + gradeBits s * 1024 + s.glob.numrev.toNat)

def Life.code : Life → Nat
  | .blank => 0 | .test => 1 | .provisioned => 2 | .service => 3 | .returned => 4

def Skew.code : Skew → Nat
  | .free => 0 | .acquire => 1 | .locked => 2 | .holdover => 3

def Pwr.code : Pwr → Nat
  | .off => 0 | .wiping => 1 | .bist => 2 | .ready => 3 | .active => 4 | .draining => 5

def WqState.code : WqState → Nat
  | .down => 0 | .training => 1 | .up => 2 | .fenced => 3 | .failed => 4

def MState.code : MState → Nat
  | .idle => 0 | .busy => 1 | .done => 2

/-- Bytes of stash that an entry occupies (R231). -/
def SEntry.size (x : SEntry) : Nat := if x.mark then 0 else ceilDiv (x.vrows * x.cfg.bytes) 256 * 256

def State.sramUsed (s : State) : Nat := (s.stash.entries.filter fun x => !x.spilled && x.placed).foldl (fun a x => a + x.size) 0
def State.spillUsed (s : State) : Nat := (s.stash.entries.filter fun x => x.spilled).foldl (fun a x => a + x.size) 0

/-- A put waits under SPILL (R244, R246). -/
def State.putWaits (s : State) : Bool :=
  allPorts.any (fun e => (s.port e).cmds.any fun c => c.op == opSTASHPUT && c.waitSince.isSome)
  || s.running.any fun r => dKind r.desc == kPUT && r.waitSince.isSome

/-- STASH_USE (R244). SRAM_64K is rounded up to its unit as SPILL_MIB is, of which alone R244 says so (DESIGN CHOICE, log entry 99). -/
def stashUse (s : State) : Word := w32 (min 0xFFFF (ceilDiv s.spillUsed (2 ^ 20)) * 65536 + ceilDiv s.sramUsed 65536 % 2048)
def stashSts (s : State) : Word := w32 (bitAt s.putWaits 31 + s.stash.peak % 2 ^ 17)

/-- GEN_STS (R256). -/
def genSts (s : State) : Word :=
  let w := (s.gens.filter fun g => g.st == .genwait).map fun g => g.idx.toNat
  let any := s.rt.kicks.any fun k => k.genwait.isSome
  w32 (bitAt any 31 + (if any then w.foldl min (w.headD 0) else 0) * 65536 + s.step.flipped)

/-- TMB_STS (R300). -/
def tmbSts (s : State) : Word :=
  w32 (bitAt s.tmb.hold 31 + bitAt s.tmb.stop 30 + bitAt s.tmb.armed 29 + s.tmb.cause.toNat * 65536 + s.tmb.voids.toNat)

def parSts (s : State) : Word := w32 (bitAt s.par.stale 31 + bitAt s.par.rebuilding 30)

def ckptSts (s : State) : Word :=
  w32 (bitAt s.ckpt.armed 31 + bitAt s.ckpt.draining 30 + bitAt s.ckpt.done 29 + bitAt s.ckpt.fail 28 + s.ckpt.left)

def wqSts (w : Wq) : Word :=
  w32 (w.st.code * 2 ^ 29 + bitAt w.leader 28 + bitAt w.reversed 27 + w.peerId.toNat * 2 ^ 24 + w.peerPort.toNat * 2 ^ 22
    + w.replays.toNat)

def stepCtl (s : State) : Word := w32 (bitAt s.step.paused 31 + bitAt s.step.pausePend 30 + s.step.ndet)

def syncCtl (s : State) : Word := w32 (s.clk.stepUs.toNat * 256 + bitAt s.clk.load 3 + bitAt s.clk.source 2 + bitAt s.clk.en 0)

def gtcSkew (s : State) : Word :=
  w32 (s.clk.skew.code * 2 ^ 30 + s.clk.pkgSkew.toNat * 65536 + s.clk.clErr.toNat)

def digestCtl (s : State) : Word :=
  w32 (s.dig.peer.toNat * 65536 + bitAt s.dig.mismatch 15 + bitAt s.dig.loss 14 + s.dig.period.toNat * 256
    + s.dig.grain.toNat * 4 + bitAt s.dig.action 1 + bitAt s.dig.en 0)

/-- MB_STATUS; RESULT of a presented response lies in bytes 10-11 of its buffer (R349, R352). -/
def mbStatus (m : Mbox) : Word :=
  w32 (m.st.code * 2 ^ 30 + m.dropped.toNat * 65536 + (if m.st == .done then bf m.rsp 80 16 else 0))

/-- Unread records (R334). -/
def Log.unread (l : Log) : Nat := (l.head - l.tail).toNat

def pntCtl (s : State) : Word :=
  w32 (bitAt s.log.coal 31 + bitAt (s.log.flush.isSome && !s.pins.preRstN) 30 + s.log.table.length % 512 * 65536 + bitAt s.log.flushEn 0)

/-- Words of a ring slot (R334). -/
def State.ringWord (s : State) (n : Nat) : Word :=
  match s.log.ring.find? (·.1 = n / 8 % 1024) with
  | some r => r.2.extractLsb' (32 * (n % 8)) 32
  | none => 0

/-! ### Interrupt outputs (R71) -/

/-- IRQ_HOST. -/
def State.irqHost (s : State) : Bool := s.glob.irqSts &&& s.glob.irqEn != 0

/-- Physical cells of a quadrant. -/
def cellsOf (q : QuadNo) : List PCell := allCells.filter fun p => quadOf p == q

/-- A stop under R60 in force on the engine ports of a quadrant: ports of the job, which are those of mapped cells. -/
def State.quadStop (s : State) (q : QuadNo) : Bool :=
  (s.stopped || s.glob.halt) && (cellsOf q).any fun p => (s.cell p).logical.isSome

/-- IRQ_SEQ[q]. -/
def State.irqSeq (s : State) (q : QuadNo) : Bool :=
  s.quadStop q || (cellsOf q).any fun p => (s.cell p).dep.fenced || (s.cell p).sep.fenced

/-! ### Cells and quadrants -/

def fenceWindow (s : State) (kind : Nat) : Nat := 2 ^ (((s.job.fence[kind]?).getD (16, 20)).2)
def fenceLimit (s : State) (kind : Nat) : Nat := ((s.job.fence[kind]?).getD (16, 20)).1

/-- Violations counted within the present window (R75). -/
def State.recentViols (s : State) (kind : Nat) (l : List Tick) : List Tick :=
  l.filter fun t => decide (s.clk.gtc.toNat < t.toNat + fenceWindow s kind)

/-- CELL_STS (R436). -/
def cellSts (s : State) (p : PCell) : Word :=
  let c := s.cell p
  w32 (bitAt c.logical.isSome 31 + bitAt c.spare 30 + bitAt (c.retired && s.glob.geo.get 0 != 0) 29 + bitAt c.filling 28 + bitAt c.dep.fenced 27
    + bitAt c.sep.fenced 26 + bitAt (!c.dep.cmds.isEmpty) 25 + bitAt (!c.sep.cmds.isEmpty) 24
    + satTo 0xFF (s.recentViols 0 c.dep.viols).length * 65536 + satTo 0xFF (s.recentViols 0 c.sep.viols).length * 256)

def cellPwr (c : Cell) : Word := w32 (bitAt c.enpend 31 + bitAt c.down 30 + c.pwr.code)

/-- CELL_LOGICAL (R437). -/
def cellLogical (s : State) (p : PCell) : Word :=
  match (s.cell p).logical with
  | some l => w32 (s.pins.instanceId.toNat * 64 + l.toNat)
  | none => 0x80000000

/-- TF_INUSE (R85). -/
def tfInuse (c : Cell) : Word := w32 ((List.finRange 24).foldl (fun a t => a + bitAt (c.tiles.get t).inUse t.val) 0)

/-- TF_TCFG_LO (R81). -/
def tcfgLo (t : Tile) : Word :=
  match t.cfg with
  | some c => w32 (2 ^ 31 + bitAt c.layout 24 + c.fmt.toNat * 65536 + c.rb.toNat * 256 + c.rm1.toNat)
  | none => 0

/-- TF_TCFG_HI (R82). -/
def tcfgHi (s : State) (p : PCell) (t : Fin 24) : Word :=
  let n := BitVec.ofNat 5 t.val
  w32 (bitAt (s.busyW p n) 31 + bitAt (s.busyR p n) 30 + ((s.cell p).tiles.get t).valid % 256 * 65536)

/-- Registers of a cell that is OFF, WIPING or BIST read zero, but for those held in the quadrant (R70, R435). -/
def Pwr.answers : Pwr → Bool
  | .off => false | .wiping => false | .bist => false | _ => true

/-- A cell register at a cell offset, none where no register lies (R434). -/
def cellReg (s : State) (p : PCell) (o : Nat) : Option Word :=
  let c := s.cell p
  let gate (w : Word) : Option Word := some (if c.pwr.answers then w else 0)
  if o = 0 then some (cellSts s p)
  else if o = 4 then some (cellPwr c)
  else if o = 8 then some (cellLogical s p)
  else if o = 0x10 then gate (tfInuse c)
  else if o = 0x14 then gate c.rowStart
  else if o = 0x18 then gate c.tfFault
  else if o < 0x100 then none
  else if o < 0x1C0 then
    if h : (o - 0x100) / 8 < 24 then
      let t : Fin 24 := ⟨(o - 0x100) / 8, h⟩
      if o % 8 = 0 then gate (tcfgLo (c.tiles.get t)) else if o % 8 = 4 then gate (tcfgHi s p t) else none
    else none
  else if o < 0x400 then none
  else if o < 0xC00 then if o % 4 = 0 then gate ((c.rv[(o - 0x400) / 4]?).getD 0) else none
  else none

/-- QD_STS (R433). -/
def qdSts (s : State) (q : QuadNo) : Word :=
  let f := (cellsOf q).foldl (fun a p => a + (s.cell p).dep.fenced.toNat + (s.cell p).sep.fenced.toNat) 0
  w32 (bitAt (s.irqSeq q) 31 + bitAt (s.quadStop q) 30 + f * 65536 + (s.quad q).runs.length % 128 * 256
    + ((cellsOf q).filter fun p => (s.cell p).pwr == .active).length)

/-- QD_JACK (R304). -/
def qdJack (s : State) (q : QuadNo) : Word :=
  let sp := (List.range 17).foldl (fun a n =>
    a + (match allCells[17 * q.val + n]? with | some p => bitAt (s.cell p).spare n | none => 0)) 0
  match s.fills.cur with
  | some f => if quadOf f.p = q then w32 (2 ^ 31 + f.stage.toNat * 2 ^ 28 + f.p.val * 2 ^ 17 + sp) else w32 sp
  | none => w32 sp

def qosAge (s : State) (q : QuadNo) : Word := w32 ((s.quad q).maxwait.toNat * 65536 + 0xE000 + (s.quad q).period.toNat)

def decerrLo (x : Quad) : Word := match x.decerr with | some d => d.2.setWidth 32 | none => 0
def decerrHi (x : Quad) : Word := match x.decerr with | some d => w32 (2 ^ 31 + d.1.toNat * 2 ^ 23 + bf d.2 32 20) | none => 0

/-- A quadrant register (R432). -/
def quadReg (s : State) (q : QuadNo) (o : Nat) : Option Word :=
  if o = 0 then some (qdSts s q)
  else if o = 4 then some (qdJack s q)
  else if o = 0x10 then some (qosAge s q)
  else if o = 0x18 then some (decerrLo (s.quad q))
  else if o = 0x1C then some (decerrHi (s.quad q))
  else if o = 0x40 then some (s.quad q).idxskip
  else none

/-! ### Geometry Table (R38) -/

/-- Engine ports counted in GEO_ENGINES.PRESENT (R38). -/
def State.enginePresent (s : State) (e : EPort) : Bool :=
  !(s.port e).fenced && !(s.cell e.p).retired && (s.port e).idOk

/-- CANON of an identity word (R57). -/
def canonBit (w : BitVec 64) : Bool := w.getLsbD 59

/-- Joined instances' DCLASS differing from the master's (R38); own DCLASS is in the register. -/
def State.dclassOf (s : State) (i : Fin 8) : BitVec 16 :=
  if i.val = s.pins.instanceId.toNat then s.dclass else match s.pkg.words.get i with | some w => w.extractLsb' 48 16 | none => s.dclass

def State.masterDclass (s : State) : BitVec 16 := s.dclassOf ⟨s.pkg.master.toNat, s.pkg.master.isLt⟩

def State.dclassMismatch (s : State) : Bool :=
  (List.finRange 8).any fun i => s.pkg.present.getLsbD i.val && s.dclassOf i != s.masterDclass

/-- Every engine port of every mapped cell of this instance that is not fenced declares CANON (R38, R278). -/
def State.ownCanon (s : State) : Bool :=
  s.mapped.all fun p => [(s.cell p).dep, (s.cell p).sep].all fun q => q.fenced || canonBit q.idNow

/-- ALL_CANON (R38): every engine port of the package declares CANON, those of other instances as these report them (log
entry 6). -/
def State.allCanon (s : State) : Bool :=
  s.ownCanon && (List.range 8).all fun i => i == s.pins.instanceId.toNat || !(s.pkg.present.getLsbD i) || s.pkg.canon.getLsbD i

def State.detAllowed (s : State) : Bool := s.allCanon && !s.dclassMismatch

/-- A logical cell without a working physical cell (R38). -/
def State.degraded (s : State) : Bool := decide (s.mapped.length < 64)

/-- Am I the master of the settled package (R373)? -/
def State.isMaster (s : State) : Bool := s.pkg.settled && s.pkg.master == s.pins.instanceId

def State.jacks (s : State) (q : QuadNo) : Nat := min 15 ((cellsOf q).filter fun p => (s.cell p).spare).length

/-- The words of the Geometry window for an update sequence number (R38). -/
def State.geoWords (s : State) (seq : Word) : List Nat :=
  let jk (i : Nat) : Nat := match allQuads[i]? with | some q => s.jacks q | none => 0
  let ports := allPorts.filter s.enginePresent
  let stack (m : Fin 6) : Nat :=
    let x := s.msps.get m
    if x.capGb = 0 then 0 else match x.ident with | w :: _ => w.toNat | [] => 0
  [ seq.toNat,
    0x0001007C,
    s.pkg.present.toNat * 65536 + ((List.range 8).filter fun i => s.pkg.present.getLsbD i).length % 16 * 4096
      + s.pkg.master.toNat * 256 + bitAt s.isMaster 4 + s.pins.instanceId.toNat,
    gradeBits s * 2 ^ 28 + 400 * 65536 + 2 * 4096 + s.pins.aclkMHz.toNat,
    68 * 2 ^ 24 + s.mapped.length * 65536 + 17 * 256 + 4,
    jk 3 * 4096 + jk 2 * 256 + jk 1 * 16 + jk 0,
    bitAt s.dclassMismatch 3 + bitAt s.allCanon 2 + bitAt s.detAllowed 1 + bitAt s.degraded 0,
    512 * 65536 + 16 * 256 + 32,
    256 * 65536 + 8 * 256 + 32,
    256 * 65536 + 8 * 256 + 32,
    4096 * 65536 + 16 * 256 + 16,
    12288 * 65536 + 8,
    64 * 65536 + 512,
    4096 * 65536 + 16384,
    12 * 65536 + 6 * 256 + s.mspSet.foldl (fun a m => a + 2 ^ m.val) 0,
    s.memCap % 2 ^ 32,
    s.memCap / 2 ^ 32,
    (List.finRange 2).foldl (fun a x => a + bitAt (s.net.xsps.get x).up (16 + x.val)) 0
      + (List.finRange 4).foldl (fun a w => a + bitAt ((s.pkg.wq.get w).st == .up) (12 + w.val)) 0 + 4 * 256 + 2,
    32 * 2 ^ 24 + 8 * 65536 + 16 * 256 + 16,
    8 * 65536 + 4 * 256 + 4,
    2 ^ 17 + 2 ^ 16 + 52 * 256 + 48,
    16 * 256 + 6,
    1024 * 65536 + 256,
    (allPorts.filter fun e => (s.port e).fenced).length * 65536
      + (ports.filter fun e => canonBit (s.port e).idNow).length * 256 + ports.length,
    s.masterDclass.toNat * 65536 + s.dclass.toNat ]
  ++ (List.finRange 6).map stack

/-- Firmware writes the window with the next even sequence number, never zero (R39, R40). -/
def State.geoWrite (s : State) : State :=
  let seq : Word := let n := s.glob.geo.get 0 + 2; if n = 0 then 2 else n
  let ws := s.geoWords seq
  { s with glob := { s.glob with geo := Vector.ofFn fun i : Fin 31 => w32 ((ws[i.val]?).getD 0) } }

/-- A rewrite after a change (R39): once the table is built, the window and a GEOMETRY Pennant. `mb` names the mailbox whose command
caused it, 7 stands for firmware itself (R328). -/
def State.geoRewriteBy (s : State) (mb : Option Nat) : State :=
  if s.glob.geo.get 0 = 0 then s
  else
    let s := s.geoWrite
    s.report lvlFirmware (BitVec.ofNat 16 (mb.getD 7)) clsGeometry .info (detailOf (b32 (s.glob.geo.get 0).toNat))

def State.geoRewrite (s : State) : State := s.geoRewriteBy none

end Sys2Proof.Machine
end

