-- ==== Sys2Proof/Machine/Tumbler.lean ====
section
/-! DEFINITION. Voids, recovery hold, fences, retirement and Jack fills as shared operations (R58-R60, R75, R294-R305). -/

namespace Sys2Proof.Machine

/-! ### Messages out (R66, R412) -/

/-- VSHARD_CFG.CHIP and its N_LOG2, V_LOG2 (R267). -/
def State.chip (s : State) : BitVec 16 := s.glob.vshard.extractLsb' 16 16
def State.nLog2 (s : State) : Nat := bf s.glob.vshard 8 5
def State.vLog2 (s : State) : Nat := bf s.glob.vshard 0 5

/-- The XSP a message leaves by: XSP0 unless it is fenced (R75; the manual gives no other rule, log entry 25). -/
def State.txPort (s : State) : Nat := if (s.net.xsps.get 0).fenced then 1 else 0

/-- QoS of a message by its type (R66, R166): 7 of gradient partials, 5 of parity deltas, else 15. -/
def msgQos (type : Byte) : Nat := if type = 0x01 then 7 else if type = 0x02 then 5 else 15

/-- Sends one message that names a step; SEQ counts this instance's messages modulo 2^29 (R412). An instance with both station ports
fenced reaches the cluster no longer (R75). -/
def State.sendOf (s : State) (step : BitVec 48) (type flags : Byte) (dst vshard stream : BitVec 16) (payload : List Byte) : State :=
  if s.net.xsps.all (·.fenced) then s
  else
    let msg : XMsg :=
      { type := type, flags := flags, src := s.chip, dst := dst, vshard := vshard, step := step, stream := stream,
        length := BitVec.ofNat 16 payload.length, seq := s.pins.instanceId ++ s.net.seq, pcrc := crc32c payload,
        rsvdZero := true, framed := true, beats := ceilDiv (32 + payload.length) 512, payload := payload }
    { s with outs := s.outs ++ [.xsp s.txPort (msgQos type) msg], net := { s.net with seq := s.net.seq + 1 } }

/-- Sends one message of the step in progress. -/
def State.send (s : State) (type flags : Byte) (dst vshard stream : BitVec 16) (payload : List Byte) : State :=
  s.sendOf s.step.count type flags dst vshard stream payload

/-- Pads a payload with zeros to a multiple of 32 bytes (R65). -/
def padTo32 (bs : List Byte) : List Byte := bs ++ List.replicate (ceilDiv bs.length 32 * 32 - bs.length) 0

/-- Payload of a STEPVOID message (R296). -/
def voidPayload (replay notBefore : Nat) (voids : BitVec 16) (cause : Byte) (hold : Bool) : List Byte :=
  bytesOf 8 replay ++ bytesOf 8 notBefore ++ b16 voids.toNat ++ [cause] ++ b8 hold.toNat ++ List.replicate 12 0

def State.sendVoid (s : State) (replay notBefore : Nat) (cause : Byte) (hold : Bool) : State :=
  s.send 0x04 0 0xFFFF 0 0 (voidPayload replay notBefore s.tmb.voids cause hold)

/-! ### Step records (R281) -/

/-- Changes the open record, the newest one. -/
def State.modRec (s : State) (f : StepRec → StepRec) : State :=
  match s.step.records with
  | r :: l => { s with step := { s.step with records := f r :: l } }
  | [] => s

/-! ### Cleanup of a void (R60, R103, R126, R207, R226, R249, R257, R280, R292, R297) -/

/-- Kicks that a void leaves waiting: those carried into the step in progress that have not started (R386). -/
def State.keptKicks (s : State) : List Kick := s.rt.kicks.filter fun k => s.rt.carried.any fun x => x.seq == k.seq

/-- The RKICK of such a kick waits on. -/
def State.keepCmd (s : State) (c : Cmd) : Bool :=
  c.op == opRKICK && (match c.kick with | some k => s.keptKicks.any fun x => x.seq == k | none => false)

/-- Completes with UNCORR every outstanding command of a port but the carried kicks that still wait (R52, R60). -/
def State.voidPort (s : State) (e : EPort) : State :=
  let cmds := (s.port e).cmds
  let s := (cmds.filter fun c => !s.keepCmd c).foldl
    (fun s c => s.present e c.op c.tag c.tileNo.toNat .uncorr (s.step.count.setWidth 32) (match c.ls with | some p => p.next | none => 0)) s
  s.modPort e fun q => { q with cmds := cmds.filter s.keepCmd }

/-- Releases every tile, discards resume records, clears TF_ROWSTART.VALID and RV0-RV3 (R103, R126). No read looks behind a result write
of the voided step. -/
def Cell.voided (c : Cell) : Cell :=
  { c with
    tiles := c.tiles.map fun t => { t.release with resume := none }
    rowStart := c.rowStart &&& 0x7FFFFFFF
    rv := Vector.replicate 512 0
    dep := { c.dep with recent := [] }
    sep := { c.sep with recent := [] }
    sepRv := [] }

/-- Rolls the stash back to the boundary where the step began (R249). -/
def Stash.rollback (x : Stash) : Stash :=
  { x with entries := (x.entries.filter fun e => !e.isNew).map fun e => { e with retired := false, getting := false } }

/-- A tensor returns to STEADY (R257); one for which a carried kick waits on stays in GENWAIT (R255, R386). -/
def Gen.voided (g : Gen) (waits : Bool) : Gen :=
  if g.st = .steady then { g with parts := 0 }
  else { g.setOther (g.liveCtr - 1) with st := if waits then .genwait else .steady, parts := 0 }

/-- The tensor whose next slot a descriptor writes (R255). -/
def writesNext (d : Desc) : Option (BitVec 12) := if dDstEp d = epGEN then some (epGenIdx (dstWord d)) else none

/-- Discards own digest entries of the step that are not matched and resets the streams (R292). -/
def Dig.voided (d : Dig) (step : BitVec 48) : Dig :=
  { d with streams := [], own := d.own.filter (·.step ≠ step), toSend := d.toSend.filter (·.step ≠ step) }

/-- Rows in the read pipeline of a stopped port are presented with status VOID (R60). -/
def voidRd (aclk : Nat) (o : Out) : Out :=
  match o with
  | .rd e due a b _ _ _ _ => if aclk < due then .rd e due a b 3 0 (if e.sep then 0 else 3) 0 else o
  | _ => o

/-- Structure code of a file in layout M (R331). -/
def fileStruct (t : TileNo) : Nat := if t.toNat < 16 then 1 else 2

/-- Word index of a lane of a row slot within its file (R331): the entry of R77 in the bank that R78 gives the lane, for a tile of `w`
lanes, with eight banks of four words to an entry (R79; log entry 27). -/
def rowWord (w : Nat) (t : TileNo) (row lane : Nat) : Nat :=
  ((if t.toNat < 16 then t.toNat else t.toNat - 16) * 128 + row) * 32 + 4 * ((lane + row * w) % 8)

/-- Lanes of the rows of a tile, those of a full row where it is not configured. -/
def State.tileLanes (s : State) (p : PCell) (t : TileNo) : Nat :=
  match ((s.cell p).tile? t).bind (·.cfg) with | some k => k.rb.toNat + 1 | none => 8

/-- Detail of a record that names a row of a file (R331). -/
def State.detRow (s : State) (p : PCell) (t : TileNo) (row : RowNo) : BitVec 96 :=
  s.detM (rowWord (s.tileLanes p t) t row.toNat 0) (fileStruct t)

/-- Records a VOID read status of an operand request: TF_FAULT, and a Pennant that names cell, tile and row, but for a row that waits for
its test (R47, R97, R98). A status is no fault code: its record carries UNCORR (log entry 72). -/
def State.noteVoid (s : State) (e : EPort) (req : BitVec 12) (status : BitVec 2) : State :=
  let t : TileNo := req.extractLsb' 7 5
  let row : RowNo := req.extractLsb' 0 7
  if status ≠ 3 then s
  else
    let s := s.tfFault e t.toNat .uncorr 0 row.toNat
    if (s.cell e.p).erred.contains (t, row) then s else s.report lvlCell (srcCell e.p) 0x0E .stepvoid (s.detRow e.p t row)

/-- The read pipelines at a stop: their rows are recorded and carry VOID (R60, R98). -/
def State.voidReads (s : State) : State :=
  let s := s.outs.foldl (fun t o => match o with
    | .rd e due a b _ _ _ _ => if s.clk.aclk < due then (t.noteVoid e a 3).noteVoid e b (if e.sep then 0 else 3) else t
    | _ => t) s
  { s with outs := s.outs.map (voidRd s.clk.aclk) }

/-- Result of a ROUTE_KICK whose kick a void has dropped (R207, R353). -/
def voidMbox (kept : List Nat) (m : Mbox) : Mbox :=
  { m with cur := m.cur.map fun r =>
      match r.wait with
      | .kick k => if kept.contains k then r else { r with resp := some ⟨0x0011, 0x0E, []⟩, wait := .none }
      | _ => r }

/-- Everything a voiding instance drops at its stop. Kicks that are carried keep waiting, and with them the tensor in GENWAIT (R386). -/
def State.voidCleanup (s : State) : State :=
  let s := ((allPorts.filter fun e => (s.cell e.p).logical.isSome).foldl State.voidPort s).voidReads
  let kicks := s.keptKicks.map fun k => { k with granted := false }
  { s with
    cells := s.cells.map fun c => if c.logical.isSome then c.voided else c
    quads := s.quads.map fun q => { q with runs := [], idxskip := 0 }
    rt := { s.rt with kicks := kicks, overlap := [], accum := [] }
    stash := s.stash.rollback
    gens := s.gens.map fun g => g.voided (kicks.any fun k => k.genwait.isSome && writesNext k.desc == some g.idx)
    par := { s.par with okIdx := [] }
    dig := s.dig.voided s.step.count
    merge := s.merge.filter (·.step ≠ s.step.count)
    mbs := s.mbs.map (voidMbox (kicks.map (·.seq)))
    step := { s.step with ndet := 0, stop := false, decided := none } }

/-! ### Beginning a void (R294-R299) -/

def State.maxVoids (s : State) : Nat := if bf s.glob.tmbCfg 24 8 = 0 then 1 else bf s.glob.tmbCfg 24 8

/-- Replay lead in ticks: below 2,000 µs acts as 2,000 (R300). -/
def State.leadTicks (s : State) : Nat := max 2000 (bf s.glob.tmbCfg 0 24) * 1000

/-- Fills queued or under way (R303). -/
def State.fillCount (s : State) : Nat := s.fills.queue.length + (if s.fills.cur.isSome then 1 else 0)

/-- NOT_BEFORE of this instance's request: stop tick + 10,000,000 × F, none without a fill (R296, R303). -/
def State.notBefore (s : State) : Nat := if s.fillCount = 0 then 0 else s.tmb.stopTick.toNat + 10000000 * s.fillCount

/-- A void count one higher; it saturates as every counter that R409 does not let wrap. -/
def oneMore (v : BitVec 16) : BitVec 16 := BitVec.ofNat 16 (satTo 0xFFFF (v.toNat + 1))

/-- Recovery hold (R299): the package stands as paused at the boundary that began the voided step, with VOIDS one higher
when a step was in progress, and the record of that step is open with GTC_BEGIN zero as R284 has it. A pause that was asked for has come
about (log entry 73). The Tumbler stop ends here, since no replay tick ends it: EP_RRQ_READY and EP_WR_READY rise at the entry into the
hold, where R60 names the replay tick only (DESIGN CHOICE, log entry 73). -/
def State.enterHold (s : State) : State :=
  if s.tmb.hold then s
  else
    let was := s.step.running
    let s := if was then s.modRec fun r => { r with voids := oneMore r.voids, opened := 0 } else s
    { s with
      tmb := { s.tmb with hold := true, holdReq := false, armed := false, stop := false,
                          voids := if was then oneMore s.tmb.voids else s.tmb.voids }
      step := { s.step with running := false, paused := true, pausePend := false }
      glob := { s.glob with halt := true } }

/-- A master announces the replay tick to its package (R382). -/
def State.tellReplay (s : State) (r : Nat) : State := if s.leadsPackage then s.out (.wiquin none 11 (BitVec.ofNat 64 r)) else s

/-- The leader sets or moves R for the pair and announces it (R295). -/
def State.leaderAnnounce (s : State) (notBefore : Nat) : State :=
  let t := s.tmb.taken.getD s.clk.gtc
  let r := max (t.toNat + s.leadTicks) (max notBefore s.tmb.notBefore.toNat)
  let s := { s with tmb := { s.tmb with taken := some t, notBefore := BitVec.ofNat 64 (max notBefore s.tmb.notBefore.toNat),
                                        armed := true, replay := BitVec.ofNat 64 r } }
  (s.sendVoid r 0 s.tmb.cause false).tellReplay r

/-- This package is the void leader (R295). -/
def State.isLeader (s : State) : Bool := s.isMaster && s.chip == 0

/-- The leader takes a request (R295): a hold is announced for one that asks for it, and nothing after it; a later NOT_BEFORE moves R
until 1,000,000 ticks before it. -/
def State.leaderTake (s : State) (nb : Nat) (hold : Bool) : State :=
  if hold then s.sendVoid 0xFFFFFFFFFFFFFFFF 0 s.tmb.cause true
  else if s.tmb.holdReq then s
  else if s.tmb.armed && (decide (s.tmb.replay.toNat < s.clk.gtc.toNat + 1000000) || decide (nb ≤ s.tmb.notBefore.toNat)) then s
  else s.leaderAnnounce nb

/-- NOT_BEFORE of a package's request: the largest value of its instances (R303). The leader keeps what it has received apart. -/
def State.pkgNotBefore (s : State) : Nat := if s.isLeader then s.notBefore else max s.notBefore s.tmb.notBefore.toNat

/-- On a non-master, the trigger goes to the master over Wiquin (R294): its cause with the wish for a hold in bit 8, and NOT_BEFORE. -/
def State.tellMaster (s : State) : State :=
  let w := s.wqPort s.pkg.master 0
  let s := s.out (.wiquin w 1 (BitVec.ofNat 64 (s.tmb.cause.toNat + bitAt s.tmb.holdReq 8)))
  if s.notBefore = 0 then s else s.out (.wiquin w 9 (BitVec.ofNat 64 s.notBefore))

/-- Sends a STEPVOID request for the pair (R295). The leader takes its own request. -/
def State.request (s : State) : State :=
  if !s.isMaster then s.tellMaster
  else
    let s := s.sendVoid 0 s.pkgNotBefore s.tmb.cause s.tmb.holdReq
    if s.isLeader then s.leaderTake s.notBefore s.tmb.holdReq else s

/-- Stops the step in progress: a trigger before the replay joins the void in progress, and with no step in progress
nothing is voided (R294). The master stops every other instance of its package. VOIDLOOP asks for a hold (R299). -/
def State.stopStep (s : State) (cause : Byte) : State :=
  if !s.step.running || s.tmb.stop then s
  else
    let loop := decide (s.maxVoids ≤ s.tmb.voids.toNat + 1)
    let s := s.voidCleanup
    let s := { s with tmb := { s.tmb with stop := true, armed := false, cause := cause, cleanup := true, stopTick := s.clk.gtc,
                                          since := s.clk.gtc, taken := none, notBefore := 0,
                                          holdReq := s.tmb.holdReq || loop } }
    let s := if s.leadsPackage then s.out (.wiquin none 6 (cause.setWidth 64)) else s
    if loop then s.report lvlInstance (s.pins.instanceId.setWidth 16) clsVoidloop .stepvoid (s.detC 0xFFFF) else s

/-- A package begins a void (R294). -/
def State.beginVoid (s : State) (cause : Byte) : State :=
  if !s.step.running || s.tmb.stop then s else (s.stopStep cause).request

/-- An event of R299 asks for recovery hold instead of replay. -/
def State.wantHold (s : State) (cause : Byte) : State :=
  if s.tmb.hold then s
  else
    let s := { s with tmb := { s.tmb with holdReq := true } }
    if !s.step.running then s.enterHold
    else if s.tmb.stop then (let s := s.request; if s.tmb.cleanup then s else s.enterHold)
    else (s.stopStep cause).request

/-- An INSTFATAL stops the instance; the package treats itself as lost, stops its heartbeats and holds (R293, R299). -/
def State.instFatal (s : State) (cause : Byte) : State :=
  { s with pins := { s.pins with fatal := true }, job := { s.job with hbOn := false } }.wantHold cause

/-- UNCORR of R34 with its detail in layout M (R293). -/
def State.uncorr (s : State) (level : BitVec 4) (src : BitVec 16) (addr struct : Nat) : State :=
  (s.report level src 0x0E .stepvoid (s.detM addr struct)).beginVoid 0x01

/-! ### Held runs (R191) -/

/-- Tile that a run's fault record names: the failing tile of DETAIL, else none (0x1F, R331). -/
def runTile (code : Code) (detail : Word) : Nat :=
  if code = .tshape || code = .tfmt || code = .tnotvalid then detail.toNat % 32 else 0x1F

/-- Replaces a run of an engine, found by its kick number. -/
def State.putRun (s : State) (q : QuadNo) (r : Run) : State :=
  s.modQuad q fun x => { x with runs := x.runs.map fun y => if y.seq = r.seq then r else y }

def State.dropRun (s : State) (q : QuadNo) (seq : Nat) : State :=
  s.modQuad q fun x => { x with runs := x.runs.filter (·.seq ≠ seq) }

/-- The Pennant of a held run in layout A and the TF_FAULT record of a run kicked from a port (R191, R331). -/
def State.heldRecord (s : State) (q : QuadNo) (r : Run) (code : Code) (detail : Word) : State :=
  let l : BitVec 16 := match r.src with | .port e _ => s.pkgLogical e.p | _ => 0xFFFF
  let tag : Nat := match r.src with | .port _ t => t.toNat | _ => 0
  s.report lvlRoute (srcRoute q r.route) code.byte .info
    (detA (runTile code detail) 0 0x10 tag detail r.route.toNat l)

/-- The tile that TF_FAULT names for a run (R98): the tile that the fault names, which may be one of tiles 24 to 31 with TNOTVALID (R190). A
fault that names none leaves TILE 0 (DESIGN CHOICE, log entry 101). -/
def runFaultTile (code : Code) (detail : Word) : Nat := if code = .tnotvalid then detail.toNat % 32 else runTile code detail % 31

def State.runFault (s : State) (r : Run) (code : Code) (detail : Word) : State :=
  match r.src with
  | .port e _ => s.tfFault e (runFaultTile code detail) code 0x10 0
  | _ => s

/-- A put that has not completed leaves nothing; a get that has not delivered leaves its entry held (R234, R236). -/
def State.cancelStash (s : State) (uid : Option Nat) : State :=
  match uid with
  | none => s
  | some u => { s with stash := { s.stash with
      entries := (s.stash.entries.filter fun x => x.uid ≠ u || x.put).map fun x => if x.uid = u then { x with getting := false } else x } }

/-- A run has ended: its accumulate entry goes (R226), and no FENCE waits for it any longer (R191). -/
def State.forgetRun (s : State) (seq : Nat) : State :=
  { s with
    rt := { s.rt with accum := s.rt.accum.filter (·.seq ≠ seq) }
    cells := s.cells.map fun c =>
      { c with dep := { c.dep with cmds := c.dep.cmds.map fun x => { x with runs := x.runs.filter (· ≠ seq) } }
               sep := { c.sep with cmds := c.sep.cmds.map fun x => { x with runs := x.runs.filter (· ≠ seq) } } } }

/-- A run leaves its engine, or becomes held with its code (R191). A tile row that is partly assembled is discarded (R192), also one that a
GATHER's stop shares with positions of the windows below it, of which R228 says that they have landed (DESIGN CHOICE, log entry 89). -/
def State.retireRun (s : State) (q : QuadNo) (r : Run) (code : Code) (detail : Word) : State :=
  (if code = .ok then s.dropRun q r.seq
    else s.putRun q { r with code := some code, detail := detail, buf := [], wins := [], blks := [], acks := [] }).forgetRun r.seq

/-- RWAIT commands that wait for a run (R191). -/
def State.waiters (s : State) (seq : Nat) : List (EPort × Cmd) :=
  allPorts.flatMap fun e => ((s.port e).cmds.filter fun c => c.op == opRWAIT && c.started && c.kick == some seq).map fun c => (e, c)

/-- Completes the RWAITs of an ended run with its code; they collect a held run (R191). -/
def State.tellWaiters (s : State) (q : QuadNo) (seq : Nat) (code : Code) (detail : Word) : State :=
  let w := s.waiters seq
  let s := w.foldl (fun s x => s.complete x.1 x.2 code detail) s
  if w.isEmpty then s else s.dropRun q seq

/-- Layouts N and I (R331). -/
def detN (route : RouteId) : BitVec 96 := detailOf (b32 route.toNat)
def detI (route : RouteId) (pos : Nat) (v : Word) : BitVec 96 := detailOf (b16 route.toNat ++ bytesOf 6 pos ++ b32 v.toNat)

/-- The Pennant of skipped positions, which a run with a skip records when it ends (R214). -/
def State.noteSkipped (s : State) (q : QuadNo) (r : Run) : State :=
  if r.skips = 0 then s else s.reportN lvlRoute (srcRoute q r.route) clsIdxskip .info r.skips (detN r.route)

/-- A run ends (R191): its slot is freed or held, its Pennant and TF_FAULT record are made (`pennant` says whether the
layout A record is this run's one Pennant), RWAITs complete. -/
def State.endRun (s : State) (q : QuadNo) (r : Run) (code : Code) (detail : Word) (pennant : Bool := true) : State :=
  let s := (s.noteSkipped q r).retireRun q r code detail
  let s := if code = .ok then s else (if pennant then s.heldRecord q r code detail else s).runFault r code detail
  s.tellWaiters q r.seq code detail

/-! ### FENCE (R50, R54) -/

/-- Everything a FENCE names has completed. -/
def Cmd.fenceDone (c : Cmd) : Bool := c.op == opFENCE && c.started && c.earlier.isEmpty && c.other.isEmpty && c.runs.isEmpty

def State.settlePort (s : State) (e : EPort) : State :=
  ((s.port e).cmds.filter Cmd.fenceDone).foldl (fun s c => s.complete e c .ok 0) s

/-! ### Late instances (R376) -/

/-- The master may take an instance in now: HALT, no step in progress, and a DCLASS known to be equal or DETMODE clear. -/
def State.mayAdmit (s : State) (i : BitVec 3) : Bool :=
  s.glob.halt && !s.step.running
    && (!s.glob.detmode || (s.dclassOf ⟨i.toNat, i.isLt⟩ == s.masterDclass && (s.pkg.words.get ⟨i.toNat, i.isLt⟩).isSome))

/-- Admits every waiting instance that may join (R376): PRESENT changes, every instance is told, the window is rewritten. -/
def State.admitLate (s : State) : State :=
  let ok := s.pkg.late.filter s.mayAdmit
  if ok.isEmpty then s
  else
    let p : BitVec 8 := ok.foldl (fun a i => a ||| (1 <<< i.toNat)) s.pkg.present
    (({ s with pkg := { s.pkg with present := p, late := s.pkg.late.filter fun i => !ok.contains i } } : State).out
      (.wiquin none 5 (p.setWidth 64))).geoRewrite

/-- Completes every FENCE whose conditions have come about; a completed FENCE may free another. A late instance that may
join now is admitted. -/
def State.settle (s : State) : State := ((allPorts ++ allPorts).foldl State.settlePort s).admitLate

/-! ### Fences, retirement and fills (R58, R75, R301-R305) -/

/-- Quadrants in the order of R302: the home quadrant first, then ascending hops, the lower number on a tie. -/
def fillOrder (q : QuadNo) : List QuadNo := (List.range 6).flatMap fun h => allQuads.filter fun b => quadHops q b == h

/-- Does a spare meet the condition of R302 while DETMODE is set? -/
def Cell.canon (c : Cell) : Bool := canonBit c.dep.idNow && canonBit c.sep.idNow

/-- Spares in the order of R302. -/
def State.spares (s : State) (q : QuadNo) : List PCell := (fillOrder q).flatMap fun b => (cellsOf b).filter fun p => (s.cell p).spare

/-- JACKFAIL of a Jack that fails or is skipped, with the stage code (R278, R305, R331). -/
def State.jackfail (s : State) (p : PCell) (stage : Nat) (l : BitVec 16) : State :=
  s.report lvlCell (srcCell p) clsJackfail .info (detX p stage l)

/-- Spares skipped while DETMODE is set record JACKFAIL once (R278). -/
def State.noteSkips (s : State) (l : List PCell) : State :=
  l.foldl (fun s p => if s.glob.skipped.contains p then s
    else (s.jackfail p 4 0xFFFF |> fun s => { s with glob := { s.glob with skipped := p :: s.glob.skipped } })) s

/-- Spares before the chosen one, or all when none is chosen. -/
def skippedBefore (l : List PCell) (chosen : Option PCell) : List PCell := l.takeWhile fun p => some p != chosen

/-- Stage at which a fill takes a spare: a READY one skips POWER, one on its enable path continues (R398, R407). -/
def Cell.fillStage (c : Cell) : BitVec 3 :=
  if c.down then 1
  else match c.pwr with
    | .ready => 2
    | .wiping => 2
    | .bist => 3
    | _ => 1

/-- Starts the next queued fill when none is under way; with no spare left the instance is DEGRADED, no queued fill can come about, and
the instance asks for a hold (R302, R305). A READY spare is wiped and tested again. -/
def State.nextFill (s : State) : State :=
  match s.fills.cur, s.fills.queue with
  | none, (l, q) :: rest =>
    let cands := s.spares q
    let ok := cands.filter fun p => !s.glob.detmode || (s.cell p).canon
    let pick := ok.head?
    let s := if s.glob.detmode then s.noteSkips ((skippedBefore cands pick).filter fun p => !(s.cell p).canon) else s
    match pick with
    | some p =>
      let st := (s.cell p).fillStage
      let ready := (s.cell p).pwr == .ready && !(s.cell p).down
      let s := { s with fills := { cur := some ⟨l, q, p, st⟩, queue := rest } }
      let s := s.modCell p fun c => { c with spare := false, filling := true, mb := none }
      if ready then s.setPwr p .wiping else s.enable p
    | none =>
      let s := { s with fills := { cur := none, queue := [] } }
      s.geoRewrite.wantHold 0x04
  | _, _ => s

/-- The Jack being filled fails a stage: the fill is aborted, the cell returns to retired, the next spare is taken (R305). -/
def State.abortFill (s : State) : State :=
  match s.fills.cur with
  | none => s
  | some f =>
    let s := s.jackfail f.p f.stage.toNat 0xFFFF
    let s := { s with fills := { cur := none, queue := (f.logical, f.home) :: s.fills.queue } }
    let s := s.modCell f.p fun c => { c with filling := false, retired := true, spare := false }
    let s := (s.shutdown f.p).geoRewrite.nextFill
    if s.tmb.stop then s.request else s

/-- The runs that use the logical cell of a physical cell: they drain before it is wiped, whatever it is mapped to by then (R397). -/
def State.usersOf (s : State) (p : PCell) : List Nat :=
  match (s.cell p).logical with
  | some l => (s.running.filter fun r => r.usesCell l).map (·.seq)
  | none => []

/-- A cell is retired (R301); the cell being filled is given up with its fill (R305). Causes: 1 EP_ERR, 2 fence, 3 cell-port link, 4 no spare row, 5 second uncorrectable error. -/
def State.retireCell (s : State) (p : PCell) (cause : Nat) : State :=
  let c := s.cell p
  if c.retired then s
  else
    let s := s.report lvlCell (srcCell p) clsRetire .cellfatal (detX p cause (s.pkgLogical p))
    if s.fills.cur.any (fun f => f.p == p) then s.abortFill else
    let s := if c.logical.isSome then s.stopStep 0x04 else s
    let s := s.modCell p fun c => { c with logical := none, retired := true, spare := false, toTest := false, mb := none, users := s.usersOf p }
    let s := (s.shutdown p).geoRewrite
    match c.logical with
    | none => s
    | some l =>
      let s := { s with fills := { s.fills with queue := s.fills.queue ++ [(l, quadOf p)] } }.nextFill
      if s.tmb.stop && !s.tmb.hold then s.request else s

/-- Completes every outstanding command of a port with FENCED (R75). -/
def State.fenceCmds (s : State) (e : EPort) : State :=
  let cmds := (s.port e).cmds
  let s := cmds.foldl (fun s c => s.present e c.op c.tag c.tileNo.toNat .fenced 0 0) s
  let s := cmds.foldl (fun s c => s.cancelStash c.stash) s
  let s := { s with rt := { s.rt with kicks := s.rt.kicks.filter fun k =>
    match k.src with | .port e' t => !(e' == e && cmds.any fun c => c.tag == t) | _ => true } }
  s.modCell e.p fun x =>
    (x.setPort e.sep { x.port e.sep with cmds := [] }).setPort (!e.sep)
      { x.port !e.sep with cmds := (x.port !e.sep).cmds.map fun c => { c with other := [] } }

/-- Runs with a TILE endpoint on the fenced port stop with FENCED (R192). A BROADCAST one of whose group's cells has the port stops as well,
of which R192 says nothing (DESIGN CHOICE, log entry 91). -/
def State.fenceRuns (s : State) (e : EPort) : State :=
  match (s.cell e.p).logical with
  | none => s
  | some l =>
    let hit (r : Run) : Bool := r.code.isNone && (r.tileWrites ++ r.tileReads).any fun x => x.1 == l && ownFile e.sep x.2
    allQuads.foldl (fun s q => ((s.quad q).runs.filter hit).foldl (fun s r => (s.cancelStash r.stash).endRun q r .fenced 0) s) s

/-- An engine port is fenced (R58, R59, R75): FENCED in layout P, every command completes, runs on its tiles end, the grant
drops to zero. Retirement follows in `fenceRetire`. Read rows accepted before that still stand in the pipeline (R47) keep their status and data
unless a void stops them (DESIGN CHOICE, log entry 97). -/
def State.fence (s : State) (e : EPort) (no reason ident : Nat) : State :=
  if (s.port e).fenced then s
  else
    let s := s.report lvlCell (srcPort e) 0x11 .cellfatal (detP no reason ident)
    let s := s.modPort e fun q => { q with fenced := true }
    ((((s.fenceCmds e).fenceRuns e).dropGrant e).geoRewrite).settle

/-- A fence and the retirement it brings (R75, R301). -/
def State.fenceRetire (s : State) (e : EPort) (no reason ident : Nat) : State :=
  if (s.port e).fenced then s else (s.fence e no reason ident).retireCell e.p 2

/-- A violation on an engine port (R74, R75): an INFO Pennant of class PORTPROTO, and a fence at the threshold; on a fenced
port no Pennant (R76). -/
def State.violation (s : State) (e : EPort) (no ident : Nat) : State :=
  if (s.port e).fenced then s.modPort e fun q => { q with viols := s.recentViols 0 q.viols ++ [s.clk.gtc] }
  else
    let s := s.report lvlCell (srcPort e) 0x0D .info (detP no 0 ident)
    let v := s.recentViols 0 (s.port e).viols ++ [s.clk.gtc]
    let s := s.modPort e fun q => { q with viols := v }
    if fenceLimit s 0 ≤ v.length then s.fenceRetire e no 1 ident else s

/-! ### Engine identity (R57, R58) -/

/-- A valid identity word: KIND fits the port and the reserved bits are zero (R58). -/
def idValid (sep : Bool) (w : BitVec 64) : Bool := bf w 60 4 == (if sep then 2 else 1) && bf w 56 3 == 0

/-- The four samples agree and the word is valid (R58). -/
def idsValid (x : IdSample) : Bool := x.s0 == x.s1 && x.s1 == x.s2 && x.s2 == x.s3 && idValid x.e.sep x.s0

/-- Records the sampled word; `start` also keeps it as the word of start-up. -/
def State.recordId (s : State) (x : IdSample) (start : Bool) : State :=
  s.modPort x.e fun q => { q with idNow := x.s3, idOk := (idsValid x), idStart := if start then x.s3 else q.idStart }

/-- Sampling after start-up (R58): an invalid word, or one that differs from the start-up word, fences the port. -/
def State.sampleId (s : State) (x : IdSample) : State :=
  let start := (s.port x.e).idStart
  let s := s.recordId x false
  if !(idsValid x) then s.fenceRetire x.e 0 2 0
  else if x.s3 ≠ start then s.fenceRetire x.e 0 3 0
  else s

end Sys2Proof.Machine
end

