-- ==== Sys2Proof/Machine/TileOps.lean ====
section
/-! DEFINITION. Tile register files (03_tile_files.md): the tile commands as they start (R83-R92, R50), engine reads and
result writes (R45-R48, R87, R90, R94), SECDED outcomes (R97) and the row reducer (R99-R103, R137). -/

namespace Sys2Proof.Machine

/-! ### SECDED outcomes of a tile-file row (R97, R301) -/

/-- A corrected error: CORRECTED Pennant, write-back queued (R97). -/
def State.corrected (s : State) (p : PCell) (t : TileNo) (row : RowNo) : State :=
  (s.report lvlCell (srcCell p) clsEcc .corrected (s.detRow p t row)).modCell p fun c =>
    { c with wbq := c.wbq ++ [(t, row)] }

/-- Second uncorrectable error in the cell's files within 2^30 ticks of the first (R301). -/
def State.secondError (s : State) (p : PCell) : Bool :=
  match (s.cell p).lastUncorr with
  | some t => decide (s.clk.gtc.toNat < t.toNat + 2 ^ 30)
  | none => false

/-- An uncorrectable error of a row slot: UNCORR Pennant, void, and retirement on the second within 2^30 ticks. A slot that
waits for its test makes no further record, and voids the first step that reads it (R97, R294). -/
def State.rowUncorr (s : State) (p : PCell) (t : TileNo) (row : RowNo) : State :=
  if (s.cell p).erred.contains (t, row) then s.beginVoid 0x01
  else
    let second := s.secondError p
    let s := s.modCell p fun c => { c with erred := c.erred ++ [(t, row)], lastUncorr := some s.clk.gtc }
    let s := s.uncorr lvlCell (srcCell p) (rowWord (s.tileLanes p t) t row.toNat 0) (fileStruct t)
    if second then s.retireCell p 5 else s

/-- The record of what SECDED found on a read of a row. -/
def State.rowEcc (s : State) (p : PCell) (t : TileNo) (row : RowNo) : Ecc → State
  | .ok => s
  | .corrected => s.corrected p t row
  | .uncorr => s.rowUncorr p t row

/-- The records of the reads of several rows in order. -/
def State.rowEccs (s : State) (p : PCell) (ecc : List RowEcc) (l : List (TileNo × RowNo)) : State :=
  l.foldl (fun s x => s.rowEcc p x.1 x.2 (eccAt ecc x.1 x.2)) s

/-- The record of what SECDED found on a read of an RV entry, 0-511: two entries make a word (R34, R97, R331). -/
def State.rvEcc (s : State) (p : PCell) (entry : Nat) : Ecc → State
  | .ok => s
  | .corrected => s.report lvlCell (srcCell p) clsEcc .corrected (s.detM (entry / 2) 3)
  | .uncorr => s.uncorr lvlCell (srcCell p) (entry / 2) 3

/-! ### Commands -/

/-- Configuration that a TCFG names (R49). -/
def tcfgOf (c : Cmd) : TileCfg :=
  { layout := c.beat.getLsbD 56, fmt := c.beat.extractLsb' 48 5, rb := c.beat.extractLsb' 40 3, rm1 := c.beat.extractLsb' 32 7 }

/-- Does the tile number lie in the port's file and is the tile configured? -/
def State.cfgOf (s : State) (p : PCell) (t : TileNo) : Option TileCfg := ((s.cell p).tile? t).bind (·.cfg)

/-- Checks of R83. -/
def State.tcfgCheck (s : State) (e : EPort) (c : Cmd) : Code :=
  let t := c.tileNo
  let k := tcfgOf c
  if !ownFile e.sep t then .tnotvalid
  else if !fmtDefined k.fmt || isNP4 k.fmt then .tfmt
  else if !(s.port e).idNow.getLsbD k.fmt.toNat then .tfmt
  else if k.layout != isBP k.fmt then .tfmt
  else if k.fmt == 0x09 && k.bytes % 96 != 0 then .tshape
  else match (s.cell e.p).tile? t with
    | some x => if x.inUse && x.cfg != some k then .tshape else .ok
    | none => .ok

/-- DETAIL that names a tile (R52). -/
def tileDetail (t : TileNo) : Word := t.setWidth 32

/-- A TCFG that has passed its checks: nothing changes on a tile in use, whose configuration is the same (R84). -/
def Cell.configure (c : Cell) (t : TileNo) (k : TileCfg) : Cell :=
  if (c.tile? t).any (·.inUse) then c
  else (c.modTile t fun x => { x with cfg := some k, valid := 0, written := 0 }).forget t

def State.startTcfg (s : State) (e : EPort) (c : Cmd) : State :=
  let code := s.tcfgCheck e c
  if code = .ok then
    (s.modCell e.p fun x => x.configure c.tileNo (tcfgOf c)).complete e c .ok 0
  else s.complete e c code (tileDetail c.tileNo)

/-- TRELEASE of one tile: its rows are released when it is in use; its resume record goes in any case (R88, R123). -/
def Cell.releaseTile (c : Cell) (t : TileNo) : Cell :=
  ((c.modTile t fun x => if x.cfg.isSome && x.inUse then x.release else x).forget t).dropResume t

/-- TZERO with RELEASE clear: the tile reads as ROWS rows of zeros (R88). -/
def Cell.zeroTile (c : Cell) (t : TileNo) : Cell :=
  ((c.modTile t fun x => { x with written := 0, valid := match x.cfg with | some k => k.rows | none => 0, inUse := true }).forget t).dropResume t

def State.startTzero (s : State) (e : EPort) (c : Cmd) : State :=
  let t := c.tileNo
  if !ownFile e.sep t || (s.cfgOf e.p t).isNone then s.complete e c .tnotvalid (tileDetail t)
  else (s.modCell e.p fun x => if c.beat.getLsbD 32 then x.releaseTile t else x.zeroTile t).complete e c .ok 0

def State.startTrelease (s : State) (e : EPort) (c : Cmd) : State :=
  (s.modCell e.p fun x => (maskTiles c.mask).foldl Cell.releaseTile x).complete e c .ok 0

/-- Checks of a TMOVE (R90): code and the tile that DETAIL names. -/
def State.tmoveCheck (s : State) (e : EPort) (c : Cmd) : Code × TileNo :=
  let a := c.tileNo
  let b := c.dstTile
  match (s.cell e.p).tile? a, (s.cell e.p).tile? b with
  | none, _ => (.tnotvalid, a)
  | some x, y =>
    match x.cfg with
    | none => (.tnotvalid, a)
    | some kx =>
      if !x.inUse then (.tnotvalid, a)
      else match y.bind (·.cfg) with
        | none => (.tnotvalid, b)
        | some ky =>
          if kx.fmt != ky.fmt || kx.layout != ky.layout then (.tfmt, b)
          else if kx.rb != ky.rb || decide (ky.rows < x.valid) then (.tshape, b)
          else (.ok, a)

/-- Copies the valid rows of one tile into another, clear bits as clear bits (R91). A source in use with no row written (a TZEROed tile)
copies no row; the destination is in use afterwards, which R91 does not say (DESIGN CHOICE, log entry 74). -/
def Tile.copyFrom (d s : Tile) : Tile :=
  { d with
    data := (s.data.filter fun r => decide (r.1 < s.valid) && s.written.getLsbD r.1)
      ++ d.data.filter fun r => !(decide (r.1 < s.valid) && s.written.getLsbD r.1)
    written := s.written &&& BitVec.ofNat 128 (2 ^ s.valid - 1)
    valid := s.valid
    inUse := true }

/-- The rows below `n` of a move that stops there: they have been copied in ascending order, and VALIDROWS has not been set to that of the
source (R91; log entry 74). -/
def Tile.copyBelow (d s : Tile) (n : Nat) : Tile :=
  (List.range n).foldl (fun d r => if s.written.getLsbD r then d.writeRow r (s.stored r) else { d with written := d.written &&& ~~~((1 : BitVec 128) <<< r) }) d

/-- Rows that a move reads, ascending: those below VALIDROWS that are written (R91). -/
def Tile.moveRows (t : Tile) : List RowNo := ((List.range 128).filter fun r => decide (r < t.valid) && t.written.getLsbD r).map (BitVec.ofNat 7)

/-- TMOVE (R90, R91): the rows are read in ascending order up to the first that cannot be corrected (R97), which ends the move with
UNCORR. -/
def State.startTmove (s : State) (e : EPort) (c : Cmd) (ecc : List RowEcc) : State :=
  let k := s.tmoveCheck e c
  let b := c.dstTile
  if k.1 ≠ .ok then s.complete e c k.1 (tileDetail k.2)
  else if c.tileNo = b then (s.modCell e.p fun x => x.dropResume b).complete e c .ok 0
  else
    match (s.cell e.p).tile? c.tileNo with
    | none => s.complete e c .tnotvalid (tileDetail c.tileNo)
    | some src =>
      let good := src.moveRows.takeWhile fun r => eccAt ecc c.tileNo r != .uncorr
      let bad := src.moveRows.find? fun r => eccAt ecc c.tileNo r == .uncorr
      let s := s.rowEccs e.p ecc (good.map fun r => (c.tileNo, r))
      let put (f : Tile → Tile) (s : State) : State := s.modCell e.p fun x =>
        (((x.modTile b f).forget b).cancelBack b fun r => good.contains r).dropResume b
      match bad with
      | some r =>
        let s := (if good.isEmpty then s else put (fun d => d.copyBelow src r.toNat) s).rowUncorr e.p c.tileNo r
        if ((s.port e).find c.tag).isSome then s.complete e c .uncorr (s.step.count.setWidth 32) else s
      | none => (put (fun d => d.copyFrom src) s).complete e c .ok 0

/-- The 128 entries of an RV register (R103). -/
def Cell.rvOf (c : Cell) (n : Nat) : List Word := (List.range 128).map fun i => (c.rv[n * 128 + i]?).getD 0

/-- A row of 64 FP32 entries. -/
def rowOfWords (ws : List Word) : Row := BitVec.ofNat 2048 (packCodes 32 (ws.map (·.toNat)))

/-- Checks of an RVREAD (R50, R90). -/
def State.rvreadCheck (s : State) (e : EPort) (c : Cmd) : Code :=
  if !ownFile e.sep c.tileNo then .tnotvalid
  else match s.cfgOf e.p c.tileNo with
    | none => .tnotvalid
    | some k => if k.fmt ≠ 0 then .tfmt else if k.rb ≠ 7 || decide (k.rows < bf c.beat 40 7 + 2) then .tshape else .ok

/-- RVREAD writes the two rows of the register as it stood when the command was taken (R50, R103). A register that could not be read
delivers nothing (R97): no snapshot was kept of it. -/
def State.startRvread (s : State) (e : EPort) (c : Cmd) : State :=
  let code := s.rvreadCheck e c
  let row := bf c.beat 40 7
  if code ≠ .ok then s.complete e c code (tileDetail c.tileNo)
  else if c.rv.isEmpty then s.complete e c .uncorr (s.step.count.setWidth 32)
  else
    (s.modCell e.p fun x => ((x.modTile c.tileNo fun t =>
      (t.writeRow row (rowOfWords (c.rv.take 64))).writeRow (row + 1) (rowOfWords (c.rv.drop 64))).forget c.tileNo).cancelBack c.tileNo
        fun r => r.toNat == row || r.toNat == row + 1).complete e c .ok 0

/-! ### Engine reads (R45, R47, R48, R87, R94) -/

/-- Pennant of an engine access in layout A (R331). -/
def State.accessPennant (s : State) (e : EPort) (cls : Byte) (t : TileNo) (row : RowNo) : State :=
  s.report lvlCell (srcPort e) cls .info (detA t.toNat row.toNat 0 0 0 0xFFFF (s.pkgLogical e.p))

/-- A tile hazard (R94, R98). -/
def State.hazard (s : State) (e : EPort) (t : TileNo) (row : RowNo) : State :=
  ((s.accessPennant e clsTilehazard t row).tfFault e t.toNat .tnotvalid 0 row.toNat).addNdet 1

/-- A row as a read accepted in ACLK k sees it: written after R48's window, and before it as it stood (valid rows,
row-written bit, bytes). R48 speaks of the row written only: a read of another row of the tile sees the VALIDROWS that a result write has
raised from the ACLK in which the write is taken (DESIGN CHOICE, log entry 75). -/
def State.seenRow (s : State) (e : EPort) (t : TileNo) (row : RowNo) (x : Tile) (k : Nat) : Nat × Bool × Row :=
  match (s.port e).recent.find? fun w => w.tile == t && w.row == row && decide (k ≤ w.aclk + 1) with
  | some w => (w.valid, w.written, w.data)
  | none => (x.valid, x.written.getLsbD row.toNat, x.stored row.toNat)

/-- What an operand of a read request meets. -/
inductive RdCase where
  | invalid                 -- TNOTVALID (R47)
  | hazard                  -- the tile is busy for write (R94)
  | unwritten               -- below VALIDROWS and not written: zeros (R87)
  | stored (data : Row)     -- the stored row
  deriving DecidableEq, Repr

/-- The tile and row of an operand request (R45). -/
def reqTile (req : BitVec 12) : TileNo := req.extractLsb' 7 5
def reqRow (req : BitVec 12) : RowNo := req.extractLsb' 0 7

def State.rdCase (s : State) (e : EPort) (req : BitVec 12) : RdCase :=
  let t := reqTile req
  let row := reqRow req
  if !ownFile e.sep t then .invalid
  else match (s.cell e.p).tile? t with
    | none => .invalid
    | some x =>
      match x.cfg with
      | none => .invalid
      | some k =>
        if s.busyW e.p t then .hazard
        else
          let v := s.seenRow e t row x s.clk.aclk
          if v.1 ≤ row.toNat then .invalid
          else if v.2.1 then .stored (rowCut v.2.2 k.bytes) else .unwritten

/-- One operand of a read request: the state after it, EP_RD_STATUS and the row. -/
def State.readOperand (s : State) (e : EPort) (req : BitVec 12) (ecc : Ecc) : State × BitVec 2 × Row :=
  let t := reqTile req
  let row := reqRow req
  match s.rdCase e req with
  | .invalid => ((s.accessPennant e 0x03 t row).tfFault e t.toNat .tnotvalid 0 row.toNat, 1, 0)
  | .hazard => (s.hazard e t row, 1, 0)
  | .unwritten => (s, 0, 0)
  | .stored d => (s.rowEcc e.p t row ecc, if ecc = .uncorr then 3 else 0, if ecc = .uncorr then 0 else d)

/-- What SECDED finds on operand B of a request whose operand A has stopped the port: the row was stored when the request came in. -/
def State.lateOperand (s old : State) (e : EPort) (req : BitVec 12) (ecc : Ecc) : State :=
  match old.rdCase e req with
  | .stored _ => s.rowEcc e.p (reqTile req) (reqRow req) ecc
  | _ => s

/-- A read request (R45-R47). Rows of a stop that the request itself brings about carry VOID (R60). -/
def State.operandRead (s : State) (e : EPort) (a b : BitVec 12) (aclk : Nat) (eccA eccB : Ecc) : State :=
  let s := s.atAclk aclk
  let due := s.clk.aclk + 3
  let dep := !e.sep
  if s.asleep then s
  else if (s.port e).fenced then s.out (.rd e due a b 2 0 (if dep then 2 else 0) 0)
  else if !s.ioReady e then (if s.stopped then s else s.violation e 6 0)
  else
    let ra := s.readOperand e a eccA
    let rb := if !dep then (ra.1, 0, 0) else if ra.1.stopped then (ra.1.lateOperand s e b eccB, 3, 0) else ra.1.readOperand e b eccB
    let t := rb.1
    let x : (BitVec 2 × Row) × BitVec 2 × Row := if t.stopped then ((3, 0), if dep then 3 else 0, 0) else (ra.2, rb.2)
    ((t.noteVoid e a x.1.1).noteVoid e b x.2.1).out (.rd e due a b x.1.1 x.1.2 x.2.1 x.2.2)

/-! ### Row reducer (R99-R102, R137) -/

def rctlEn (r : Byte) : Bool := r.getLsbD 7
def rctlOp (r : Byte) : Nat := bf r 5 2
def rctlRv (r : Byte) : Nat := bf r 3 2
def rctlInit (r : Byte) : Bool := r.getLsbD 2
def companion (sep : Bool) (r : Byte) : TileNo := BitVec.ofNat 5 ((if sep then 20 else 12) + bf r 0 2)

/-- Elements of a row decoded to FP32 by the format, with the scale row of its group for an MX tile (R100, R137). -/
def rowElems (k : TileCfg) (row : Nat) (data scale : Row) : List Word :=
  let b := fmtBits k.fmt
  let g := groupRows k.fmt
  let d := (row / g) * (g - 1) + row % g - 1
  (List.range (k.bytes * 8 / b)).map fun i =>
    decodeRed k.fmt (bitsAt (rowByte data) (b * i) b)
      (if isMX k.fmt then rowByte scale (scaleByteOf k.fmt k.bytes d (i / 32)).2 else 0)

/-- f(x) of R100. -/
def reduceTerm (op : Nat) (x c : Word) : Word := if op = 1 then f32Mul x x else if op = 3 then f32Mul x c else x

/-- op(a, b) and its identity (R100, R101). -/
def reduceOp (op : Nat) : Word → Word → Word := if op = 2 then f32Max else f32Add
def reduceId (op : Nat) : Word := if op = 2 then 0xFF800000 else 0x80000000

/-- The per-row value s: lanes in element order, then the fixed tree (R100). A missing companion element is zero (R102). -/
def reduceRow (op bits : Nat) (xs cs : List Word) : Word :=
  let terms := (List.range xs.length).map fun i => (bits * i / 256, reduceTerm op ((xs[i]?).getD 0) ((cs[i]?).getD 0))
  let lane (k : Nat) : Word := (terms.filter (·.1 = k)).foldl (fun acc x => reduceOp op acc x.2) (reduceId op)
  let o := reduceOp op
  o (o (o (lane 0) (lane 1)) (o (lane 2) (lane 3))) (o (o (lane 4) (lane 5)) (o (lane 6) (lane 7)))

/-- The entry of the RV registers that a reduction updates, and its new value (R100). -/
def rvEntry (rctl : Byte) (row : Nat) : Nat := rctlRv rctl * 128 + row
def rvNew (old : Word) (rctl : Byte) (v : Word) : Word := if rctlInit rctl then v else reduceOp (rctlOp rctl) old v

/-- Updates RV entry r (R100). Of two updates of an entry in one ACLK the DEP's comes first (R102), also when the SEP's write was taken
before it. -/
def Cell.reduceInto (c : Cell) (sep : Bool) (aclk : Nat) (rctl : Byte) (row : Nat) (v : Word) : Cell :=
  let i := rvEntry rctl row
  let old := (c.rv[i]?).getD 0
  let mine := c.sepRv.filter fun u => u.aclk == aclk
  if sep then { c with rv := c.rv.setIfInBounds i (rvNew old rctl v), sepRv := mine ++ [⟨aclk, i, old, rctl, v⟩] }
  else match mine.find? fun u => u.entry == i with
    | none => { c with rv := c.rv.setIfInBounds i (rvNew old rctl v) }
    | some u => { c with rv := c.rv.setIfInBounds i (rvNew (rvNew u.old rctl v) u.rctl u.val), sepRv := mine.filter fun x => x.entry != i }

/-- A tile row as the reducer reads it: zeros where nothing is written. -/
def Tile.redRow (t : Tile) (row : Nat) : Row := if row < t.valid then t.rowAt row else 0

/-- Scale row of a row of an MX tile (R136). -/
def scaleRowOf (f : BitVec 5) (row : Nat) : Nat := row / groupRows f * groupRows f

/-- What the reducer finds wrong: a class with its tile, a hazard on the companion, or nothing. -/
inductive RedStop where
  | none
  | pennant (cls : Byte) (t : TileNo)
  | hazard (t : TileNo)
  deriving DecidableEq, Repr

/-- The checks of R102 and R137. Where several apply to one write the rules give no order: the model takes LAYOUT and scale row of the
result tile, the companion's configuration, its LAYOUT, its being busy, its ROWBYTES and VALIDROWS, and last the companion's scale row
(DESIGN CHOICE, log entry 58). -/
def State.redCheck (s : State) (e : EPort) (k : TileCfg) (t : TileNo) (row : RowNo) (rctl : Byte) : RedStop :=
  if k.layout || isScaleRow k.fmt row.toNat then .pennant 0x02 t
  else if rctlOp rctl ≠ 3 then .none
  else
    let ct := companion e.sep rctl
    match (s.cell e.p).tile? ct with
    | none => .pennant 0x03 ct
    | some c =>
      match c.cfg with
      | none => .pennant 0x03 ct
      | some kc =>
        if kc.layout then .pennant 0x02 ct
        else if s.busyW e.p ct then .hazard ct
        else if kc.rb ≠ k.rb || decide (c.valid ≤ row.toNat) then .pennant 0x03 ct
        else if isScaleRow kc.fmt row.toNat then .pennant 0x02 ct
        else .none

/-- The reducer's own reads beyond the written row: (tile, row) of the companion row and of scale rows that hold data. -/
def redReads (cell : Cell) (e : EPort) (k : TileCfg) (t : TileNo) (row : RowNo) (rctl : Byte) : List (TileNo × RowNo) :=
  let scale (k : TileCfg) (t : TileNo) : List (TileNo × RowNo) := if isMX k.fmt then [(t, BitVec.ofNat 7 (scaleRowOf k.fmt row.toNat))] else []
  let ct := companion e.sep rctl
  let l := scale k t ++ (if rctlOp rctl = 3 then (ct, row) :: (match (cell.tile? ct).bind (·.cfg) with | some kc => scale kc ct | none => []) else [])
  l.filter fun x => match cell.tile? x.1 with | some y => decide (x.2.toNat < y.valid) && y.written.getLsbD x.2.toNat | none => false

/-- The value the reducer folds (R100), from the row written and the cell before the write. -/
def redValue (old : Cell) (e : EPort) (k : TileCfg) (t : TileNo) (row : RowNo) (data : Row) (rctl : Byte) : Word :=
  let sc (k : TileCfg) (x : Option Tile) : Row := match x with | some y => y.redRow (scaleRowOf k.fmt row.toNat) | none => 0
  let xs := rowElems k row.toNat data (sc k (old.tile? t))
  let cs := if rctlOp rctl = 3 then
      match old.tile? (companion e.sep rctl) with
      | some c => (match c.cfg with | some kc => rowElems kc row.toNat (c.redRow row.toNat) (sc kc (some c)) | none => [])
      | none => []
    else []
  reduceRow (rctlOp rctl) (fmtBits k.fmt) xs cs

/-- The reduction of a written row (R99-R102). `old` is the cell and `chk` the check's outcome as before the write. An uncorrectable
error on one of the reducer's own reads, the entry's included, leaves the entry as it was (R97, R102). -/
def State.reduce (s : State) (old : Cell) (chk : RedStop) (e : EPort) (k : TileCfg) (t : TileNo) (row : RowNo) (data : Row)
    (rctl : Byte) (ecc : List RowEcc) (rvEcc : Ecc) : State :=
  if !rctlEn rctl then s
  else match chk with
    | .pennant cls x => s.accessPennant e cls x row
    | .hazard x => s.hazard e x row
    | .none =>
      let reads := redReads old e k t row rctl
      let rv := if rctlInit rctl then .ok else rvEcc
      let bad := rv == .uncorr || reads.any fun x => eccAt ecc x.1 x.2 == .uncorr
      let s := (s.rowEccs e.p ecc reads).rvEcc e.p (rvEntry rctl row.toNat) rv
      if bad then s else s.modCell e.p fun c => c.reduceInto e.sep s.clk.aclk rctl row.toNat (redValue old e k t row data rctl)

/-! ### Result writes (R46, R48, R86, R90, R94) -/

/-- A dropped result write: TF_FAULT records it (R98). -/
def State.dropWrite (s : State) (e : EPort) (t : TileNo) (row : RowNo) (code : Code) : State := s.tfFault e t.toNat code 0 row.toNat

/-- Keeps only the recent writes that a read of this ACLK or the next may have to look behind (R48). -/
def Port.remember (q : Port) (w : Recent) : Port := { q with recent := (q.recent.filter fun x => decide (w.aclk ≤ x.aclk + 1)) ++ [w] }

/-- The write of a row that passes its checks: the row, its reduction, its digest unit (R86, R99, R287). -/
def State.takeWrite (s : State) (e : EPort) (t : TileNo) (row : RowNo) (data : Row) (rctl : Byte) (ecc : List RowEcc)
    (rvEcc : Ecc) (x : Tile) (k : TileCfg) : State :=
  let old := s.cell e.p
  let chk := s.redCheck e k t row rctl
  let d := rowCut data k.bytes
  let was : Recent := ⟨s.clk.aclk, t, row, x.valid, x.written.getLsbD row.toNat, x.stored row.toNat⟩
  let s := s.modCell e.p fun c =>
    let c := c.modTile t fun y => y.writeRow row.toNat d
    { c.setPort e.sep ((c.port e.sep).remember was) with wbq := c.wbq.filter (· ≠ (t, row)) }
  let s := s.fold (s.portStream e) (t.setWidth 8 :: row.setWidth 8 :: rowBytes d k.bytes)
  s.reduce old chk e k t row d rctl ecc rvEcc

/-- A result write presented in ACLK `aclk`. A row at or beyond ROWS is dropped with TNOTVALID (R90) also where the tile is busy; R94 gives
a hazard there as well, and no rule an order (DESIGN CHOICE, log entry 58). -/
def State.resultWrite (s : State) (e : EPort) (t : TileNo) (row : RowNo) (data : Row) (rctl : Byte) (aclk : Nat) (ecc : List RowEcc)
    (rvEcc : Ecc) : State :=
  let s := s.atAclk aclk
  if s.asleep then s
  else if (s.port e).fenced then s.dropWrite e t row .fenced
  else if !s.ioReady e then (if s.stopped then s else (s.dropWrite e t row .portproto).violation e 5 0)
  else
    let bad (s : State) : State := (s.accessPennant e 0x03 t row).dropWrite e t row .tnotvalid
    if !ownFile e.sep t then bad s
    else match (s.cell e.p).tile? t with
      | none => bad s
      | some x =>
        match x.cfg with
        | none => bad s
        | some k =>
          if k.rows ≤ row.toNat then bad s
          else if s.busyW e.p t || s.busyR e.p t then s.hazard e t row
          else s.takeWrite e t row data rctl ecc rvEcc x k

/-- A queued write-back of a corrected row takes its slot; a row written since has cancelled it (R96, R97). -/
def State.writeBack (s : State) (p : PCell) (t : TileNo) (row : RowNo) : State :=
  s.modCell p fun c => { c with wbq := c.wbq.erase (t, row) }

end Sys2Proof.Machine
end

