-- ==== Sys2Proof/Machine/Memory.lean ====
section
/-! DEFINITION. Home slices and memory-side ports (R26, R61-R64, R74, R75, R117, R165), the default target (R175, R176)
and the network's pools and links (R168, R170, R178, R179, R372). -/

namespace Sys2Proof.Machine

/-! ### Lines of the operand cache (R117) -/

/-- Lanes of a line that [pa, pa + n) touches, as a mask. -/
def lanesOf (line pa n : Nat) : Byte :=
  BitVec.ofNat 8 ((List.range 8).foldl (fun a k => a + bitAt (decide (line * 256 + 32 * k < pa + n) && decide (pa < line * 256 + 32 * k + 32)) k) 0)

def State.lineAt (s : State) (line : Nat) : Option Line := s.lines.find? fun l => l.line == line

/-- Bytes at a package-global address; the default target answers zeros (R175). -/
def State.readMem (s : State) (pa n : Nat) : List Byte := if s.isDefault pa then List.replicate n 0 else s.mem.readBytes pa n

/-- May these bytes be read without a fill or, of another instance, a request? Lines of another instance are served there (R365). -/
def State.lineReady (s : State) (line pa n : Nat) : Bool :=
  if s.isDefault pa then true
  else if !s.ownPa pa then s.net.away.contains line
  else match s.lineAt line with
    | some l => (l.held &&& lanesOf line pa n) == lanesOf line pa n
    | none => false

def State.piecesReady (s : State) (ps : List (Nat × Nat)) : Bool := ps.all fun x => (linesOf x.1 x.2).all fun l => s.lineReady l x.1 x.2

/-- The bytes of these pieces have been taken: a line of another instance is asked for again when it is next needed. -/
def State.took (s : State) (ps : List (Nat × Nat)) : State :=
  let ls := ps.flatMap fun x => linesOf x.1 x.2
  { s with net := { s.net with away := s.net.away.filter fun l => !ls.contains l } }

/-- A packet for memory of another instance leaves by the Wiquin port of its home slice (R158, R365, R370). -/
def State.sendAway (s : State) (kind : AwayKind) (pa : Nat) (data : List Byte) (ini : Initiator) : State :=
  s.out (.away (s.wqPort (BitVec.ofNat 3 (paOwner pa)) (homeSlice (paLocal pa))) kind (BitVec.ofNat 52 pa) ini (channelOf ini) data)

/-! ### Memory-side ports (R61-R64) -/

def State.modMsp (s : State) (m : Fin 6) (f : Msp → Msp) : State := { s with msps := s.msps.set m (f (s.msps.get m)) }

/-- Unused transaction ids of a port (R62). -/
def Msp.freeIds (m : Msp) : List Nat := (List.range 4096).filter fun i => m.txns.all fun t => t.id.toNat != i

/-- Issues one single-sector transaction for a line with a free id (log entry 21); nothing when the port is fenced, absent
or holds 4,096 transactions (R62, R75, R174). -/
def State.issueTxn (s : State) (line : Nat) (write : Bool) (qos : Nat) : Option (State × Fin 6 × BitVec 12) :=
  match s.interleave (paLocal (line * 256)) with
  | none => none
  | some (m, local') =>
    let x := s.msps.get m
    let ids := x.freeIds
    match ids[Config.txnPick s.free % ids.length]? with
    | none => none
    | some i =>
      if x.fenced then none
      else
        let id : BitVec 12 := BitVec.ofNat 12 i
        let t : Txn := ⟨id, write, line, 1, 0, s.clk.gtc, BitVec.ofNat 4 qos⟩
        let s := { s with free := s.free + 1 }
        let s := s.modMsp m fun y => { y with txns := y.txns ++ [t] }
        some (s.out (.mspReq m.val write id (BitVec.ofNat 36 (local' / 256)) 0 (BitVec.ofNat 4 qos)), m, id)

/-- Is a read of the line outstanding? -/
def State.fetching (s : State) (line : Nat) : Bool := (List.finRange 6).any fun m => (s.msps.get m).txns.any fun t => !t.write && t.line == line

/-- The fenced memory-side port at which a line lies, if its port is fenced (R75). -/
def State.fencedAt (s : State) (line : Nat) : Option (Fin 6) :=
  (s.interleave (paLocal (line * 256))).bind fun x => if (s.msps.get x.1).fenced then some x.1 else none

/-- A transaction for a fenced port is uncorrectable (R75); of a read, what waits for it fails as at an uncorrectable answer. -/
def State.deny (s : State) (line struct : Nat) : State :=
  match s.fencedAt line with
  | some m =>
    s.uncorr lvlMsp (BitVec.ofNat 16 m.val) (line * 256) struct
  | none => s

/-- A miss has gone out: a wait for it counts in the MAXWAIT of its home quadrant (R170, R174). A tick is 1 ns (log entry 87). -/
def State.missOut (s : State) (line : Nat) : State :=
  match s.net.misses.find? (·.line = line) with
  | none => s
  | some x =>
    let wait := (s.clk.gtc.toNat - x.since.toNat) * s.pins.nclkMHz.toNat / 1000
    let s := { s with net := { s.net with misses := s.net.misses.filter (·.line ≠ line) } }
    s.modQuad (sliceQuad (homeSlice (paLocal (line * 256)))) fun q => { q with maxwait := BitVec.ofNat 16 (max q.maxwait.toNat (satTo 0xFFFF (wait / 64))) }

/-- A miss waits at its home slice: its port has 4,096 transactions outstanding (R62, R174). -/
def State.missWaits (s : State) (line qos : Nat) : State :=
  if s.net.misses.any (·.line = line) then s else { s with net := { s.net with misses := s.net.misses ++ [⟨line, qos, s.clk.gtc⟩] } }

/-- The misses that wait for a transaction of a port go out in order while it has one free; those of a fenced port wait no longer (R75, R174). -/
def State.missesGo (s : State) (m : Fin 6) : State :=
  let here (x : Miss) : Bool := ((s.interleave (paLocal (x.line * 256))).map (·.1)) == some m
  if (s.msps.get m).fenced then { s with net := { s.net with misses := s.net.misses.filter fun x => !here x } }
  else (s.net.misses.filter here).foldl (fun s x => match s.issueTxn x.line false x.qos with | some y => y.1.missOut x.line | none => s) s

/-- A miss fills the line from its stack (R117), or waits for a transaction of its port (R174); a line of another instance is asked for
there (R365). -/
def State.fetch (s : State) (line : Nat) (ini : Initiator) : State :=
  if !s.ownPa (line * 256) then
    ({ s with net := { s.net with away := line :: s.net.away } } : State).sendAway .read (line * 256) [] ini
  else if s.fetching line then s
  else match s.issueTxn line false ini.qos with
  | some x => x.1.missOut line
  | none => if (s.fencedAt line).isSome then s.deny line 0x0B else s.missWaits line ini.qos

/-- Fetches every line of the pieces that is not there yet. -/
def State.fetchPieces (s : State) (ps : List (Nat × Nat)) (ini : Initiator) : State :=
  ps.foldl (fun s x => ((linesOf x.1 x.2).filter fun l => !s.lineReady l x.1 x.2).foldl (fun s l => s.fetch l ini) s) s

/-- Is a read of these pieces denied with no step to void (R75, R115, R294): does a line that is not at hand lie behind a fenced
memory-side port? -/
def State.denies (s : State) (ps : List (Nat × Nat)) : Bool :=
  !s.step.running && ps.any fun x => (linesOf x.1 x.2).any fun l => !s.lineReady l x.1 x.2 && s.ownPa (l * 256) && (s.fencedAt l).isSome

/-- Writes a line's dirty lanes back to its stack: request and data; the line is then clean and stays cached (R117, R118). At a fenced
port the write is uncorrectable, and its bytes are written nowhere else (R75); while a port has no transaction free the line stays dirty. -/
def State.writeBackLine (s : State) (l : Line) (qos : Nat) : State :=
  if l.dirty = 0 then s
  else match s.issueTxn l.line true qos with
    | none =>
      if (s.fencedAt l.line).isNone then s
      else ({ s with lines := s.lines.map fun x => if x.line = l.line then { x with dirty := 0 } else x } : State).deny l.line 0x0C
    | some (t, m, id) =>
      let t := t.out (.mspWd m.val id l.dirty (rowOf (t.mem.readBytes (l.line * 256) 256)))
      { t with lines := t.lines.map fun x => if x.line = l.line then { x with dirty := 0 } else x }

/-! ### Places of the operand cache (R25, R31, R118, R166, R306) -/

/-- The slice of a line and its set there: 1,024 sets of 16 ways in the 4 MiB of a slice (R25; log entry 8). -/
def cacheSlot (line : Nat) : Nat := homeSlice (line * 256) * 1024 + Config.cacheSet line % 1024

/-- A way in which a line can lie: neither used by another line of its set nor disabled. While so few lines and disabled ways exist that
no set can be full, a way that none of them uses is taken. -/
def State.freeWay (s : State) (line : Nat) : Option Nat :=
  if s.lines.length + s.sram.dead.length < 16 then
    (List.range 16).find? fun w => s.lines.all (fun x => x.way != w) && s.sram.dead.all fun d => d.2 != w
  else
    let slot := cacheSlot line
    (List.range 16).find? fun w => s.lines.all (fun x => cacheSlot x.line != slot || x.way != w) && !(s.sram.dead.contains (slot, w))

/-- Makes room for a line in its set: a free way, or that of a line which is evicted, its dirty lanes written back at the QoS of the
access (R118, R166). Which one is a free value. None when that write-back cannot be issued yet. -/
def State.makeRoom (s : State) (line qos : Nat) : State × Option Nat :=
  match s.freeWay line with
  | some w => (s, some w)
  | none =>
    let mine := s.lines.filter fun x => cacheSlot x.line == cacheSlot line
    match mine[Config.victim s.free % mine.length]? with
    | none => (s, none)
    | some v =>
      let t := ({ s with free := s.free + 1 } : State).writeBackLine v qos
      if t.lines.any fun x => x.line == v.line && x.dirty != 0 then (t, none)
      else ({ t with lines := t.lines.filter fun x => x.line != v.line }, some v.way)

/-- Marks lanes of a line as written (write-back, allocation at the grain of a lane, R117). A line that finds no place yet stands beyond
the ways of its set until one is free (log entry 8). -/
def State.touchLine (s : State) (line : Nat) (lanes : Byte) (qos : Nat) : State :=
  if s.lines.any (fun l => l.line == line) then
    { s with lines := s.lines.map fun l => if l.line = line then { l with dirty := l.dirty ||| lanes, held := l.held ||| lanes } else l }
  else
    let x := s.makeRoom line qos
    { x.1 with lines := x.1.lines ++ [⟨line, lanes, lanes, x.2.getD 16⟩] }

/-- The part of [pa, pa + n) in a line: first byte and number of bytes. -/
def partIn (line pa n : Nat) : Nat × Nat := (max pa (line * 256), min (pa + n) (line * 256 + 256) - max pa (line * 256))

/-- A write of bytes at a package-global address: it reaches its home slices, those of another instance as one packet a line (R158, R365);
a write that decodes to the default target is dropped (R117, R175). -/
def State.writeMem (s : State) (pa : Nat) (bs : List Byte) (ini : Initiator := svcIni) : State :=
  if bs.isEmpty || s.isDefault pa then s
  else
    let s : State := { s with mem := s.mem.writeBytes pa bs }
    if s.ownPa pa then (linesOf pa bs.length).foldl (fun s l => s.touchLine l (lanesOf l pa bs.length) ini.qos) s
    else (linesOf pa bs.length).foldl (fun s l =>
      let x := partIn l pa bs.length
      s.sendAway .write x.1 ((bs.drop (x.1 - pa)).take x.2) ini) s

/-- Lays a read sector into memory: the lanes that are not held take the stack's bytes; the line is then held whole. A sector that finds
no place is dropped, and its line is fetched again when it is next asked for. -/
def State.fillLine (s : State) (line : Nat) (data : Row) (qos : Nat) : State :=
  let lay (s : State) (old : Line) : State :=
    let mem := (List.range 8).foldl (fun m k =>
      if old.held.getLsbD k then m else m.writeBytes (line * 256 + 32 * k) ((List.range 32).map fun i => rowByte data (32 * k + i))) s.mem
    { s with mem := mem, lines := ⟨line, old.dirty, 0xFF, old.way⟩ :: s.lines.filter fun l => l.line != line }
  match s.lineAt line with
  | some l => lay s l
  | none =>
    let x := s.makeRoom line qos
    match x.2 with
    | some w => lay x.1 ⟨line, 0, 0, w⟩
    | none => x.1

/-- An uncorrectable error in a line: the second within 2^30 ticks at one place disables the way in that set, and the line leaves it
(R306; its dirty lanes are written back as they are read, log entry 8). -/
def State.cacheError (s : State) (l : Line) (qos : Nat) : State :=
  let k := (cacheSlot l.line, l.way)
  let rest := s.sram.errs.filter fun e => e.1 != k
  if s.sram.errs.any fun e => e.1 == k && decide (s.clk.gtc.toNat < e.2.toNat + 2 ^ 30) then
    let s := ({ s with sram := { s.sram with errs := rest, dead := k :: s.sram.dead } } : State).writeBackLine l qos
    { s with lines := s.lines.filter fun x => x.line != l.line }
  else { s with sram := { s.sram with errs := (k, s.clk.gtc) :: rest } }

/-- What SECDED finds on a read of a line at its home slice (R97, R293): structure 0x04, by its word index within the slices of the
quadrant. -/
def State.cacheEcc (s : State) (line qos : Nat) (ecc : Ecc) : State :=
  let src := BitVec.ofNat 16 (sliceQuad (homeSlice (line * 256))).val
  let addr (l : Line) : Nat := ((cacheSlot line % 4096) * 16 + l.way) * 32
  match ecc, s.lineAt line with
  | .ok, _ => s
  | .corrected, some l => s.report lvlQuadrant src clsEcc .corrected (s.detM (addr l) 4)
  | .corrected, none => s.report lvlQuadrant src clsEcc .corrected (s.detM 0 4)
  | .uncorr, some l => (s.cacheError l qos).uncorr lvlQuadrant src (addr l) 4
  | .uncorr, none => s.uncorr lvlQuadrant src 0 4

/-- An uncorrectable error in a stash slice or a table: firmware maps a spare row for it at the next step boundary (R306). -/
def State.tableUncorr (s : State) (level : BitVec 4) (src : BitVec 16) (addr struct : Nat) : State :=
  ({ s with sram := { s.sram with todo := s.sram.todo ++ [(level, src, addr, struct)] } } : State).uncorr level src addr struct

/-- A memory access of a Trisia command fails with its transaction: FAULT with code UNCORR (R353, R357, log entry 71). -/
def Mbox.memFails (x : Mbox) (t : Txn) : Mbox :=
  let mine (ls : List Nat) : Bool := (List.range t.len).any fun i => ls.contains (t.line + i)
  let fails (r : MReq) : Bool :=
    match r.wait with
    | .fill ls => !t.write && mine ls
    | .flush ls => t.write && mine ls
    | _ => false
  { x with cur := x.cur.map fun r => if fails r then { r with resp := some ⟨0x0011, 0x0E, []⟩, wait := .none } else r }

/-- An uncorrectable answer or a timeout of a transaction: it ends and the step is voided (R63, R293). -/
def State.mspUncorr (s : State) (m : Fin 6) (t : Txn) (struct : Nat) : State :=
  let s := s.modMsp m fun y => { y with txns := y.txns.filter (·.id ≠ t.id) }
  ({ s with mbs := s.mbs.map fun x => x.memFails t } : State).uncorr lvlMsp (BitVec.ofNat 16 m.val) (t.line * 256) struct

def State.mspCorrected (s : State) (m : Fin 6) (t : Txn) (struct : Nat) : State :=
  s.report lvlMsp (BitVec.ofNat 16 m.val) clsMemcorr .corrected (s.detM (t.line * 256) struct)

/-- A violation on an MSP (R74, R75): the fence makes its outstanding transactions uncorrectable and loses the instance. -/
def State.mspViolation (s : State) (m : Fin 6) (no ident : Nat) : State :=
  let v := s.recentViols 1 (s.msps.get m).viols ++ [s.clk.gtc]
  let s' := s.modMsp m fun y => { y with viols := v }
  if (s.msps.get m).fenced then s'
  else
    let s' := s'.report lvlMsp (BitVec.ofNat 16 m.val) 0x0D .info (detP no 0 ident)
    if fenceLimit s' 1 ≤ v.length then
      let s' := s'.report lvlMsp (BitVec.ofNat 16 m.val) 0x11 .instfatal (detP no 1 ident)
      let s' := s'.modMsp m fun y => { y with fenced := true }
      ((s'.msps.get m).txns.foldl (fun s t => s.mspUncorr m t (if t.write then 0x0C else 0x0B)) s').instFatal 0x01
    else s'

/-- A read sector (R61-R63, R74 nos. 8-10). -/
def State.mspRead (s : State) (m : Fin 6) (id : BitVec 12) (seq : BitVec 4) (status : BitVec 2) (data : Row) : State :=
  match (s.msps.get m).txns.find? fun t => t.id == id && !t.write with
  | none => s.mspViolation m 8 id.toNat
  | some t =>
    if decide (t.len ≤ seq.toNat) || t.got.getLsbD seq.toNat then s.mspViolation m 9 id.toNat
    else if status = 3 then (s.mspUncorr m t 0x0B).mspViolation m 10 id.toNat
    else if status = 2 then s.mspUncorr m t 0x0B
    else
      let s := if status = 1 then s.mspCorrected m t 0x0B else s
      let got := t.got ||| (1 <<< seq.toNat)
      let all : Bool := got == BitVec.ofNat 16 (2 ^ t.len - 1)
      let s := s.modMsp m fun y =>
        if all then { y with txns := y.txns.filter (·.id ≠ id) }
        else { y with txns := y.txns.map fun x => if x.id = id then { x with got := got } else x }
      s.fillLine (t.line + seq.toNat) data t.qos.toNat

/-- A write response (R61-R63, R74 nos. 8, 10). -/
def State.mspWritten (s : State) (m : Fin 6) (id : BitVec 12) (status : BitVec 2) : State :=
  match (s.msps.get m).txns.find? fun t => t.id == id && t.write with
  | none => s.mspViolation m 8 id.toNat
  | some t =>
    if status = 3 then (s.mspUncorr m t 0x0C).mspViolation m 10 id.toNat
    else if status = 2 then s.mspUncorr m t 0x0C
    else
      let s := if status = 1 then s.mspCorrected m t 0x0C else s
      s.modMsp m fun y => { y with txns := y.txns.filter (·.id ≠ id) }

/-- A transaction that has not fully answered within MSP_TIMEOUT (R63). -/
def State.mspLate (s : State) (m : Fin 6) (id : BitVec 12) (now : Tick) : State :=
  let s := s.atTick now
  match (s.msps.get m).txns.find? fun t => t.id == id with
  | none => s
  | some t => if t.issued.toNat + s.job.mspTimeout ≤ s.clk.gtc.toNat then s.mspUncorr m t 0x0D else s

/-- The identity reads of start-up end with the last stack (R401): BIST of the cells begins, and every Wiquin port of a die that is not
BLANK begins training (R366, R404). -/
def State.identsEnd (s : State) : State :=
  if s.pkg.settled || !s.msps.all (·.idDone) then s
  else
    let s := (allCells.filter fun p => (s.cell p).toTest && (s.cell p).pwr == .wiping).foldl (fun s p => s.setPwr p .bist) s
    if s.pins.life == .blank then s else { s with pkg := { s.pkg with wq := s.pkg.wq.map fun (w : Wq) => if w.st = .down then { w with st := .training } else w } }

/-- An identity word of the sideband (R64); one that was not asked for is a violation (R74 no. 8). -/
def State.mspIdent (s : State) (m : Fin 6) (data : Word) : State :=
  let x := s.msps.get m
  if x.idDone || x.absent then s.mspViolation m 8 0
  else
    let ws := x.ident ++ [data]
    let done := ws.length = 4
    let s := s.modMsp m fun y => { y with ident := ws, idDone := done, absent := done && bf ((ws[0]?).getD 0) 0 16 == 0 }
    if done then s.identsEnd else s.out (.mspIdReq m.val (BitVec.ofNat 2 ws.length))

/-- No acknowledgement within 1 ms: the port has no stack (R64). -/
def State.mspNoIdent (s : State) (m : Fin 6) : State :=
  if (s.msps.get m).idDone || s.asleep then s else (s.modMsp m fun y => { y with absent := true, idDone := true }).identsEnd

/-! ### Default target (R175, R176) -/

/-- An answer of the default target to an initiator of a quadrant. -/
def State.defaultAnswer (s : State) (q : QuadNo) (addr : PAddr) (port : BitVec 5) (write : Bool) : State :=
  (s.report lvlQuadrant (BitVec.ofNat 16 q.val) 0x0C .info (detD addr port write)).modQuad q fun x =>
    if x.decerr.isSome then x else { x with decerr := some (port, addr) }

/-! ### Pools (R167-R170, R173, R174) -/

/-- A packet on a memory path whose wait for a pool or credit, at whatever port, reaches MSP_TIMEOUT (R174): a tick is 1 ns (R9). -/
def State.waitsTooLong (s : State) (nclk : Nat) (p : Packet) : Bool :=
  p.mem && s.pins.nclkMHz != 0 && decide (s.job.mspTimeout * s.pins.nclkMHz.toNat ≤ (nclk - p.entry) * 1000)

/-- Such packets end as a transaction that times out does: the step is voided (R63, R174). -/
def State.poolTimeouts (s : State) (target nclk : Nat) : State :=
  let late := (waitingAt s.net.pools target ++ waitingAt s.net.held target).filter (s.waitsTooLong nclk)
  if late.isEmpty then s
  else
    let rest (l : List (Nat × List Packet)) := setWaiting l target ((waitingAt l target).filter fun p => !late.contains p)
    let s := { s with net := { s.net with pools := rest s.net.pools, held := rest s.net.held } }
    late.foldl (fun s p => s.uncorr lvlMsp (BitVec.ofNat 16 (match s.interleave (paLocal p.addr.toNat) with | some x => x.1.val | none => 0)) p.addr.toNat 0x0D) s

/-- One grant of a target port: waiting packets that it takes enter the pool, at most 64, and the initiators hold the rest (R168, R174);
the best candidate leaves it, and MAXWAIT keeps the longest wait in units of 64 NCLK (R170). -/
def State.grant (s : State) (target nclk : Nat) (arrivals : List Packet) (credits : List VChan) : State :=
  let s := s.poolTimeouts target nclk
  let old := waitingAt s.net.pools target
  let comes := waitingAt s.net.held target ++ (arrivals.filter (s.reaches target)).map fun p => { p with entry := nclk }
  let pool := old ++ (comes.take (64 - old.length)).map fun p => { p with entry := nclk }
  let period := 2 ^ (s.quad ((targetQuad target).getD 0)).period.toNat
  let s := { s with net := { s.net with held := setWaiting s.net.held target (comes.drop (64 - old.length)) } }
  let put (s : State) (l : List Packet) : State := { s with net := { s.net with pools := setWaiting s.net.pools target l } }
  match bestPacket nclk period (candidates pool credits) with
  | none => put s pool
  | some p =>
    let s := (put s (pool.erase p)).out (.packet target (packetSent p target) (s.packetPort target p))
    match targetQuad target with
    | none => s
    | some q => s.modQuad q fun x => { x with maxwait := BitVec.ofNat 16 (max x.maxwait.toNat (satTo 0xFFFF ((nclk - p.entry) / 64))) }

/-- Packets that wait for an output onto a segment that is taken out of service turn to the other direction (R179). -/
def State.turnRound (s : State) (n : Fin 11) (up : Bool) : State :=
  let out := ringOut n up
  let other := ringOut n (!up)
  let l := waitingAt s.net.pools out ++ waitingAt s.net.held out
  { s with net := { s.net with
      pools := setWaiting s.net.pools out []
      held := setWaiting (setWaiting s.net.held out []) other (waitingAt s.net.held other ++ l) } }

/-! ### Links (R178, R179, R372) -/

/-- Source of a report about a link (R328, R331). -/
def linkSrc (l : Link) : BitVec 4 × BitVec 16 :=
  match l with
  | .matrixCell p => (lvlCell, srcCell p)
  | .matrixPort q _ => (lvlQuadrant, BitVec.ofNat 16 q.val)
  | .station _ => (lvlInstance, 0)
  | .spine n _ => (lvlSpine, BitVec.ofNat 16 n.val)
  | .wiquin w => (lvlWiquin, BitVec.ofNat 16 w.val)
  | .remote => (lvlInstance, 0)

/-- Kind and number of a link in layout L (R331). A link between others has no port of this instance (log entry 77). -/
def linkNo (l : Link) : Nat × Nat :=
  match l with
  | .matrixCell p => (1, p.val % 17)
  | .matrixPort _ n => (1, n.toNat)
  | .station n => (3, n.val)
  | .spine n _ => (2, n.val)
  | .wiquin w => (4, w.val)
  | .remote => (4, 0xFF)

def State.linkReport (s : State) (l : Link) (cls : Byte) (sev : Sev) (replays : Nat) : State :=
  let src := if (linkSrc l).1 = lvlInstance then s.pins.instanceId.setWidth 16 else (linkSrc l).2
  s.report (linkSrc l).1 src cls sev (detL (linkNo l).1 (linkNo l).2 (satTo 0xFF replays))

/-- Failed replays in a row of the flit that a link carries. -/
def State.linkFails (s : State) (l : Link) : Nat := ((s.net.links.find? (·.1 == l)).map (·.2)).getD 0

def State.setLinkFails (s : State) (l : Link) (n : Nat) : State :=
  { s with net := { s.net with links := (if n = 0 then [] else [(l, n)]) ++ s.net.links.filter fun x => x.1 != l } }

def State.modWq (s : State) (w : Fin 4) (f : Wq → Wq) : State := { s with pkg := { s.pkg with wq := s.pkg.wq.set w (f (s.pkg.wq.get w)) } }

/-- Is any Wiquin link UP? -/
def State.anyWqUp (s : State) : Bool := (List.finRange 4).any fun w => (s.pkg.wq.get w).st == .up

/-- Joined instances other than this one. -/
def State.others (s : State) : List Nat := (List.range 8).filter fun i => s.pkg.present.getLsbD i && i != s.pins.instanceId.toNat

/-- P commands under way have lost an instance (R354). `pkg` says which opcodes have scope P. -/
def Mbox.loses (pkg : Nat → Bool) (i : BitVec 3) (x : Mbox) : Mbox :=
  { x with cur := x.cur.map fun r => if r.started && r.lost.isNone && pkg (bf r.req 0 16) then { r with lost := some i } else r }

/-- Opcodes of the commands of scope P (R357). -/
def pkgOps : List Nat :=
  [0x0004, 0x0100, 0x0106, 0x0107, 0x0108, 0x0109, 0x010A, 0x010B, 0x010C, 0x010D, 0x0200, 0x0201, 0x0202, 0x0203, 0x0204, 0x0205, 0x0306]

/-- The master treats instances as lost (R372): they leave PRESENT, of which every other one is told (R39, R373), no longer wait to join,
and P commands under way end with ABORTED (R354). -/
def State.dropLost (s : State) (lost : List Nat) : State :=
  let p : BitVec 8 := lost.foldl (fun a i => a &&& ~~~((1 : BitVec 8) <<< i)) s.pkg.present
  let mbs := match lost.head? with | some i => s.mbs.map (Mbox.loses pkgOps.contains (BitVec.ofNat 3 i)) | none => s.mbs
  (({ s with pkg := { s.pkg with present := p, late := s.pkg.late.filter fun i => !lost.contains i.toNat }, mbs := mbs } : State).out
    (.wiquin none 5 (p.setWidth 64))).geoRewrite

/-- What a lost Wiquin link does to the package (R75, R372). `reach` names the instances that this one still reaches under R369: an instance
that has lost the master stops; the master holds when it has lost an instance. Else the step is voided for a link of this instance; one
between others is reported and voided for at its own ends. Cause 0x05, which R300 names for a spine link, is taken for them all (DESIGN
CHOICE, log entry 112). -/
def State.afterReach (s : State) (l : Link) (fails : Nat) (reach : BitVec 8) : State :=
  let lost := s.others.filter fun i => !(s.anyWqUp && reach.getLsbD i)
  if !s.isMaster && lost.contains s.pkg.master.toNat then
    let s := s.linkReport l clsNetlink .instfatal fails
    (({ s with glob := { s.glob with halt := true } } : State).geoRewrite).instFatal 0x05
  else if s.isMaster && !lost.isEmpty then
    let s := (s.linkReport l clsNetlink .instfatal fails).dropLost lost
    ({ s with job := { s.job with hbOn := false } } : State).wantHold 0x05
  else if l = .remote then s
  else ((s.linkReport l clsNetlink .stepvoid fails).geoRewrite).beginVoid 0x05

/-- A Wiquin link of this instance goes down in service (R75, R372). -/
def State.wqDown (s : State) (w : Fin 4) (st : WqState) (reach : BitVec 8) : State :=
  (s.modWq w fun x => { x with st := st }).afterReach (.wiquin w) (s.linkFails (.wiquin w)) reach

/-- The link of a matrix port that is a cell's is that cell's link (R160). -/
def linkOf (l : Link) : Link :=
  match l with
  | .matrixPort q n => if h : n.toNat < 17 then .matrixCell ⟨17 * q.val + n.toNat, by omega⟩ else l
  | l => l

/-- An attachment is lost: the instance stops (R179). -/
def State.attachLost (s : State) (l : Link) (fails : Nat) : State := (s.linkReport l clsNetlink .instfatal fails).instFatal 0x05

/-- A link has failed (R179). Of a spine segment both directions go out of service with one. The route engine's and the bridge's port
stop the instance as an attachment does (DESIGN CHOICE, log entry 79); R160 gives no port above 25. -/
def State.linkDown (s : State) (link : Link) (reach : BitVec 8) : State :=
  let l := linkOf link
  if s.net.deadLinks.contains l then s
  else
    let fails := s.linkFails l
    let s' := { s with net := { s.net with deadLinks := l :: s.net.deadLinks } }
    match l with
    | .matrixCell p => (((s'.fence ⟨p, false⟩ 0 4 0).fence ⟨p, true⟩ 0 4 0).retireCell p 3)
    | .matrixPort _ n => if n.toNat ≤ bridgePortNo then s'.attachLost l fails else s
    | .station _ => s'.attachLost l fails
    | .spine n up =>
      match s'.net.open1 with
      | some m => if m = n then s' else s'.attachLost l fails
      | none =>
        let s' := { s' with net := { s'.net with open1 := some n, deadLinks := .spine n (!up) :: s'.net.deadLinks } }
        let s' := (s'.turnRound n true).turnRound (n + 1) false
        (s'.linkReport l clsNetlink .stepvoid fails).beginVoid 0x05
    | .wiquin w => if (s.pkg.wq.get w).st = .up then s'.wqDown w .failed reach else s'
    | .remote => ({ s with net := { s.net with topo := s.net.topo + 1 } } : State).afterReach .remote 8 reach

/-- A flit fails its CRC (R178), which a link between others shows at its own ends: a replay that succeeds records FLITCRC and counts on a Wiquin port (R367); the eighth
replay in a row that does not fails the link (R179). -/
def State.flitFail (s : State) (link : Link) (replayed : Bool) (reach : BitVec 8) : State :=
  let l := linkOf link
  if s.net.deadLinks.contains l || l == .remote then s
  else if replayed then
    let s := (s.linkReport l clsFlitcrc .corrected (s.linkFails l + 1)).setLinkFails l 0
    match l with
    | .wiquin w => s.modWq w fun x => { x with replays := BitVec.ofNat 16 (satTo 0xFFFF (x.replays.toNat + 1)) }
    | _ => s
  else
    let s := s.setLinkFails l (s.linkFails l + 1)
    if 8 ≤ s.linkFails l then s.linkDown l reach else s

end Sys2Proof.Machine
end

