-- ==== Sys2Proof/Machine/LoadStore.lean ====
section
/-! DEFINITION. TLOAD and TSTORE (04_tile_load_store.md): checks, translation of rows, rows moved in ascending order, stops
at a row boundary and resume records. -/

namespace Sys2Proof.Machine

/-- Checks of R112 for a tile configuration and a row count N. -/
def lsCheck (store : Bool) (c : Cmd) (k : TileCfg) (inUse : Bool) (n : Nat) : Code :=
  if store && !inUse then .tnotvalid
  else if c.va % 32 ≠ 0 || c.stride % 32 ≠ 0 then .align
  else if 2 ^ 48 < c.va + (n - 1) * c.stride + k.bytes then .align
  else if store && decide (1 < n) && decide (c.stride < k.bytes) then .tshape
  else .ok

/-- A command matches the tile's resume record (R122). -/
def resumeMatches (store : Bool) (c : Cmd) (r : Resume) : Bool := r.store == store && r.va == c.va && r.stride == c.stride

/-- Starts a TLOAD or TSTORE: checks, starting row, and at once the end of one that has no row to move (R112, R122). -/
def State.startLs (s : State) (e : EPort) (c : Cmd) : State :=
  let store := c.op == opTSTORE
  let t := c.tileNo
  if !ownFile e.sep t then s.complete e c .tnotvalid (tileDetail t)
  else match (s.cell e.p).tile? t with
    | none => s.complete e c .tnotvalid (tileDetail t)
    | some x =>
      match x.cfg with
      | none => s.complete e c .tnotvalid (tileDetail t)
      | some k =>
        let n := if store then x.valid else k.rows
        let code := lsCheck store c k x.inUse n
        if code = .align then s.complete e c .align (c.beat.extractLsb' 32 32)
        else if code ≠ .ok then s.complete e c code (tileDetail t)
        else
          let start := match x.resume with | some r => if resumeMatches store c r then r.row else 0 | none => 0
          let s := s.modCell e.p fun y => y.dropResume t
          if n ≤ start then s.complete e c .ok 0
          else s.putCmd e { c with ls := some { store := store, va := c.va, stride := c.stride, start := start, next := start, n := n } }

/-- First address of a row (R109). -/
def LsProg.rowVa (p : LsProg) (r : Nat) : Nat := p.va + r * p.stride

/-- DETAIL of a translation stop: VA[47:16] (R52, R115). -/
def vaDetail (va : Nat) : Word := BitVec.ofNat 32 (va / 2 ^ 16)

/-- TF_ROWSTART of a stop (R124). -/
def rowStartWord (sep store : Bool) (t : TileNo) (code : Code) (row : Nat) : Word :=
  BitVec.ofNat 32 (0x80000000 + bitAt sep 30 + bitAt store 29 + t.toNat * 2 ^ 24 + code.byte.toNat * 2 ^ 16 + row % 128)

/-- A stop at a row boundary: resume record, TF_ROWSTART, completion (R119, R121, R124). -/
def State.stopLs (s : State) (e : EPort) (c : Cmd) (p : LsProg) (code : Code) (detail : Word) : State :=
  let t := c.tileNo
  let s := s.modCell e.p fun x =>
    { x.modTile t fun y => { y with resume := some ⟨p.store, p.va, p.stride, p.next⟩ } with
      rowStart := rowStartWord e.sep p.store t code p.next }
  s.complete e c code detail p.next

/-- What follows once no row of a command can move: its end, or the stop at the lowest faulting row (R118, R119). -/
def State.lsAfter (s : State) (e : EPort) (c : Cmd) (p : LsProg) : State :=
  if p.n ≤ p.next then s.complete e c .ok 0
  else match p.fault with
    | some f => if f.1 = p.next then s.stopLs e c p f.2.1 f.2.2 else s.putCmd e { c with ls := some p }
    | none => s.putCmd e { c with ls := some p }

/-- Keeps the lowest faulting row; rows at or above it are discarded (R119, R125). -/
def LsProg.addFault (p : LsProg) (row : Nat) (code : Code) (detail : Word) : LsProg :=
  match p.fault with
  | some f => if f.1 ≤ row then p else { p with fault := some (row, code, detail), held := p.held.filter fun h => decide (h.1 < row) }
  | none => { p with fault := some (row, code, detail), held := p.held.filter fun h => decide (h.1 < row) }

/-- The running TLOAD or TSTORE of a tag with a row it has still to move below its fault. -/
def State.lsRow (s : State) (e : EPort) (tag : Byte) (row : Nat) (store : Bool) : Option (Cmd × LsProg) :=
  match (s.port e).find tag with
  | none => none
  | some c =>
    match c.ls with
    | none => none
    | some p =>
      if c.started && p.store == store && decide (p.next ≤ row) && decide (row < p.n)
        && (match p.fault with | some f => decide (row < f.1) | none => true) then some (c, p) else none

/-- Translations of the pages that [va, va + n) touches: pieces, or the lowest failing address with its answer (R115). -/
def State.xlateAll (s : State) (q : QuadNo) (write : Bool) : List (Nat × Nat) → List (Nat × Nat) × Option (Nat × Xlate)
  | [] => ([], none)
  | x :: r =>
    match s.xlate q x.1 write with
    | .pa a => let y := s.xlateAll q write r; ((a, x.2) :: y.1, y.2)
    | f => ([], some (x.1, f))

/-- Entries of the page tables that the walks for these addresses read, in order (R113, R116). -/
def State.walkReads (s : State) (q : QuadNo) (ps : List (Nat × Nat)) : List Nat := ps.flatMap fun x => (s.walkFor q x.1).2

/-- The first entry that a walk needs and whose line is not at its home slice: it is fetched first (R116). -/
def State.walkMiss (s : State) (q : QuadNo) (ps : List (Nat × Nat)) : Option Nat :=
  (s.walkReads q ps).find? fun pa => !s.lineReady (pa / 256) pa 8

/-- An ATU keeps the pointers and the valid leaf of a walk (R116). -/
def State.keepWalk (s : State) (q : QuadNo) (va : Nat) : State :=
  let ws := (s.walkFor q va).1
  let pick := Config.victim s.free
  let t := (s.took ((s.walkFor q va).2.map fun a => (a, 8))).modQuad q fun y =>
    { y with tlb := (match s.leafFor q va with | .leaf l => keepLeaf pick l y.tlb | _ => y.tlb)
             walks := ws.foldl (fun l w => keepIn walkCap pick w l) y.walks }
  { t with free := t.free + 1 }

def State.cacheLeaves (s : State) (q : QuadNo) (ps : List (Nat × Nat)) : State := ps.foldl (fun s x => s.keepWalk q x.1) s

/-- What SECDED finds on the reads of a walk: the entry at which it ends, if it reads one (R97, R115). -/
def State.walkEcc (s : State) (reads : List Nat) (qos : Nat) (ecc : Ecc) : State :=
  match reads.getLast? with | some pa => s.cacheEcc (pa / 256) qos ecc | none => s

/-- A command that an uncorrectable error leaves outstanding (no step was in progress, so nothing was voided, R294)
completes with UNCORR (R52). -/
def State.failUncorr (s : State) (e : EPort) (tag : Byte) : State :=
  match (s.port e).find tag with
  | some c => (s.cancelStash c.stash).complete e c .uncorr (s.step.count.setWidth 32) (match c.ls with | some p => p.next | none => 0)
  | none => s

/-- A command asks for pieces of memory that are not at hand; it completes with UNCORR where they are denied (R75, R115). -/
def State.seekRow (s : State) (e : EPort) (tag : Byte) (ps : List (Nat × Nat)) (ini : Initiator) : State :=
  let t := s.fetchPieces ps ini
  if s.denies ps then t.failUncorr e tag else t

/-- Rows of a command that are issued and not yet moved. -/
def LsProg.inFlight (p : LsProg) : Nat := p.start + p.segs.length - p.next

/-- Rows in flight for a cell (R117). -/
def State.rowsInFlight (s : State) (c : PCell) : Nat :=
  ((s.cell c).dep.cmds ++ (s.cell c).sep.cmds).foldl (fun a x => a + (match x.ls with | some p => p.inFlight | none => 0)) 0

/-- The ATU translates one row of a command (R113-R116): the lowest that is not issued, while fewer than 64 are in flight for the cell
(R117). Where a row crosses pages and the first page's address decodes to no target while the second page faults in translation, the
translation fault is reported: R115 does not order the two (DESIGN CHOICE, log entry 110). Table entries come through the operand cache at
QoS 13; a load's lines that miss are requested from their stacks. -/
def State.rowWalk (s : State) (e : EPort) (tag : Byte) (row : Nat) (store : Bool) (ecc : Ecc) : State :=
  let q := quadOf e.p
  match s.lsRow e tag row store with
  | none => s
  | some (c, p) =>
    let n := match s.cfgOf e.p c.tileNo with | some k => k.bytes | none => 0
    let ps := pagePieces (p.rowVa row) n
    if row ≠ p.start + p.segs.length || decide (64 ≤ s.rowsInFlight e.p) then s
    else match s.walkMiss q ps with
      | some pa => s.seekRow e tag [(pa, 8)] (engineIni (quadOf e.p) 13)
      | none =>
        let reads := s.walkReads q ps
        if ecc = .uncorr && !reads.isEmpty then (s.walkEcc reads 13 ecc).failUncorr e tag
        else
          let s := (s.walkEcc reads 13 ecc).cacheLeaves q ps
          let x := s.xlateAll q store ps
          match x.2 with
          | none =>
            let s := s.putCmd e { c with ls := some { p with segs := p.segs ++ [(row, linePieces x.1)] } }
            if store then s else s.seekRow e tag x.1 (cellIni e.p 13)
          | some (bad, .fault code) => s.lsAfter e c (p.addFault row code (vaDetail bad))
          | some (bad, .decerr a) =>
            (s.defaultAnswer q (BitVec.ofNat 52 a) 24 false).lsAfter e c (p.addFault row .decerr (vaDetail bad))
          | some (_, .pa _) => s

/-- Moves the rows that have arrived in order into the tile (R110, R117). -/
def State.landRows (e : EPort) (t : TileNo) : Nat → State → LsProg → State × LsProg
  | 0, s, p => (s, p)
  | fuel + 1, s, p =>
    match p.held.find? fun h => h.1 == p.next with
    | none => (s, p)
    | some h =>
      let s := s.modCell e.p fun x =>
        ((x.modTile t fun y => y.writeRow p.next h.2).forget t).cancelBack t fun r => r == BitVec.ofNat 7 p.next
      landRows e t fuel s { p with next := p.next + 1, held := p.held.filter fun h => h.1 != p.next }

/-- A row of a TLOAD arrives at its cell router (R110, R117). -/
def State.loadRow (s : State) (e : EPort) (tag : Byte) (row : Nat) (ecc : Ecc) : State :=
  match s.lsRow e tag row false with
  | none => s
  | some (c, p) =>
    match p.segs.find? fun x => x.1 == row with
    | none => s
    | some seg =>
      if p.held.any (fun h => h.1 == row) || seg.2.any (fun x => s.isDefault x.1) then s
      else if !s.piecesReady seg.2 then s.seekRow e tag seg.2 (cellIni e.p 13)
      else
        let s := (s.took seg.2).walkEcc (seg.2.map (·.1)) 13 ecc
        if ecc = .uncorr then s.failUncorr e tag
        else
          let data := rowOf (seg.2.flatMap fun x => s.readMem x.1 x.2)
          let y := State.landRows e c.tileNo 128 s { p with held := p.held ++ [(row, data)] }
          y.1.lsAfter e c y.2

/-- Byte of the row at which a piece begins. -/
def pieceOff (ps : List (Nat × Nat)) (k : Nat) : Nat := (ps.take k).foldl (fun a x => a + x.2) 0

/-- Writes some pieces of a row at their home slices (R111, R117). -/
def State.writePieces (s : State) (p : PCell) (ps : List (Nat × Nat)) (bytes : List Byte) (ks : List Nat) : State :=
  ks.foldl (fun s k => match ps[k]? with
    | some x => s.writeMem x.1 ((bytes.drop (pieceOff ps k)).take x.2) (cellIni p 13)
    | none => s) s

/-- Pieces of the lowest row of a store that are not yet written. -/
def LsProg.openParts (p : LsProg) (ps : List (Nat × Nat)) : List Nat := (List.range ps.length).filter fun k => !p.parts.contains k

/-- The bytes of a row of a store in the tile. -/
def State.storeBytes (s : State) (e : EPort) (c : Cmd) (row : Nat) (ps : List (Nat × Nat)) : List Byte :=
  match (s.cell e.p).tile? c.tileNo with
  | some t => rowBytes (t.rowAt row) (pieceOff ps ps.length)
  | none => []

/-- Does a store read a row of its tile? One that is not written is zeros and is not read (R87, R111). -/
def State.storeReads (s : State) (e : EPort) (t : TileNo) (row : RowNo) : Bool :=
  match (s.cell e.p).tile? t with | some x => decide (row.toNat < x.valid) && x.written.getLsbD row.toNat | none => false

/-- A part of the lowest row of a TSTORE reaches its home slice; the row has moved with its last part (R111, R117, R120). The row is read
from the tile for its first part. -/
def State.storeRow (s : State) (e : EPort) (tag : Byte) (row : RowNo) (piece : Nat) (ecc : Ecc) : State :=
  match s.lsRow e tag row.toNat true with
  | none => s
  | some (c, p) =>
    match p.segs.find? fun x => x.1 == row.toNat with
    | none => s
    | some seg =>
      if row.toNat ≠ p.next || seg.2.any (fun x => s.isDefault x.1) || !(p.openParts seg.2).contains piece then s
      else
        let ecc := if p.parts.isEmpty && s.storeReads e c.tileNo row then ecc else .ok
        if ecc = .uncorr then (s.rowUncorr e.p c.tileNo row).failUncorr e tag
        else
          let s := s.rowEcc e.p c.tileNo row ecc
          let s := s.writePieces e.p seg.2 (s.storeBytes e c row.toNat seg.2) [piece]
          let p := { p with parts := p.parts ++ [piece] }
          if (p.openParts seg.2).isEmpty then s.lsAfter e c { p with next := p.next + 1, parts := [] }
          else s.putCmd e { c with ls := some p }

/-- The default target answers a row (R115, R175): the row faults with DECERR. No fault leaves part of a row written (R120). -/
def State.rowDefault (s : State) (e : EPort) (tag : Byte) (row : Nat) (store : Bool) (addr : Nat) : State :=
  match s.lsRow e tag row store with
  | none => s
  | some (c, p) =>
    let va := p.rowVa row
    let n := match s.cfgOf e.p c.tileNo with | some k => k.bytes | none => 0
    let off := match (p.segs.find? fun x => x.1 == row) with
      | some seg => (seg.2.foldl (fun (a : Nat × Option Nat) x =>
          (a.1 + x.2, if a.2.isNone && x.1 / 256 == addr / 256 then some a.1 else a.2)) (0, none)).2.getD 0
      | none => 0
    if n = 0 || (row == p.next && !p.parts.isEmpty) then s else s.lsAfter e c (p.addFault row .decerr (vaDetail (va + off)))

/-- A store writes the rest of a row of which a part is written (R120). -/
def State.finishRow (s : State) (e : EPort) (c : Cmd) (p : LsProg) : State × LsProg :=
  match p.segs.find? fun x => x.1 == p.next with
  | some seg =>
    if p.parts.isEmpty then (s, p)
    else (s.writePieces e.p seg.2 (s.storeBytes e c p.next seg.2) (p.openParts seg.2), { p with next := p.next + 1, parts := [] })
  | none => (s, p)

/-- A preempt request reaches a cell: running TLOADs and TSTOREs stop at a row boundary (R119, R120); where the next row has faulted, the
command stops with the code of the fault (R125). -/
def State.preemptPort (s : State) (e : EPort) : State :=
  ((s.port e).cmds.filter fun c => c.started && c.ls.isSome).foldl
    (fun s c => match c.ls with
      | some p =>
        let x := s.finishRow e c p
        if x.2.n ≤ x.2.next then x.1.complete e c .ok 0
        else match x.2.fault with
          | some f => if f.1 = x.2.next then x.1.stopLs e c x.2 f.2.1 f.2.2 else x.1.stopLs e c x.2 .preempt 0
          | none => x.1.stopLs e c x.2 .preempt 0
      | none => s) s

def State.preemptCell (s : State) (p : PCell) : State := (s.preemptPort ⟨p, false⟩).preemptPort ⟨p, true⟩

end Sys2Proof.Machine
end

