-- ==== Sys2Proof/Machine/Stash.lean ====
section
/-! DEFINITION. The stash (R230-R249): placement, spill and refill, puts and gets of ports and runs. -/

namespace Sys2Proof.Machine

/-! ### Placement (R231, R239-R243) -/

/-- Home quadrant of a logical cell (R239). -/
def State.homeQuad (s : State) (l : LCell) : QuadNo :=
  match s.job.home[l.toNat]? with
  | some (some q) => q
  | _ => ⟨l.toNat / 16, by have := l.isLt; omega⟩

/-- Stash slice that LOC names (R232). -/
def SEntry.slice (x : SEntry) : Nat := bf x.loc 16 3

/-- Bytes of a stash slice (R160, R239): 12 MiB. -/
def sliceBytes : Nat := 12 * 2 ^ 20

def State.sliceUsed (s : State) (k : Nat) : Nat :=
  (s.stash.entries.filter fun x => !x.spilled && x.placed && x.slice == k).foldl (fun a x => a + x.size) 0

def State.sliceFree (s : State) (k : Nat) : Nat := sliceBytes - s.sliceUsed k

/-- The home slice with more free bytes, slice 2q when both have the same (R239). -/
def State.pickSlice (s : State) (q : QuadNo) : Nat :=
  if s.sliceFree (2 * q.val) < s.sliceFree (2 * q.val + 1) then 2 * q.val + 1 else 2 * q.val

def State.fits (s : State) (q : QuadNo) (size : Nat) : Bool := decide (size ≤ s.sliceFree (s.pickSlice q))

def State.modEntry (s : State) (uid : Nat) (f : SEntry → SEntry) : State :=
  { s with stash := { s.stash with entries := s.stash.entries.map fun x => if x.uid = uid then f x else x } }

def State.entry? (s : State) (uid : Nat) : Option SEntry := s.stash.entries.find? fun x => x.uid == uid

/-- Entries that a spill may move, oldest put first: those of the home slices whose get has not started (R240). An entry that a later put
of its key has retired and one whose rows are still coming are among them. -/
def State.movable (s : State) (q : QuadNo) : List SEntry :=
  s.stash.entries.filter fun x => x.placed && !x.spilled && !x.mark && !x.getting && x.slice / 2 == q.val

/-- A choice among places that the manual leaves open (log entry 20). -/
def pickOf (l : List Nat) (k : Nat) : Option Nat := match l with | [x] => some x | l => l[k % l.length]?

/-- Offsets in the spill region, in units of 256 B, at which `size` bytes can lie: its beginning and the ends of the entries that lie there,
as far as the place is free and within the region (R232, R243). -/
def State.spillPlaces (s : State) (size : Nat) : List Nat :=
  let out := (s.stash.entries.filter fun x => x.spilled).map fun x => (x.loc.toNat, x.loc.toNat + x.size / 256)
  let n := size / 256
  let cap := min s.glob.spillSize.toNat 0x01000000 * 256
  (0 :: out.map (·.2)).filter fun o => decide (o + n ≤ cap) && out.all fun y => decide (o + n ≤ y.1) || decide (y.2 ≤ o)

/-- Package-global address of a spilled entry (R240). -/
def State.spillPa (s : State) (x : SEntry) : Nat := s.glob.spillBase.toNat + x.loc.toNat * 256

/-- The rows of an entry as its bytes, and back. -/
def SEntry.bytesOf (x : SEntry) (rows : List Row) : List Byte := rows.flatMap fun r => rowBytes r x.cfg.bytes
def SEntry.rowsFrom (x : SEntry) (bs : List Byte) : List Row :=
  (List.range x.vrows).map fun r => rowOf ((bs.drop (r * x.cfg.bytes)).take x.cfg.bytes)

/-- Where a spilled entry's rows lie in memory. -/
def State.spillPiece (s : State) (x : SEntry) : List (Nat × Nat) := [(s.spillPa x, x.vrows * x.cfg.bytes)]

/-- The rows that an entry holds: those of its slice, or those of the spill region. -/
def State.entryRows (s : State) (x : SEntry) : List Row :=
  if x.spilled then x.rowsFrom (s.readMem (s.spillPa x) (x.vrows * x.cfg.bytes)) else x.rows

/-- Stores rows as those of an entry; those of a spilled entry go to the spill region (R240: package-global addresses, QoS 7). -/
def State.storeEntry (s : State) (x : SEntry) (rows : List Row) : State :=
  if x.spilled then
    (s.writeMem (s.spillPa x) (x.bytesOf rows) (stashIni x.slice 7)).modEntry x.uid fun y => { y with put := true, rows := [] }
  else s.modEntry x.uid fun y => { y with put := true, rows := rows }

/-- Moves one entry to the spill region; its place there is a free value (log entry 20). -/
def State.spillOne (s : State) (x : SEntry) : State :=
  match pickOf (s.spillPlaces x.size) (Config.spillPlace s.free).toNat with
  | none => s
  | some o =>
    let x' : SEntry := { x with spilled := true, loc := BitVec.ofNat 32 o }
    let t := { s.modEntry x.uid fun y => { y with spilled := true, loc := BitVec.ofNat 32 o, rows := [] } with free := s.free + 1 }
    if x.put then t.writeMem (t.spillPa x') (x.bytesOf x.rows) (stashIni x.slice 7) else t

/-- Moves entries until the new one fits or the spill region runs out (R240). -/
def State.spillUntil (q : QuadNo) (size : Nat) : List SEntry → State → State
  | [], s => s
  | x :: r, s => if s.fits q size then s else if (s.spillPlaces x.size).isEmpty then s else State.spillUntil q size r (s.spillOne x)

def State.spillFor (s : State) (q : QuadNo) (size : Nat) : State := State.spillUntil q size (s.movable q) s

/-- Gives an entry its place in a home slice; the offset is a free value (log entry 20). -/
def State.placeEntry (s : State) (q : QuadNo) (uid : Nat) : State :=
  let loc : Word := BitVec.ofNat 32 (s.pickSlice q * 65536 + (Config.slicePlace s.free).toNat)
  { s.modEntry uid fun y => { y with placed := true, spilled := false, loc := loc } with free := s.free + 1 }

/-! ### Puts (R233, R234, R245, R246) -/

/-- A put: its key, generation reference, source tile and the unit that reports it. -/
structure Put where
  cell  : LCell
  slot  : BitVec 9
  layer : BitVec 12
  part  : BitVec 4
  gen   : Option (BitVec 12 × BitVec 16)
  p     : PCell
  tile  : TileNo
  level : BitVec 4
  src   : BitVec 16
  deriving DecidableEq, Repr

/-- Same key (R230). -/
def Put.keyOf (k : Put) (x : SEntry) : Bool := x.cell == k.cell && x.slot == k.slot && x.layer == k.layer && x.part == k.part

/-- A Pennant of the stash in layout K (R331). -/
def State.stashPennant (s : State) (k : Put) (cls : Byte) (x : Nat) : State :=
  s.report k.level k.src cls .info (detK k.slot.toNat k.layer.toNat k.part.toNat k.cell.toNat x)

/-- Inserts into an ascending list. -/
def insertNat (n : Nat) : List Nat → List Nat
  | [] => [n]
  | x :: r => if n ≤ x then n :: x :: r else x :: insertNat n r

/-- The k-th directory index that no entry uses. -/
def nthFree (used : List Nat) (k : Nat) : Nat := (used.foldr insertNat []).foldl (fun c u => if u ≤ c then c + 1 else c) k

/-- Entries that the directory can hold (R230). -/
def dirSize : Nat := 65536

/-- The tile of a put. -/
def State.putTile (s : State) (k : Put) : Tile := ((s.cell k.p).tile? k.tile).getD {}

/-- Bytes that the entry of a put occupies (R231). -/
def State.putSize (s : State) (k : Put) : Nat :=
  let t := s.putTile k
  match t.cfg with
  | some c => ceilDiv (t.valid * c.bytes) 256 * 256
  | none => 0

/-- Registers a key (R234): a held entry of the same key is retired with STASHDUP; the directory index is a free value
(log entry 20). A mark holds no rows (R231). -/
def State.register (s : State) (k : Put) (mark : Bool) : State :=
  let dup := s.stash.entries.any fun x => k.keyOf x && !x.retired
  let s := if dup then s.stashPennant k clsStashdup 0 else s
  let t := s.putTile k
  let idx := nthFree (s.stash.entries.map (·.idx)) (Config.dirPick s.free % (dirSize - s.stash.entries.length))
  let e : SEntry :=
    { idx := idx, uid := s.stash.uid, cell := k.cell, slot := k.slot, layer := k.layer, part := k.part, spilled := false,
      mark := mark, gen := k.gen, retired := false, isNew := true,
      cfg := if mark then ⟨false, 0, 0, 0⟩ else t.cfg.getD ⟨false, 0, 0, 0⟩,
      vrows := if mark then 0 else t.valid, loc := 0, rows := [], placed := mark, put := mark, getting := false }
  let es := (s.stash.entries.map fun x => if k.keyOf x then { x with retired := true } else x) ++ [e]
  { s with free := s.free + 1, stash := { entries := es, peak := max s.stash.peak es.length, uid := s.stash.uid + 1 } }

/-- What becomes of a put: registered under a number, stored as a mark, waiting, or refused. -/
inductive PutRes where
  | stored (uid : Nat)
  | marked
  | wait
  | full
  deriving DecidableEq, Repr

/-- Recompute route registered for a layer tag (R248). -/
def State.recomputeOf (s : State) (layer : BitVec 12) : Option (BitVec 14) :=
  (s.job.recompute.find? fun x => x.1 = layer.toNat).map (·.2)

/-- A put whose other checks have passed: it is registered, or handled by STASH_CFG.POLICY when the stash is full (R245,
R246). An entry that fits only after a spill has no place until the spill is done (R240). -/
def State.tryPut (s : State) (k : Put) : State × PutRes :=
  let q := s.homeQuad k.cell
  let size := s.putSize k
  let dirFull := decide (dirSize ≤ s.stash.entries.length)
  let t := s.spillFor q size
  if dirFull || !t.fits q size then
    let s := if dirFull then s else t
    match bf s.glob.stashCfg 0 2 with
    | 0 => (s, .wait)
    | 1 => if (s.recomputeOf k.layer).isSome && !dirFull then ((s.register k true).addNdet 1, .marked) else (s, .full)
    | _ => (s, .full)
  else
    let uid := s.stash.uid
    let fit := s.fits q size
    let s := s.register k false
    (if fit then s.placeEntry q uid else s, .stored uid)

/-- Rows that a put stores: rows 0 to V - 1, zeros where the row-written bit is clear (R231). -/
def putRows (t : Tile) : List Row := (List.range t.valid).map t.rowAt

/-! ### Gets (R235, R236) -/

/-- What a get finds: nothing, a mark, a mismatch, or the entry it will deliver. -/
inductive GetRes where
  | miss
  | mark (uid : Nat)
  | tfmt
  | tshape
  | found (uid : Nat)
  deriving DecidableEq, Repr

/-- Checks 2 to 6 of R235 for a tile configuration. A get that has started takes the entry from a later one (R237). A put that waits under
SPILL has no entry yet: a get of its key misses, as check 2 of R235 has it, and does not wait (DESIGN CHOICE, log entry 90). -/
def State.tryGet (s : State) (k : Put) (c : TileCfg) : GetRes :=
  match s.stash.entries.find? fun x => k.keyOf x && !x.retired && !x.getting with
  | none => .miss
  | some x =>
    if x.mark then .mark x.uid
    else if x.cfg.fmt != c.fmt || x.cfg.layout != c.layout then .tfmt
    else if x.cfg.rb != c.rb || decide (c.rows < x.vrows) then .tshape
    else .found x.uid

/-- Delivers an entry's rows into a tile (R236). -/
def Tile.deliver (t : Tile) (x : SEntry) (rows : List Row) : Tile :=
  let t := (rows.foldl (fun (a : Tile × Nat) r => (a.1.writeRow a.2 r, a.2 + 1)) (t, 0)).1
  { t.cutWritten x.vrows with valid := x.vrows }

/-- The entry is retired; its get having started, no spill moves it (R236, R240). -/
def State.deliver (s : State) (p : PCell) (t : TileNo) (x : SEntry) : State :=
  (s.modCell p fun c =>
    (((c.modTile t fun y => y.deliver x (s.entryRows x)).forget t).dropResume t).cancelBack t fun r => decide (r.toNat < x.vrows)).modEntry x.uid
      fun y => { y with retired := true }

/-! ### Commands of ports -/

/-- The put or get of a port command. -/
def State.cmdPut (s : State) (e : EPort) (c : Cmd) (l : LCell) : Put :=
  { cell := l, slot := c.slot, layer := c.layer, part := c.part,
    gen := if c.genValid then some (c.genIdx, match c.gen with | some g => g.2 | none => ((s.gen? c.genIdx).map Gen.liveCtr).getD 0) else none,
    p := e.p, tile := c.tileNo, level := lvlCell, src := srcPort e }

/-- Continues a STASHPUT once the stash may take it (R234, R246). -/
def State.portPut (s : State) (e : EPort) (c : Cmd) (k : Put) : State :=
  match s.tryPut k with
  | (s, .stored uid) => s.putCmd e { c with stash := some uid, waitSince := none }
  | (s, .marked) => s.complete e c .ok 0
  | (s, .wait) => s.putCmd e { c with waitSince := some (c.waitSince.getD s.clk.gtc) }
  | (s, .full) => (s.stashPennant k 0x09 0).complete e c .stashfull (c.slot.setWidth 32)

/-- Starts a STASHPUT: checks of R233. -/
def State.startStashput (s : State) (e : EPort) (c : Cmd) : State :=
  let t := c.tileNo
  match (s.cell e.p).tile? t, (s.cell e.p).logical with
  | some x, some l =>
    if !ownFile e.sep t || x.cfg.isNone || !x.inUse then s.complete e c .tnotvalid (tileDetail t)
    else
      let k := s.cmdPut e c l
      if !c.genValid then s.portPut e c k
      else match s.gen? c.genIdx with
        | none => s.complete e c .genstale (c.genIdx.setWidth 32)
        | some g =>
          if g.frozen then (s.stashPennant k clsStashfrozen c.genIdx.toNat).complete e c .ok 0 else s.portPut e c k
  | _, _ => s.complete e c .tnotvalid (tileDetail t)

/-- DETAIL of a get that returns the recompute indication (R52, R235). -/
def State.recomputeDetail (s : State) (layer : BitVec 12) : Word :=
  0x80000000 ||| ((s.recomputeOf layer).getD 0).setWidth 32

/-- Starts a STASHGET: checks of R235. -/
def State.startStashget (s : State) (e : EPort) (c : Cmd) : State :=
  let t := c.tileNo
  match s.cfgOf e.p t, (s.cell e.p).logical with
  | some x, some l =>
    if !ownFile e.sep t then s.complete e c .tnotvalid (tileDetail t)
    else
      let k := s.cmdPut e c l
      match s.tryGet k x with
      | .miss => (s.stashPennant k clsStashmiss 0).complete e c .tnotvalid (tileDetail t)
      | .mark uid => (s.modEntry uid fun y => { y with retired := true }).complete e c .ok (s.recomputeDetail c.layer)
      | .tfmt => s.complete e c .tfmt (tileDetail t)
      | .tshape => s.complete e c .tshape (tileDetail t)
      | .found uid => (s.modEntry uid fun y => { y with getting := true }).putCmd e { c with stash := some uid }
  | _, _ => s.complete e c .tnotvalid (tileDetail t)

/-- What SECDED finds on a row of an entry: a word of its stash slice, or the line of the operand cache through which a spilled entry is
read (R97, R241, R293). -/
def State.sliceEcc (s : State) (x : SEntry) (row : Nat) (ecc : Ecc) : State :=
  let q : BitVec 16 := BitVec.ofNat 16 (x.slice / 2)
  let w := bf x.loc 0 16 * 32 + row * x.cfg.bytes / 8
  if x.spilled then s.cacheEcc ((s.spillPa x + row * x.cfg.bytes) / 256) 11 ecc
  else match ecc with
    | .ok => s
    | .corrected => s.report lvlQuadrant q clsEcc .corrected (s.detM w 5)
    | .uncorr => s.tableUncorr lvlQuadrant q w 5

/-- Reads of rows in order up to the first that cannot be corrected: the state after them, and whether there was one (R97). -/
def readRows {α : Type} (rows : List α) (ecc : α → Ecc) (f : State → α → Ecc → State) (s : State) : State × Bool :=
  let good := rows.takeWhile fun r => ecc r != .uncorr
  let s := good.foldl (fun s r => f s r (ecc r)) s
  match rows.find? fun r => ecc r == .uncorr with
  | some r => (f s r .uncorr, true)
  | none => (s, false)

/-- The reads of the rows that a put stores (R231: a row that is not written is not read). -/
def State.putReads (s : State) (p : PCell) (t : TileNo) (x : Tile) (ecc : List RowEcc) : State × Bool :=
  readRows x.moveRows (fun r => eccAt ecc t r) (fun s r e => s.rowEcc p t r e) s

/-- The reads of the rows of an entry that a get delivers into tile `t`. -/
def State.getReads (s : State) (t : TileNo) (x : SEntry) (ecc : List RowEcc) : State × Bool :=
  readRows (List.range x.vrows) (fun r => eccAt ecc t (BitVec.ofNat 7 r)) (fun s r e => s.sliceEcc x r e) s

/-- Rows of a spilled entry come from the spill region at QoS 11 (R241): a line that is not at its home slice is fetched first. -/
def State.entryReady (s : State) (x : SEntry) : Bool := !x.spilled || s.piecesReady (s.spillPiece x)

/-- The rows of a STASHPUT or STASHGET have moved and the command completes (R234, R236, R237). -/
def State.portTransfer (s : State) (e : EPort) (tag : Byte) (ecc : List RowEcc) : State :=
  match (s.port e).find tag with
  | none => s
  | some c =>
    match c.stash with
    | none => s
    | some uid =>
      match s.entry? uid with
      | none =>
        if c.op = opSTASHGET then
          (match (s.cell e.p).logical with | some l => s.stashPennant (s.cmdPut e c l) clsStashmiss 0 | none => s).complete e c
            .tnotvalid (tileDetail c.tileNo)
        else s
      | some x =>
        if c.op = opSTASHPUT then
          if !x.placed then s
          else
            let t := ((s.cell e.p).tile? c.tileNo).getD {}
            let y := s.putReads e.p c.tileNo t ecc
            if y.2 then y.1.failUncorr e tag else (y.1.storeEntry x (putRows t)).complete e c .ok 0
        else if !x.put then s
        else if !s.entryReady x then s.seekRow e tag (s.spillPiece x) (stashIni x.slice 11)
        else
          let y := (s.took (s.spillPiece x)).getReads c.tileNo x ecc
          if y.2 then y.1.failUncorr e tag else (y.1.deliver e.p c.tileNo x).complete e c .ok 0

/-! ### Runs of STASH_PUT and STASH_GET (R238) -/

/-- The running run of a route with its engine (R188). -/
def State.runOf (s : State) (route : RouteId) : Option (QuadNo × Run) :=
  allQuads.findSome? fun q => ((s.quad q).runs.find? fun r => r.route == route && r.code.isNone).map fun r => (q, r)

/-- The put or get of a run: the STASH word is the destination of a put and the source of a get. -/
def Run.stashKey (r : Run) (q : QuadNo) (p : PCell) (put : Bool) : Put :=
  let w := if put then dstWord r.desc else srcWord r.desc
  { cell := epStashCell w, slot := epStashSlot w, layer := epStashLayer w, part := epStashPart w, gen := r.gen, p := p,
    tile := epTileNo (if put then srcWord r.desc else dstWord r.desc), level := lvlRoute, src := srcRoute q r.route }

/-- Physical cell of a run's tile endpoint. -/
def State.runCell (s : State) (r : Run) (put : Bool) : Option PCell :=
  s.physOf (epLocal (if put then srcWord r.desc else dstWord r.desc))

def State.runPut (s : State) (q : QuadNo) (r : Run) (k : Put) : State :=
  match s.tryPut k with
  | (s, .stored uid) => s.putRun q { r with stash := some uid, waitSince := none }
  | (s, .marked) => s.endRun q r .ok 0
  | (s, .wait) => s.putRun q { r with waitSince := some (r.waitSince.getD s.clk.gtc) }
  | (s, .full) => (s.stashPennant k 0x09 0).endRun q r .stashfull (k.slot.setWidth 32) false

/-- Checks of a STASH_PUT run after those of R190 (R233, R238). -/
def State.startRunPut (s : State) (q : QuadNo) (r : Run) (p : PCell) : State :=
  let k := r.stashKey q p true
  let w := dstWord r.desc
  if epStashGenV w && ((s.gen? (epStashGen w)).map (·.frozen)).getD false then
    (s.stashPennant k clsStashfrozen (epStashGen w).toNat).endRun q r .ok 0
  else s.runPut q r k

/-- Checks of a STASH_GET run after those of R190 (R235, R238). -/
def State.startRunGet (s : State) (q : QuadNo) (r : Run) (p : PCell) (c : TileCfg) : State :=
  let k := r.stashKey q p false
  let d := tileDetail k.tile
  match s.tryGet k c with
  | .miss => (s.stashPennant k clsStashmiss 0).endRun q r .tnotvalid d
  | .mark uid =>
    ((s.modEntry uid fun y => { y with retired := true }).stashPennant k clsStashmark ((s.recomputeOf k.layer).getD 0).toNat).endRun q r .ok 0
  | .tfmt => s.endRun q r .tfmt d
  | .tshape => s.endRun q r .tshape d
  | .found uid => (s.modEntry uid fun y => { y with getting := true }).putRun q { r with stash := some uid }

/-- A run that a step void would end, where no step was in progress: it ends with UNCORR, frees its slot and records nothing
(R191, R294). -/
def State.runUncorr (s : State) (q : QuadNo) (seq : Nat) : State :=
  match (s.quad q).runs.find? fun r => r.seq == seq && r.code.isNone with
  | none => s
  | some r =>
    (((s.cancelStash r.stash).tellWaiters q seq .uncorr (s.step.count.setWidth 32)).dropRun q seq).forgetRun seq

/-- A run asks for pieces of memory that are not at hand; it ends with UNCORR where they are denied (R75, R192). -/
def State.seek (s : State) (q : QuadNo) (seq : Nat) (ps : List (Nat × Nat)) (ini : Initiator) : State :=
  let t := s.fetchPieces ps ini
  if s.denies ps then t.runUncorr q seq else t

/-- The rows of a stash run have moved and the run ends (R234, R236). Digest units are the rows stored, and the data rows delivered
(R287). -/
def State.runTransfer (s : State) (route : RouteId) (ecc : List RowEcc) : State :=
  match s.runOf route with
  | none => s
  | some (q, r) =>
    let put := dKind r.desc == kPUT
    match r.stash, s.runCell r put with
    | some uid, some p =>
      let k := r.stashKey q p put
      match s.entry? uid with
      | none => if put then s else (s.stashPennant k clsStashmiss 0).endRun q r .tnotvalid (tileDetail k.tile)
      | some x =>
        if put then
          if !x.placed then s
          else
            let t := ((s.cell p).tile? k.tile).getD {}
            let y := s.putReads p k.tile t ecc
            if y.2 then y.1.runUncorr q r.seq
            else ((putRows t).foldl (fun s row => s.fold (route.setWidth 16) (rowBytes row x.cfg.bytes)) (y.1.storeEntry x (putRows t))).endRun q r .ok 0
        else if !x.put then s
        else if !s.entryReady x then s.seek q r.seq (s.spillPiece x) (stashIni x.slice 11)
        else
          let y := (s.took (s.spillPiece x)).getReads k.tile x ecc
          if y.2 then y.1.runUncorr q r.seq
          else
            let units := (List.range x.vrows).filter fun n => !isScaleRow x.cfg.fmt n
            (units.foldl (fun t n => t.fold (route.setWidth 16) (rowBytes (((s.entryRows x)[n]?).getD 0) x.cfg.bytes))
              (y.1.deliver p k.tile x)).endRun q r .ok 0
    | _, _ => s

/-! ### Events (R240, R241, R246, R247) -/

/-- A put of a port or run that waits for a spill: the entries move and it takes its place; when the region has run out
meanwhile, the put is full and handled by policy. -/
def State.spillEntry (s : State) (uid : Nat) : Option State :=
  match s.entry? uid with
  | none => none
  | some x =>
    if x.placed then none
    else
      let q := s.homeQuad x.cell
      let size := ceilDiv (x.vrows * x.cfg.bytes) 256 * 256
      let t := s.spillFor q size
      some (if t.fits q size then t.placeEntry q uid else t)

/-- An entry without a place leaves the directory; the put starts again as one that finds the stash full. -/
def State.unregister (s : State) (uid : Nat) : State :=
  { s with stash := { s.stash with entries := s.stash.entries.filter fun x => x.uid != uid } }

def State.stillUnplaced (s : State) (uid : Nat) : Bool := match s.entry? uid with | some x => !x.placed | none => false

def State.stashSpill (s : State) (w : StashWho) : State :=
  match w with
  | .port e tag =>
    match (s.port e).find tag with
    | none => s
    | some c =>
      match c.stash.bind s.spillEntry, c.stash, (s.cell e.p).logical with
      | some t, some uid, some l =>
        if t.stillUnplaced uid then (t.unregister uid).portPut e { c with stash := none } (t.cmdPut e c l) else t
      | _, _, _ => s
  | .run route =>
    match s.runOf route with
    | none => s
    | some (q, r) =>
      match r.stash.bind s.spillEntry, r.stash, s.runCell r true with
      | some t, some uid, some p =>
        if t.stillUnplaced uid then (t.unregister uid).runPut q { r with stash := none } (r.stashKey q p true) else t
      | _, _, _ => s

/-- Space or a directory entry has been freed: a put that waits under SPILL tries again (R246). -/
def State.spaceFreed (s : State) (w : StashWho) : State :=
  match w with
  | .port e tag =>
    match (s.port e).find tag, (s.cell e.p).logical with
    | some c, some l => if c.op == opSTASHPUT && c.waitSince.isSome then s.portPut e c (s.cmdPut e c l) else s
    | _, _ => s
  | .run route =>
    match s.runOf route with
    | some (q, r) =>
      match s.runCell r true with
      | some p => if dKind r.desc == kPUT && r.waitSince.isSome then s.runPut q r (r.stashKey q p true) else s
      | none => s
    | none => s

/-- STASH_TIMEOUT in ticks, none for 0 (R242). -/
def State.stashTimeoutTicks (s : State) : Nat := bf s.glob.stashCfg 16 16 * 1024

/-- Has a wait since `t` lasted STASH_TIMEOUT? -/
def State.stashLate (s : State) (t : Option Tick) : Bool :=
  match t with
  | some t => s.stashTimeoutTicks != 0 && decide (t.toNat + s.stashTimeoutTicks ≤ s.clk.gtc.toNat)
  | none => false

/-- One STASHFULL Pennant for each waiting put (R246). -/
def State.stashTimeout (s : State) (w : StashWho) : State :=
  match w with
  | .port e tag =>
    match (s.port e).find tag, (s.cell e.p).logical with
    | some c, some l =>
      if c.op == opSTASHPUT && s.stashLate c.waitSince && !c.noted then
        (s.stashPennant (s.cmdPut e c l) 0x09 0).putCmd e { c with noted := true }
      else s
    | _, _ => s
  | .run route =>
    match s.runOf route with
    | some (q, r) =>
      match s.runCell r true with
      | some p =>
        if dKind r.desc == kPUT && s.stashLate r.waitSince && !r.noted then
          (s.stashPennant (r.stashKey q p true) 0x09 0).putRun q { r with noted := true }
        else s
      | none => s
    | none => s

/-- STASH_ABORT: every waiting put completes with STASHFULL (R246, R247). -/
def State.stashAbort (s : State) : State :=
  let s := allPorts.foldl (fun s e =>
    ((s.port e).cmds.filter fun c => c.op == opSTASHPUT && c.waitSince.isSome).foldl
      (fun s c => s.complete e c .stashfull (c.slot.setWidth 32)) s) s
  allQuads.foldl (fun s q =>
    ((s.quad q).runs.filter fun r => r.code.isNone && dKind r.desc == kPUT && r.waitSince.isSome).foldl
      (fun s r =>
        let p := (s.runCell r true).getD 0
        let k := r.stashKey q p true
        (s.stashPennant k 0x09 0).endRun q r .stashfull (k.slot.setWidth 32) false) s) s

/-- Refill of the newest spilled entry of a home quadrant (R241): its rows are read from the spill region at QoS 9. -/
def State.stashRefill (s : State) (q : QuadNo) : State :=
  let free := s.sliceFree (2 * q.val) + s.sliceFree (2 * q.val + 1)
  if free ≤ bf s.glob.stashCfg 8 8 * 2 ^ 20 then s
  else
    match (s.stash.entries.filter fun x => x.spilled && x.put && !x.getting && s.homeQuad x.cell == q).getLast? with
    | some x =>
      if !s.fits q x.size then s
      else if !s.entryReady x then s.fetchPieces (s.spillPiece x) (stashIni x.slice 9)
      else ((s.took (s.spillPiece x)).modEntry x.uid fun y => { y with rows := s.entryRows x }).placeEntry q x.uid
    | none => s

end Sys2Proof.Machine
end

