-- ==== Sys2Proof/Machine/Transfer.lean ====
section
/-! DEFINITION. The data of a route run (05_element_formats.md, 07_routes.md): where an element lies, its bits and scale, its
conversion, and the bytes an innermost destination run writes. A run is worked in units, a unit being one innermost run of
the destination pattern, taken in destination order (R194, R196). -/

namespace Sys2Proof.Machine

/-! ### Patterns (R185, R194, R200) -/

/-- Coordinates of index `u` in dimensions of the given counts, the first the fastest. -/
def coordsOf : List Nat → Nat → List Nat
  | [], _ => []
  | c :: r, u => u % c :: coordsOf r (u / c)

/-- Counts of dimensions 1 to 5. -/
def outerCnt (d : Desc) : List Nat := (List.range 5).map fun k => dcnt d (k + 1)

/-- Units of a pattern. -/
def unitCount (d : Desc) : Nat := (outerCnt d).foldl (· * ·) 1

/-- Coordinates i1 to i5 of a unit. -/
def unitIdx (d : Desc) (u : Nat) : List Nat := coordsOf (outerCnt d) u

/-- Sum of coordinate times stride over dimensions k, k + 1, … -/
def strideSum (st : Nat → Int) : Nat → List Nat → Int
  | _, [] => 0
  | k, i :: r => i * st k + strideSum st (k + 1) r

/-- Destination displacement of a unit. -/
def dstOff (d : Desc) (is : List Nat) : Int := strideSum (dstStride d) 1 is

/-- Where an element of a run comes from: padding, a skipped row, or element `n` at displacement `off` of the source. -/
inductive Src where
  | pad
  | skip
  | at (off : Int) (n : Nat)
  deriving DecidableEq, Repr

/-- Source coordinate of dimension k, none where it is padding (R194). -/
def srcIdx (d : Desc) (k i : Nat) : Option Nat := if padlo d k ≤ i ∧ i < padlo d k + sext d k then some (i - padlo d k) else none

/-- Source coordinates of dimensions k, k + 1, … -/
def srcIdxs (d : Desc) : Nat → List Nat → Option (List Nat)
  | _, [] => some []
  | k, i :: r => match srcIdx d k i, srcIdxs d (k + 1) r with | some a, some l => some (a :: l) | _, _ => none

/-- Source of the element (is, i0); TRANSPOSE and DUAL_ORDER_WRITE's T copy swap s0 and s1 (R194, R200). -/
def srcAt (d : Desc) (swap : Bool) (is : List Nat) (i0 : Nat) : Src :=
  match srcIdxs d 0 (i0 :: is) with
  | some (s0 :: s1 :: r) =>
    if swap then .at (s0 * srcStride d 1 + strideSum (srcStride d) 2 r) s1
    else .at (s1 * srcStride d 1 + strideSum (srcStride d) 2 r) s0
  | _ => .pad

/-- Does a unit lie wholly in padding? -/
def unitPad (d : Desc) (is : List Nat) : Bool := (srcIdxs d 1 is).isNone

/-- First valid element and number of valid elements of an innermost run of the destination. -/
def validLo (d : Desc) : Nat := min (padlo d 0) (dcnt d 0)
def validLen (d : Desc) : Nat := min (sext d 0) (dcnt d 0 - validLo d)

/-! ### Conversions (R141, R144, R147) -/

/-- How codes pass from source to destination. -/
inductive Mode where
  | copy
  | trunc (d : Nat)
  | splitInt (k : Nat)
  | joinInt (k : Nat)
  | conv
  deriving DecidableEq, Repr

def modeOf (kind : Nat) (sf df : BitVec 5) : Mode :=
  if kind = kSPLIT then (if isNP4 sf then .copy else .splitInt (bpK df))
  else if kind = kJOIN then (if isNP4 df then .copy else .joinInt (bpK sf))
  else if sf = df then .copy
  else if isBP sf && isBP df && decide (bpK df < bpK sf) then .trunc (bpK sf - bpK df)
  else .conv

/-- Lowest source plane that is fetched (R141). -/
def Mode.lowPlane : Mode → Nat
  | .trunc d => d
  | _ => 0

/-- Is the source's scale array read (R144)? -/
def readsScale (m : Mode) (sf : BitVec 5) : Bool := hasScale sf && (match m with | .joinInt _ => false | _ => true)

/-! ### Reading elements (R132, R136, R139, R140, R194, R195) -/

/-- Virtual address of a displacement; addresses are 48 bits wide (log entry 27). -/
def vaOf (base : Nat) (off : Int) : Nat := (((base : Int) + off) % 2 ^ 48).toNat

/-- A byte that a route reads: zero where the line decodes to the default target (R192). -/
def State.vbyte (s : State) (q : QuadNo) (va : Nat) : Byte :=
  match s.xlate q va false with
  | .pa a => if s.isDefault a then 0 else s.mem.read a
  | _ => 0

/-- Bit position of element `n` at displacement `off`, from the array's start, and its element number. -/
def bitPos (f : BitVec 5) (off : Int) (n : Nat) : Int := 8 * off + fmtBits f * n
def elNo (f : BitVec 5) (off : Int) (n : Nat) : Int := bitPos f off n / fmtBits f

/-- Displacement of plane p of a plane array (R139). -/
def planeOff (v : View) (p : Nat) : Int := if isBP v.fmt then ((bpK v.fmt - 1 - p) * v.ps : Nat) else 0

/-- Planes of a format, one for a format without planes. -/
def planesOf (f : BitVec 5) : Nat := if isBP f then bpK f else 1

/-- Virtual addresses of the bytes an element occupies in memory, from plane `low` up, with its scale byte if `sc`. -/
def elBytes (v : View) (low : Nat) (sc : Bool) (off : Int) (n : Nat) : List Nat :=
  let p := bitPos v.fmt off n
  let data := (List.range' low (planesOf v.fmt - low)).flatMap fun k =>
    [vaOf v.base (planeOff v k + p / 8), vaOf v.base (planeOff v k + (p + fmtBits v.fmt - 1) / 8)]
  data ++ (if sc then [vaOf v.base (v.soff + elNo v.fmt off n / 32)] else [])

/-- Raw code of an element in memory. -/
def State.memRaw (s : State) (q : QuadNo) (v : View) (low : Nat) (off : Int) (n : Nat) : Nat :=
  let p := bitPos v.fmt off n
  if isBP v.fmt then
    (List.range' low (bpK v.fmt - low)).foldl (fun a k =>
      a + ((s.vbyte q (vaOf v.base (planeOff v k + p / 8))).toNat / 2 ^ (p % 8).toNat % 2) * 2 ^ k) 0
  else bitsAt (fun j => s.vbyte q (vaOf v.base (p / 8 + j))) (p % 8).toNat (fmtBits v.fmt)

/-- Raw code and scale of an element in a tile: `off` is its data address (R195). -/
def tileRaw (v : View) (t : Tile) (low : Nat) (off : Int) (n : Nat) : Nat × Byte :=
  let p := (bitPos v.fmt off n).toNat
  let d := p / (8 * v.rb)
  let o := p % (8 * v.rb)
  let raw :=
    if isBP v.fmt then
      (List.range' low (bpK v.fmt - low)).foldl (fun a k => a + bf (t.rowAt (planeRowOf v.fmt d k)) o 1 * 2 ^ k) 0
    else bf (t.rowAt (dataRowOf v.fmt d)) o (fmtBits v.fmt)
  let sb := scaleByteOf v.fmt v.rb d (o / fmtBits v.fmt / 32)
  (raw, if hasScale v.fmt then rowByte (t.rowAt sb.1) sb.2 else 0)

/-- One element on its way: padding or not, its value where a conversion needs it, its raw code and scale, its rounding and
whether decoding counted it (R148). -/
structure El where
  pad : Bool
  elt : Elt
  raw : Nat
  sc  : Byte
  rnd : Rnd
  cnt : Bool
  deriving DecidableEq, Repr

/-- The value of padding (R182). -/
def padElt (d : Desc) : Elt := if dPadval d = 2 then .low else if dPadval d = 1 then .val (dPadconst d) else .val 0

/-- Rounding of element `idx` of a run (R152, R154). -/
def State.rndOf (s : State) (d : Desc) (idx : Nat) : Rnd :=
  if dRnd d then .stoch (randU s.glob.seed s.step.count (dStream d) (dVshard d) idx) else .rne

/-- An element with its raw code and scale byte. -/
def State.elWith (s : State) (d : Desc) (m : Mode) (v : View) (idx : Nat) (x : Nat × Byte) : El :=
  let w : Word × Bool := if m = .conv then decodeEl v.fmt (s.glob.fmtPolicy.getLsbD 0) x.1 x.2 else (0, false)
  ⟨false, .val w.1, x.1, x.2, s.rndOf d idx, w.2⟩

/-- Fetches one element. `tl` is the source tile of a TILE endpoint. -/
def State.elOf (s : State) (q : QuadNo) (d : Desc) (m : Mode) (v : View) (tl : Tile) (idx : Nat) : Src → El
  | .pad => ⟨true, padElt d, 0, 0, .rne, false⟩
  | .skip => ⟨false, .val 0, 0, 0, .rne, false⟩
  | .at off n =>
    let x : Nat × Byte :=
      if v.rb = 0 then
        (s.memRaw q v m.lowPlane off n,
          if readsScale m v.fmt then s.vbyte q (vaOf v.base (v.soff + elNo v.fmt off n / 32)) else 0)
      else tileRaw v tl m.lowPlane off n
    s.elWith d m v idx x

/-! ### Encoding a run of elements (R147-R157, R182) -/

/-- Lowest code of a scaled format (R182). -/
def blockLow (f : BitVec 5) : Nat :=
  if isMX f then (match scalarOf f with | some sf => sf.withSign true sf.maxFin | none => 0)
  else 2 ^ ((if isNP4 f then 4 else bpK f) - 1)

/-- Values of a block encoded under R150 and R151; BP1 takes only padding (R151). -/
def encValues (df : BitVec 5) (pol : Word) (rs : List Rnd) (xs : List Elt) : Block :=
  if isMX df then encMX df pol rs xs
  else if isNP4 df then encBP 4 rs xs
  else if bpK df = 1 then
    match xs.head? with
    | some (.val w) =>
      if w <<< 1 = 0 then ⟨0, xs.map fun _ => 0, xs.map fun _ => false⟩
      else ⟨(Config.bp1Pad w).1, xs.map fun _ => (Config.bp1Pad w).2.toNat, xs.map fun _ => false⟩
    | _ => ⟨0x7E, xs.map fun _ => 1, xs.map fun _ => false⟩
  else encBP (bpK df) rs xs

/-- Code of one element of a format without block scale, and whether it counts. -/
def encOne (m : Mode) (df : BitVec 5) (pol : Word) (x : El) : Nat × Bool :=
  if x.pad || m == .conv then encScalar df pol x.rnd x.elt
  else match m with
    | .joinInt k => ((signed k x.raw % 256).toNat, false)
    | _ => (x.raw, false)

/-- Code of padding in planes whose scale is 1.0 (R144, R182): the integer nearest to the pad value within the k-bit range. A PADCONST that
is infinite or outside the range is saturated, a NaN becomes 0, and none of them counts, which R144 leaves open (DESIGN CHOICE, log entry
88). -/
def padInt (k : Nat) : Elt → Nat
  | .low => 2 ^ (k - 1)
  | .val w =>
    match ofF32 w with
    | .fin neg m e =>
      let q := roundInt .rne m e
      if neg then (2 ^ k - min q (2 ^ (k - 1))) % 2 ^ k else min q (2 ^ (k - 1) - 1)
    | .inf neg => if neg then 2 ^ (k - 1) else 2 ^ (k - 1) - 1
    | .nan => 0

/-- A block of a scaled format as it is encoded: `flags` says which values count under R157, `once` what counts once for the block. -/
structure EncBlock where
  scale : Byte
  codes : List Nat
  flags : List Bool
  once  : Nat
  deriving DecidableEq, Repr

/-- Code and count of padding in a block that keeps the scale it came with: PADCONST is rounded to nearest even within the block (R182). Only
an MXFP6 pattern brings padding and valid data into one block. -/
def padCode (df : BitVec 5) (pol : Word) (sc : Byte) (x : Elt) : Nat × Bool :=
  match x with
  | .low => (blockLow df, false)
  | .val _ => if isMX df && sc != 0xFF then mxElem df ((scalarOf df).getD e4m3) (policyOf pol df) .rne ((sc.toNat : Int) - 127) x else (0, false)

/-- A block of a scaled format. A block that only moves keeps its scale (R141, R144, R147); one that holds elements of two source blocks,
which an MXFP6 pattern with a stride of 32 but not of 96 bytes brings together, takes the scale of its first valid element, and a block
that two runs of the pattern share is scaled by each for its part (DESIGN CHOICE, log entry 81). -/
def encBlock (m : Mode) (df : BitVec 5) (pol : Word) (els : List El) : EncBlock :=
  let enc : EncBlock :=
    let b := encValues df pol (els.map (·.rnd)) (els.map (·.elt))
    ⟨b.scale, b.codes, b.flags, 0⟩
  let keep (sc : Byte) (once : Nat) (c : El → Nat) : EncBlock :=
    ⟨sc, els.map fun x => if x.pad then (padCode df pol sc x.elt).1 else c x, els.map fun x => x.pad && (padCode df pol sc x.elt).2, once⟩
  match m, els.find? fun x => !x.pad with
  | .splitInt k, _ =>
    ⟨0x38, els.map fun x => if x.pad then padInt k x.elt else (splitInt8 k (BitVec.ofNat 8 x.raw)).1,
      els.map fun x => !x.pad && (splitInt8 k (BitVec.ofNat 8 x.raw)).2 != 0, 0⟩
  | .conv, _ => enc
  | _, none => enc
  | .trunc d, some v => keep (truncScale d v.sc).1 (truncScale d v.sc).2 fun x => x.raw / 2 ^ d
  | _, some v => keep v.sc 0 fun x => x.raw

/-- Cuts elements into blocks of 32 by element number: (block number, elements). -/
def cutBlocks : Nat → Int → List El → List (Int × List El)
  | 0, _, _ => []
  | fuel + 1, no, els =>
    if els.isEmpty then []
    else
      let k := (32 - no % 32).toNat
      (no / 32, els.take k) :: cutBlocks fuel (no + k) (els.drop k)

/-- A byte of the destination array: plane, displacement, value, and whether padding put it there. -/
structure OutByte where
  plane : Nat
  off   : Int
  val   : Byte
  pad   : Bool
  deriving DecidableEq, Repr

/-- What a run of elements puts into its destination: data bytes, scale bytes by block number with the padding mark, the count of R157
over valid values, and the displacements of padding that counts. -/
structure RunOut where
  bytes  : List OutByte
  scales : List (Int × Byte × Bool)
  count  : Nat
  pads   : List Int
  deriving DecidableEq, Repr

/-- Values of a run of elements that count (R157), apart from what counts once for a block; a value that decoding counted counts once
(R148). -/
def countVals (els : List El) (flags : List Bool) : Nat := ((els.zip flags).filter fun x => !x.1.pad && (x.1.cnt || x.2)).length

/-- Displacements of padding that counts, for a run that begins at element `st` of displacement `off`. -/
def countPads (df : BitVec 5) (off : Int) (st : Nat) (els : List El) (flags : List Bool) : List Int :=
  (List.range els.length).filterMap fun i =>
    if (match els[i]? with | some x => x.pad | none => false) && (flags[i]?).getD false then some (off + (fmtBits df * (st + i) / 8 : Nat)) else none

/-- Bytes of the element codes of a run that begins at element `st` of displacement `off`; planes from the sign plane down. -/
def codeBytes (df : BitVec 5) (off : Int) (st : Nat) (els : List El) (codes : List Nat) : List OutByte :=
  let b := fmtBits df
  let padAt (i : Nat) : Bool := match els[i]? with | some x => x.pad | none => false
  let bytes (p : Nat) (cs : List Nat) : List OutByte :=
    let bs := bytesOf (b * els.length / 8) (packCodes b cs)
    (List.range bs.length).map fun (j : Nat) => ⟨p, off + (b * st / 8 : Nat) + j, (bs[j]?).getD 0, padAt (8 * j / b)⟩
  if isBP df then
    (List.range (bpK df)).flatMap fun k => let p := bpK df - 1 - k; bytes p (codes.map fun c => c / 2 ^ p % 2)
  else bytes 0 codes

/-- Encodes a run of elements that begins at element `st` of displacement `off` of the destination array. -/
def encodeRun (m : Mode) (df : BitVec 5) (pol : Word) (off : Int) (st : Nat) (els : List El) : RunOut :=
  if hasScale df then
    let bl := (cutBlocks (els.length + 1) (elNo df off st) els).map fun g => (g.1, g.2, encBlock m df pol g.2)
    let flags := bl.flatMap fun g => g.2.2.flags
    { bytes := codeBytes df off st els (bl.flatMap fun g => g.2.2.codes)
      scales := bl.map fun g => (g.1, g.2.2.scale, g.2.1.all fun x => x.pad)
      count := countVals els flags + bl.foldl (fun a g => a + g.2.2.once) 0
      pads := countPads df off st els flags }
  else
    let cs := els.map (encOne m df pol)
    { bytes := codeBytes df off st els (cs.map (·.1)), scales := []
      count := countVals els (cs.map (·.2)), pads := countPads df off st els (cs.map (·.2)) }

/-- Bytes of a run of elements as its digest stream folds them: data bytes, then scale bytes (R287; log entry 33). -/
def RunOut.stream (o : RunOut) : List Byte := o.bytes.map (·.val) ++ o.scales.map (·.2.1)

/-- Values of a run of elements that count under R157. -/
def RunOut.counted (o : RunOut) : Nat := o.count + o.pads.length

/-- What of a run of elements lies in the 32-byte lanes below `lane` (R192). -/
def RunOut.cut (o : RunOut) (f : BitVec 5) (lane : Int) : RunOut :=
  { o with bytes := o.bytes.filter fun x => decide (x.off / 32 < lane)
           scales := o.scales.filter fun x => decide ((x.1 * 32 + 31) * fmtBits f / 8 / 32 < lane) }

/-- Byte of an array at which the block of an element begins. -/
def blockByte (f : BitVec 5) (off : Int) (n : Nat) : Int := (bitPos f off n - elNo f off n % 32 * fmtBits f) / 8

/-- Codes from a byte on that the stop of a run leaves open: those of a block of which an element is not read (R192, log entry 106). -/
def RunOut.openFrom (o : RunOut) (free : Nat) (start : Int) : RunOut :=
  { o with bytes := o.bytes.map fun x => if start ≤ x.off then { x with val := Config.cutByte free x.off.toNat } else x }

/-! ### Addresses of a run (R113, R116, R175, R192) -/

/-- Pages of virtual addresses, as pieces that a walk translates. -/
def pagesOf (vas : List Nat) : List (Nat × Nat) := (vas.map fun a => a / 65536 * 65536).eraseDups.map fun a => (a, 1)

/-- The walks for these addresses: a table entry that is not at its home slice is fetched first, else the translations are kept and the
flag is set. -/
def State.walked (s : State) (q : QuadNo) (vas : List Nat) (ini : Initiator) : State × Bool :=
  let ps := pagesOf vas
  match s.walkMiss q ps with
  | some pa => (s.fetchPieces [(pa, 8)] ini, false)
  | none => (s.cacheLeaves q ps, true)

/-- The walks of a run for these addresses; one that is denied ends it (R75, R192). -/
def State.walkedFor (s : State) (q : QuadNo) (seq : Nat) (vas : List Nat) (ini : Initiator) : State × Bool :=
  let w := s.walked q vas ini
  if (s.walkMiss q (pagesOf vas)).any fun pa => s.denies [(pa, 8)] then (w.1.runUncorr q seq, false) else w

/-- Something that uses translations which an indexed run has kept for a window (R217): they stand before those of the ATU, whose cache is
afterwards as it was. -/
def State.keeping (s : State) (q : QuadNo) (ls : List Leaf) (f : State → State) : State :=
  if ls.isEmpty then f s
  else (f (s.modQuad q fun y => { y with tlb := ls ++ y.tlb })).modQuad q fun y => { y with tlb := (s.quad q).tlb }

/-- Leaves for the pages of virtual addresses. -/
def State.leavesFor (s : State) (q : QuadNo) (vas : List Nat) : List Leaf :=
  ((pagesOf vas).filterMap fun x => match s.leafFor q x.1 with | .leaf l => some l | _ => none).eraseDups

/-- Where the default target answers a run's packets: address, write, virtual address. -/
def State.defaultsOf (s : State) (q : QuadNo) (l : List (Nat × Bool)) : List (Nat × Bool × Nat) :=
  l.filterMap fun x => match s.xlate q x.1 x.2 with
    | .decerr a => some (a, false, x.1)
    | .pa a => if s.isDefault a then some (a, x.2, x.1) else none
    | _ => none

/-- The default target answers a packet of a run: it is recorded once for each line, and the run will end with DECERR (R175, R192). -/
def State.answerLine (s : State) (q : QuadNo) (r : Run) (pa : Nat) (write : Bool) (va : Nat) : State × Run :=
  if r.answered.contains (pa / 256, write) then (s, r)
  else (s.defaultAnswer q (BitVec.ofNat 52 pa) (BitVec.ofNat 5 routePortNo) write,
    { r with answered := (pa / 256, write) :: r.answered, decerr := some (r.decerr.getD (vaDetail va)) })

def State.answerRun (s : State) (q : QuadNo) (r : Run) (l : List (Nat × Bool)) : State × Run :=
  (s.defaultsOf q l).foldl (fun (a : State × Run) x => a.1.answerLine q a.2 x.1 x.2.1 x.2.2) (s, r)

/-- What of these bytes the default target answers (R175): an INFO Pennant of class DECERR for each line, from port 24. -/
def State.noteDefaults (s : State) (q : QuadNo) (vas : List Nat) (write : Bool) : State :=
  let pas := (s.defaultsOf q (vas.map fun a => (a, write))).map fun x => (x.1 / 256 * 256, x.2.1)
  pas.eraseDups.foldl (fun s x => s.defaultAnswer q (BitVec.ofNat 52 x.1) (BitVec.ofNat 5 routePortNo) x.2) s

/-- Addresses of a run of bytes. -/
def vasOf (va n : Nat) : List Nat := (List.range n).map fun (i : Nat) => vaOf va i

/-- First translation fault among addresses: code and address. -/
def State.firstFault (s : State) (q : QuadNo) (l : List (Nat × Bool)) : Option (Code × Nat) :=
  l.findSome? fun x => match s.xlate q x.1 x.2 with | .fault c => some (c, x.1) | _ => none

/-! ### Writing (R192, R194, R195, R203, R204) -/

/-- Writes one byte at a virtual address; a line of the default target drops it (R175, R192). A byte of another instance's memory leaves
with its line (`posted`). -/
def State.vwrite (s : State) (q : QuadNo) (va : Nat) (b : Byte) (ini : Initiator) : State :=
  match s.xlate q va true with
  | .pa a => if s.ownPa a then s.writeMem a [b] ini else if s.isDefault a then s else { s with mem := s.mem.writeBytes a [b] }
  | _ => s

/-- Bytes at addresses as packets, each of following bytes of one line (R158). -/
def packetsOf : List (Nat × Byte) → List (Nat × List Byte)
  | [] => []
  | x :: l =>
    match packetsOf l with
    | (a, bs) :: r => if a = x.1 + 1 ∧ a / 256 = x.1 / 256 then (x.1, x.2 :: bs) :: r else (x.1, [x.2]) :: (a, bs) :: r
    | [] => [(x.1, [x.2])]

/-- The packets with what was written to memory of other instances leave (R365). -/
def State.posted (s : State) (q : QuadNo) (l : List (Nat × Byte)) (ini : Initiator) : State :=
  (packetsOf (l.filterMap fun x => match s.xlate q x.1 true with
    | .pa a => if s.ownPa a || s.isDefault a then none else some (a, x.2)
    | _ => none)).foldl (fun s x => s.sendAway .write x.1 x.2 ini) s

/-- Writes bytes at virtual addresses. -/
def State.vwrites (s : State) (q : QuadNo) (l : List (Nat × Byte)) (ini : Initiator) : State :=
  (l.foldl (fun s x => s.vwrite q x.1 x.2 ini) s).posted q l ini

/-- Puts the bytes and scales of a run into memory. -/
def State.putMem (s : State) (q : QuadNo) (v : View) (o : RunOut) (ini : Initiator) : State :=
  (s.vwrites q (o.bytes.map fun x => (vaOf v.base (planeOff v x.plane + x.off), x.val)) ini).vwrites q
    (o.scales.map fun x => (vaOf v.base (v.soff + x.1), x.2.1)) ini

/-- Replaces a byte of a row that is being assembled. -/
def bufByte (l : List (Nat × Row)) (row o : Nat) (b : Byte) : List (Nat × Row) :=
  match l.find? fun x => x.1 == row with
  | some x => l.map fun y => if y.1 = row then (row, rowPatch x.2 o [b]) else y
  | none => l ++ [(row, rowPatch 0 o [b])]

/-- Puts the bytes and scales of a run into the rows being assembled (R195). -/
def layTile (v : View) (l : List (Nat × Row)) (o : RunOut) : List (Nat × Row) :=
  let l := o.bytes.foldl (fun l x =>
    let t := x.off.toNat
    bufByte l (if isBP v.fmt then planeRowOf v.fmt (t / v.rb) x.plane else dataRowOf v.fmt (t / v.rb)) (t % v.rb) x.val) l
  let perRow := v.rb * 8 / fmtBits v.fmt / 32
  o.scales.foldl (fun l x =>
    let y := scaleByteOf v.fmt v.rb (x.1.toNat / perRow) (x.1.toNat % perRow)
    bufByte l y.1 y.2 x.2.1) l

/-- Tile rows of data row d: its data or plane rows, and its scale row (R136, R140). -/
def dataTileRows (f : BitVec 5) (rb d : Nat) : List Nat :=
  (if isBP f then (List.range (bpK f)).map (planeRowOf f d) else [dataRowOf f d])
    ++ (if isMX f || isBP f then [(scaleByteOf f rb d 0).1] else [])

/-- Valid part of a unit: none of it lies in padding but for the innermost dimension. Every position of a GATHER is a row (R210). -/
def unitValid (d : Desc) (is : List Nat) : Bool := dKind d == kGATHER || !unitPad d is

/-- Drops what R203 and R204 keep from the destination: padding with PADWRITE clear in memory, padding over valid data. `covered` says
where an earlier unit has written valid data. What is not written does not count (R157). -/
def keepOutBy (d : Desc) (mem : Bool) (covered : Int → Bool) (f : BitVec 5) (o : RunOut) : RunOut :=
  let keeps (off : Int) : Bool := (!mem || dPadwrite d) && !covered off
  { o with
    bytes := o.bytes.filter fun x => !x.pad || keeps x.off
    scales := o.scales.filter fun x => !x.2.2 || keeps (x.1 * 32 * fmtBits f / 8)
    pads := o.pads.filter keeps }

end Sys2Proof.Machine
end

