-- ==== Sys2Proof/Machine/Routes.lean ====
section
/-! DEFINITION. Kicks, start checks and the life of runs (R187-R193, R198-R207, R226, R250-R258, R313, R316). -/

namespace Sys2Proof.Machine

/-! ### Descriptors (R180, R182-R189, R208-R211, R238, R253, R270, R271, R276, R313) -/

/-- Descriptor of a route, zero where nothing is written (R180). -/
def State.desc (s : State) (r : RouteId) : Desc := ((s.rt.desc.find? fun x => x.1 == r).map (·.2)).getD 0

/-- A reserved bit of the header (R182). -/
def headerReserved (d : Desc) : Bool :=
  bf d 4 3 != 0 || bf d 15 1 != 0 || bf d 21 3 != 0 || bf d 29 3 != 0 || bf d 78 2 != 0 || bf d 84 2 != 0 || bf d 88 8 != 0

/-- Bits of an endpoint word that its type defines (R184, R238, R270). -/
def epMask (kind ep : Nat) : Nat :=
  if ep = epMEM then 2 ^ 48 - 1
  else if ep = epTILE then 0x1FF001F
  else if ep = epGROUP then 0x1F1F
  else if ep = epGEN then 0x1FF33FFF
  else if ep = epSTASH then 0x1FFF0FFF0F3F01FF
  else if ep = epXSP then (if kind = kMERGE then 1 else 0)
  else 0

/-- Endpoints a kind allows: sources and destinations (R183). -/
def epAllowed (kind : Nat) : List Nat × List Nat :=
  let mtg := [epMEM, epTILE, epGEN]
  if kind = kCOPY || kind = kTRANSPOSE then (mtg, mtg)
  else if kind = kSPLIT || kind = kJOIN then ([epMEM, epTILE], [epMEM, epTILE])
  else if kind = kBROADCAST then (mtg, [epGROUP])
  else if kind = kGATHER then ([epMEM], [epMEM, epTILE])
  else if kind = kSCATTER then ([epMEM, epTILE], [epMEM])
  else if kind = kPUT then ([epTILE], [epSTASH])
  else if kind = kGET then ([epSTASH], [epTILE])
  else if kind = kDUAL then ([epMEM, epGEN], [epMEM, epGEN])
  else if kind = kPARITY then ([epGEN], [epXSP])
  else if kind = kMERGE then ([epXSP], [epMEM, epGEN])
  else ([], [])

def isTileEp (ep : Nat) : Bool := ep == epTILE || ep == epGROUP

/-- A GEN endpoint word that fails its kick: reserved SLOT, a destination that is not the next slot, or the next slot of a
frozen tensor (R184, R253). -/
def State.genWordBad (s : State) (w : BitVec 64) (dst : Bool) : Bool :=
  epGenSlot w == 3 || (dst && epGenSlot w != 1)
    || (epGenSlot w == 1 && ((s.gen? (epGenIdx w)).map (·.frozen)).getD false)

/-- Endpoint checks of R183, R184 and R189. -/
def State.epBad (s : State) (d : Desc) : Bool :=
  let k := dKind d
  let one (ep : Nat) (w : BitVec 64) (dst : Bool) : Bool :=
    (w.toNat &&& epMask k ep) != w.toNat
      || (ep == epTILE && decide (epCell w / 64 ≠ s.pins.instanceId.toNat))
      || (ep == epGEN && s.genWordBad w dst)
  !((epAllowed k).1.contains (dSrcEp d)) || !((epAllowed k).2.contains (dDstEp d))
    || one (dSrcEp d) (srcWord d) false || one (dDstEp d) (dstWord d) true

/-- T copy format of a DUAL_ORDER_WRITE (R202). -/
def State.tFmt (s : State) (d : Desc) : BitVec 5 :=
  if dDstEp d = epGEN then ((s.gen? (epGenIdx (dstWord d))).map (·.fmtT)).getD 0 else dDstFmt d

/-- Encoding into BP1 is not defined (R151). -/
def encodesBp1 (kind : Nat) (sf df : BitVec 5) : Bool := modeOf kind sf df == .conv && df == 0x10

/-- Format rules of R130, R143, R144, R151, R189, R200, R202 and R211. -/
def State.fmtBad (s : State) (d : Desc) : Bool :=
  let k := dKind d
  let sf := dSrcFmt d
  let df := dDstFmt d
  !fmtDefined sf || !fmtDefined df
    || (isNP4 sf && (k != kSPLIT || isTileEp (dSrcEp d))) || (isNP4 df && (k != kJOIN || isTileEp (dDstEp d)))
    || (if k = kSPLIT then !((isNP4 sf && df == 0x13) || (sf == 0x05 && isBP df))
        else if k = kJOIN then !((isNP4 df && sf == 0x13) || (df == 0x05 && isBP sf))
        else encodesBp1 k sf df)
    || (k == kTRANSPOSE && !(decide (sf.toNat ≤ 5) && decide (df.toNat ≤ 5)))
    || (k == kDUAL && (sf != 0 || (dDstEp d == epMEM && hasScale df) || isNP4 (s.tFmt d) || encodesBp1 k sf (s.tFmt d)))
    || ((k == kGATHER || k == kSCATTER) && (hasScale sf || hasScale df))
    || (k == kSCATTER && (if idxAccXor d then sf != df else (df != 0 || decide (5 < sf.toNat))))
    || ((k == kPUT || k == kGET) && sf != df)
    || (k == kMERGE && sf != 0)

/-- Every DCNT and SEXT is 1 and every PADLO 0. -/
def neutral (d : Desc) : Bool := (List.range 6).all fun k => dcnt d k == 1 && sext d k == 1 && padlo d k == 0

/-- Elements of the destination of a pattern. -/
def destCount (d : Desc) : Nat := (List.range 6).foldl (fun a k => a * dcnt d k) 1

/-- Counts of the outer dimensions that number positions: destination for a GATHER, source for a SCATTER_ACC (R210). -/
def posCnt (d : Desc) : List Nat := (List.range 5).map fun k => if dKind d = kGATHER then dcnt d (k + 1) else sext d (k + 1)

/-- Index count N (R210). -/
def posCount (d : Desc) : Nat := (posCnt d).foldl (· * ·) 1

/-- Kind-specific rules of bytes 112-127 and of the pattern (R186, R202, R210, R211, R238, R270, R271, R313, R414). -/
def State.tailBad (s : State) (d : Desc) : Bool :=
  let k := dKind d
  if k = kCOPY || k = kTRANSPOSE || k = kSPLIT || k = kJOIN || k = kBROADCAST then dfld d 124 4 != 0
  else if k = kGATHER || k = kSCATTER then
    decide (2 ^ 40 < posCount d) || bf d (118 * 8 + 4) 4 != 0 || dfld d 119 1 != 0 || dfld d 125 3 != 0 || idxMode d == 3 || idxExtent d == 0
      || (if k = kGATHER then
            idxAccXor d || (List.range' 1 5).any fun i => sext d i != 1 || padlo d i != 0
          else dcnt d 0 != sext d 0 || ((List.range' 1 5).any fun i => dcnt d i != 1) || (List.range 6).any fun i => padlo d i != 0)
  else if k = kPUT || k = kGET then !neutral d || tail16 d != 0
  else if k = kDUAL then dfld d 122 6 != 0 || (dDstEp d == epGEN && dfld d 112 6 != 0)
  else if k = kPARITY then
    !neutral d || tail16 d != 0 || epGenSlot (srcWord d) != 1 || epGenPart (srcWord d) != 0
      || !(s.par.mcfg.getLsbD 31)
      || (match s.gen? (epGenIdx (srcWord d)) with | some g => g.frozen || !g.prot | none => false)
  else if k = kMERGE then
    dfld d 122 6 != 0 || dfld d 112 6 % 4096 != 0 || dfld d 118 4 % 4096 != 0
      || ((List.range 6).any fun i => sext d i != dcnt d i || padlo d i != 0)
      || !(s.glob.vshard.getLsbD 15) || decide (2 ^ 40 < destCount d * 4)
  else true

/-- A kick fails with ROUTEBAD (R189, R211, R238, R253, R271, R276, R313). -/
def State.kickBad (s : State) (d : Desc) : Bool :=
  !dValid d || headerReserved d || dPadval d == 3 || s.epBad d
    || ((List.range 6).any fun k => dcnt d k == 0 || sext d k == 0)
    || s.fmtBad d || s.tailBad d || (dRnd d && decide (2 ^ 51 < destCount d))

/-! ### GEN endpoints (R250-R258) -/

/-- Base, format, plane stride and scale offset of a part of a slot (R184, R250). -/
def Gen.part (g : Gen) (slotB : Bool) (p : Nat) : View :=
  let b := g.base slotB
  match p with
  | 0 => { fmt := g.fmtM, base := b }
  | 1 => { fmt := g.fmtO, base := b + g.offO.toNat * 256 }
  | 2 => { fmt := g.fmtN, base := b + g.offN.toNat * 256, ps := g.nPs.toNat, soff := g.nSo.toInt }
  | _ => { fmt := g.fmtT, base := b + g.offT.toNat * 256, ps := g.tPs.toNat, soff := g.tSo.toInt }

/-- Counter c is newer than d (R252). -/
def newer (c d : BitVec 16) : Bool := let k := (c - d).toNat; decide (1 ≤ k) && decide (k ≤ 32767)

/-- Recorded generation of a micro-batch slot for a tensor (R253). -/
def State.recorded (s : State) (idx : BitVec 12) (mb : BitVec 9) : Option (BitVec 16) :=
  s.stash.entries.foldl (fun a x =>
    match x.gen with
    | some (i, c) => if i = idx ∧ x.slot = mb then (match a with | some d => some (if newer c d then c else d) | none => some c) else a
    | none => a) none

/-- Slot of a GEN endpoint: true for slot B; none is GENSTALE (R253). -/
def State.genSlot (s : State) (w : BitVec 64) : Option (Gen × Bool) :=
  match s.gen? (epGenIdx w) with
  | none => none
  | some g =>
    if g.frozen then some (g, false)
    else if epGenSlot w = 0 then some (g, g.live)
    else if epGenSlot w = 1 then some (g, !g.live)
    else match s.recorded g.idx (epGenMb w) with
      | none => none
      | some c =>
        if c = g.liveCtr then some (g, g.live)
        else if c = g.otherCtr && g.st != .writing then some (g, !g.live)
        else none

/-- A kick or run has a GEN endpoint (R258). -/
def usesGen (d : Desc) : Bool := dSrcEp d == epGEN || dDstEp d == epGEN

/-- Moves a kick on towards its start as R257 has it: the next slot is granted, or the kick waits in GENWAIT. -/
def State.askNext (s : State) (k : Kick) : State × Kick :=
  match (writesNext k.desc).bind s.gen? with
  | none => (s, { k with granted := true, genwait := none })
  | some g =>
    if g.st == .writing || g.frozen then (s, { k with granted := true, genwait := none })
    else if s.refs g.idx g.otherCtr = 0 then
      (s.modGen g.idx fun x => { x.setOther (x.liveCtr + 1) with st := .writing }, { k with granted := true, genwait := none })
    else (s.modGen g.idx fun x => { x with st := .genwait }, { k with genwait := some (k.genwait.getD s.clk.gtc) })

/-! ### Kicks (R187-R189) -/

/-- Engine that executes a kick (R187). -/
def kickEngine (src : KickSrc) (r : RouteId) : QuadNo :=
  match src with
  | .port e _ => quadOf e.p
  | _ => ⟨r.toNat % 4, by omega⟩

/-- ROUTEBAD Pennant of a service or tick kick (R189). -/
def State.badKick (s : State) (r : RouteId) (q : QuadNo) : State :=
  s.report lvlRoute (srcRoute q r) 0x0B .info (detA 0x1F 0 0x10 0 (r.setWidth 32) r.toNat 0xFFFF)

/-- Generation that a STASH_PUT kick records (R50, R234). -/
def State.putGen (s : State) (d : Desc) : Option (BitVec 12 × BitVec 16) :=
  let w := dstWord d
  if dKind d = kPUT && epStashGenV w then (s.gen? (epStashGen w)).map fun g => (g.idx, g.liveCtr) else none

/-- No kick asks for its slot during a Tumbler stop (R255), nor one with a GEN endpoint while a decided boundary is under way (R258). -/
def State.asksLater (s : State) (d : Desc) : Bool := s.tmb.stop || s.tmb.hold || s.step.paused || (s.step.decided.isSome && usesGen d)

/-- A kick is taken: its descriptor is copied and checked (R181, R189); none when it fails with ROUTEBAD. -/
def State.takeKick (s : State) (src : KickSrc) (r : RouteId) : Option (State × Nat) :=
  let d := s.desc r
  if s.kickBad d then none
  else
    let seq := s.rt.seq + 1
    let k : Kick := { seq := seq, route := r, desc := d, src := src, eng := kickEngine src r, gen := s.putGen d }
    let x := if s.asksLater d then (s, k) else s.askNext k
    some ({ x.1 with rt := { x.1.rt with kicks := x.1.rt.kicks ++ [x.2], seq := seq } }, seq)

/-! ### Start checks (R190, R195, R201, R202, R205, R212, R226, R253) -/

/-- A failed check: code and DETAIL. -/
abbrev Fail := Code × Word

/-- DETAIL of a check that fails with no tile (R331: 0x1F when none). -/
def noTile : Word := 0x1F

/-- Tile of a TILE endpoint: its cell, the tile and its configuration; none is TNOTVALID (R190 check 1). -/
def State.tileEp (s : State) (w : BitVec 64) : Option (PCell × Tile × TileCfg) :=
  match s.physOf (epLocal w) with
  | none => none
  | some p => match (s.cell p).tile? (epTileNo w) with
    | none => none
    | some t => t.cfg.map fun c => (p, t, c)

/-- Destination tiles of a run with their configurations, for GROUP in ascending logical number, cells without a working
physical cell left out (R201). -/
def State.groupTiles (s : State) (w : BitVec 64) : List (LCell × Option (Tile × TileCfg)) :=
  (s.groupCells w).filterMap fun l => (s.physOf l).map fun p =>
    (l, match (s.cell p).tile? (epGroupTile w) with | some t => t.cfg.map fun c => (t, c) | none => none)

/-- Virtual addresses need no check here; a tile view of a configuration. -/
def tileView (f : BitVec 5) (t : TileNo) (c : TileCfg) : View := { fmt := f, tile := t, rb := c.bytes }

/-- Source view (R184, R186, R253). `none` is GENSTALE. -/
def State.srcView (s : State) (d : Desc) : Option View :=
  let w := srcWord d
  if dSrcEp d = epGEN then (s.genSlot w).map fun g => g.1.part g.2 (epGenPart w)
  else if dSrcEp d = epTILE then
    some (match s.tileEp w with | some x => tileView (dSrcFmt d) (epTileNo w) x.2.2 | none => { fmt := dSrcFmt d })
  else if dSrcEp d = epMEM then
    some { fmt := dSrcFmt d, base := epBase w, ps := srcPstride d, soff := if hasScale (dSrcFmt d) then srcSoff d else 0 }
  else some { fmt := dSrcFmt d, base := dfld d 112 6 }

/-- Destination view; REDUCE_MERGE names no scale array or planes of a memory destination (log entry 28). A GROUP without a working cell
is delivered nowhere (R201). -/
def State.dstView (s : State) (d : Desc) : Option View :=
  let w := dstWord d
  if dDstEp d = epGEN then (s.genSlot w).map fun g => g.1.part g.2 (epGenPart w)
  else if dDstEp d = epTILE then
    some (match s.tileEp w with | some x => tileView (dDstFmt d) (epTileNo w) x.2.2 | none => { fmt := dDstFmt d })
  else if dDstEp d = epGROUP then
    some (match (s.groupTiles w).find? (·.2.isSome) with
      | some (_, some x) => tileView (dDstFmt d) (epGroupTile w) x.2
      | _ => { fmt := dDstFmt d, tile := epGroupTile w, rb := 256 })
  else if dKind d = kMERGE then some { fmt := dDstFmt d, base := epBase w }
  else some { fmt := dDstFmt d, base := epBase w, ps := dstPstride d, soff := if hasScale (dDstFmt d) then dstSoff d else 0 }

/-- T copy of a DUAL_ORDER_WRITE (R202). -/
def State.tView (s : State) (d : Desc) : View :=
  if dKind d ≠ kDUAL then {}
  else if dDstEp d = epGEN then
    match s.genSlot (dstWord d) with | some g => g.1.part g.2 3 | none => {}
  else { fmt := dDstFmt d, base := dfld d 112 6 }

/-- T_STRIDE1 (R202). -/
def tStride (d : Desc) : Int := dsfld d 118 4

/-- Does a kind exchange dimensions 0 and 1 (R200, R202)? -/
def swaps (d : Desc) : Bool := dKind d == kTRANSPOSE || dKind d == kDUAL

/-- Check 1 of R190: TILE endpoints. -/
def State.check1 (s : State) (d : Desc) : Option Fail :=
  let bad (w : BitVec 64) (src : Bool) : Bool := match s.tileEp w with | none => true | some x => src && !x.2.1.inUse
  if dSrcEp d == epTILE && bad (srcWord d) true then some (.tnotvalid, tileDetail (epTileNo (srcWord d)))
  else if dDstEp d == epTILE && bad (dstWord d) false then some (.tnotvalid, tileDetail (epTileNo (dstWord d)))
  else none

/-- GENSTALE, before check 2 (R253, R313, R233). -/
def State.checkGen (s : State) (d : Desc) : Option Fail :=
  let stale (w : BitVec 64) : Fail := (.genstale, (epGenIdx w).setWidth 32)
  if dSrcEp d == epGEN && (s.genSlot (srcWord d)).isNone then some (stale (srcWord d))
  else if dDstEp d == epGEN && (s.genSlot (dstWord d)).isNone then some (stale (dstWord d))
  else if dKind d == kPUT && epStashGenV (dstWord d) && (s.gen? (epStashGen (dstWord d))).isNone then
    some (.genstale, (epStashGen (dstWord d)).setWidth 32)
  else if dKind d == kPARITY then
    match s.gen? (epGenIdx (srcWord d)) with
    | some g => if g.st != .writing || g.parts != 0xF || s.running.any (fun r => writesNext r.desc == some g.idx) then some (stale (srcWord d)) else none
    | none => none
  else none

/-- Format or layout of a tile against the descriptor's (R190 check 2). -/
def tileFmtBad (f : BitVec 5) (c : TileCfg) : Bool := c.fmt != f || c.layout != isBP f

/-- Check 2 of R190 for TILE and GEN endpoints. -/
def State.check2 (s : State) (d : Desc) (sv dv : View) : Option Fail :=
  let tile (ep : Nat) (w : BitVec 64) (f : BitVec 5) : Option Fail :=
    if ep = epTILE then
      match s.tileEp w with
      | some x => if tileFmtBad f x.2.2 then some (.tfmt, tileDetail (epTileNo w)) else none
      | none => none
    else none
  match tile (dSrcEp d) (srcWord d) (dSrcFmt d) with
  | some x => some x
  | none =>
    if dSrcEp d == epGEN && sv.fmt != dSrcFmt d then some (.tfmt, noTile)
    else match tile (dDstEp d) (dstWord d) (dDstFmt d) with
      | some x => some x
      | none => if dDstEp d == epGEN && dv.fmt != dDstFmt d then some (.tfmt, noTile) else none

/-- An item of check 3: whether it breaks R145 and its value. -/
abbrev Item := Bool × Int

def item (v : Int) : Item := (decide (v % 32 ≠ 0), v)

/-- Segments of an innermost run of the destination as (first element, elements, padding). -/
def segments (d : Desc) (pad : Bool) : List (Nat × Nat × Bool) :=
  if pad then [(0, dcnt d 0, true)]
  else [(0, validLo d, true), (validLo d, validLen d, false), (validLo d + validLen d, dcnt d 0 - validLo d - validLen d, true)].filter
    fun x => x.2.1 ≠ 0

/-- Those of a unit; every position of a GATHER is a row (R210). -/
def unitSegments (d : Desc) (u : Nat) : List (Nat × Nat × Bool) := segments d (dKind d != kGATHER && unitPad d (unitIdx d u))

/-- First innermost run of a unit that breaks R145, source before destination: its byte address. Of SEXT[0] and PADLO[0] the part that DCNT[0]
leaves is what must cover a multiple of 32 bytes (R194; DESIGN CHOICE, log entry 105). -/
def unitAlign (d : Desc) (sv dv : View) (u : Nat) : Option Int :=
  let is := unitIdx d u
  let pad := dKind d != kGATHER && unitPad d is
  let off := dstOff d is
  let srcBad := !pad && !swaps d && dKind d != kMERGE && fmtBits (dSrcFmt d) * validLen d % 256 != 0
  if srcBad then
    some (match srcAt d false is (validLo d) with | .at o _ => (sv.base : Int) + o | _ => sv.base)
  else
    ((unitSegments d u).find? fun x => fmtBits (dDstFmt d) * x.2.1 % 256 ≠ 0).map fun x =>
      (dv.base : Int) + off + (fmtBits (dDstFmt d) * x.1 / 8 : Nat)

/-- First run of the T copy that breaks R145 (R202). -/
def tAlign (d : Desc) (tv : View) : Option Int :=
  let lo := min (padlo d 1) (dcnt d 1)
  let n := min (sext d 1) (dcnt d 1 - lo)
  if dKind d = kDUAL && [lo, n, dcnt d 1 - lo - n].any (fun k => fmtBits tv.fmt * k % 256 ≠ 0) then some tv.base else none

/-- Table rows of an indexed run lie in [0, 2^48) (R212). -/
def tableOut (base : Nat) (stride : Int) (len extent : Nat) : Bool :=
  let far : Int := base + (extent - 1 : Nat) * stride
  decide (min (base : Int) far < 0) || decide (2 ^ 48 < max (base : Int) far + len)

/-- Check 3 of R190 and R212. R190's list does not name the T copy of a DUAL_ORDER_WRITE nor the counts that R200 has be multiples of 32: the
T copy's base, plane stride and row stride follow those of the destination, the counts come after the strides (DESIGN CHOICE, log entry 92). -/
def check3 (d : Desc) (sv dv tv : View) : Option Fail :=
  let k := dKind d
  let mem (v : View) : Bool := v.rb == 0
  let src := k ≠ kMERGE
  let idx := k = kGATHER || k = kSCATTER
  let items : List Item :=
    (if src && mem sv then [item sv.base] else [])
    ++ (if mem dv then [item dv.base] else [])
    ++ (if k = kDUAL then [item tv.base] else [])
    ++ (if idx then [item (idxBase d)] else [])
    ++ (if src && mem sv && isBP sv.fmt then [item sv.ps] else [])
    ++ (if mem dv && isBP dv.fmt then [item dv.ps] else [])
    ++ (if k = kDUAL && isBP tv.fmt then [item tv.ps] else [])
    ++ (if src then (List.range' 1 5).map fun i => item (srcStride d i) else [])
    ++ ((List.range' 1 5).map fun i => item (dstStride d i))
    ++ (if k = kDUAL then [item (tStride d)] else [])
    ++ (if swaps d then [0, 1].flatMap fun i => [item (dcnt d i), item (sext d i), item (padlo d i)] else [])
  let fail (v : Int) : Option Fail := some (.align, BitVec.ofInt 32 v)
  match items.find? (·.1) with
  | some x => fail x.2
  | none =>
    match (List.range (if k = kSCATTER then 1 else unitCount d)).findSome? (unitAlign d sv dv) with
    | some v => fail v
    | none =>
      match tAlign d tv with
      | some v => fail v
      | none =>
        if k = kGATHER && tableOut sv.base (srcStride d 1) (eb (dSrcFmt d) (sext d 0)) (idxExtent d) then fail sv.base
        else if k = kSCATTER && tableOut dv.base (dstStride d 1) (eb (dDstFmt d) (dcnt d 0)) (idxExtent d) then fail dv.base
        else none

/-- A run of `bits` bits at data address `t` lies within one data row below `rows` (R195). -/
def inOneRow (rb rows : Nat) (t : Int) (bits : Nat) : Bool :=
  decide (0 ≤ t) && (bits == 0 || (decide (t.toNat / rb = (t.toNat + (bits - 1) / 8) / rb) && decide (t.toNat / rb < rows)))

/-- Check 4 of R190 for a destination tile: no innermost run, valid or padding (R194), crosses a data row. -/
def dstShape (d : Desc) (c : TileCfg) : Bool :=
  (List.range (unitCount d)).all fun u => (unitSegments d u).all fun x =>
    inOneRow c.bytes (dataRows (dDstFmt d) c.rows) (dstOff d (unitIdx d u) + (eb (dDstFmt d) x.1 : Nat)) (fmtBits (dDstFmt d) * x.2.1)

/-- Data addresses at which the innermost runs of a source tile begin, with their length in elements. -/
def srcRuns (d : Desc) : List (Int × Nat) :=
  if dKind d = kSCATTER then
    let cs := (List.range 5).map fun k => sext d (k + 1)
    (List.range (cs.foldl (· * ·) 1)).map fun u => (strideSum (srcStride d) 1 (coordsOf cs u), sext d 0)
  else if swaps d then
    let lo := min (padlo d 1) (dcnt d 1)
    let n := min (sext d 1) (dcnt d 1 - lo)
    (List.range (unitCount d)).flatMap fun u =>
      let is := unitIdx d u
      if is.headD 0 ≠ lo then []
      else (List.range (dcnt d 0)).filterMap fun i0 => match srcAt d true is i0 with | .at o _ => some (o, n) | _ => none
  else
    (List.range (unitCount d)).filterMap fun u =>
      match srcAt d false (unitIdx d u) (validLo d) with | .at o _ => some (o, validLen d) | _ => none

/-- Check 4 of R190: destination tile, source tile, and R212's row stride. -/
def State.check4 (s : State) (d : Desc) : Option Fail :=
  let dst : Bool := if dDstEp d = epTILE then (match s.tileEp (dstWord d) with | some x => !dstShape d x.2.2 | none => false) else false
  let src : Bool := if dSrcEp d = epTILE then
      (match s.tileEp (srcWord d) with
        | some x => !(srcRuns d).all fun r => inOneRow x.2.2.bytes (2 ^ 48) r.1 (fmtBits (dSrcFmt d) * r.2)
        | none => false)
    else false
  if dst then some (.tshape, tileDetail (epTileNo (dstWord d)))
  else if src then some (.tshape, tileDetail (epTileNo (srcWord d)))
  else if dKind d == kSCATTER && decide ((dstStride d 1).natAbs < eb (dDstFmt d) (dcnt d 0)) then some (.tshape, noTile)
  else none

/-- Check 5 of R190: data rows of a source tile below VALIDROWS. -/
def State.check5 (s : State) (d : Desc) : Option Fail :=
  if dSrcEp d ≠ epTILE then none
  else match s.tileEp (srcWord d) with
    | none => none
    | some x =>
      if (srcRuns d).all fun r => (dataTileRows (dSrcFmt d) x.2.2.bytes (r.1.toNat / x.2.2.bytes)).all fun n => decide (n < x.2.1.valid)
      then none else some (.tnotvalid, tileDetail (epTileNo (srcWord d)))

/-- The checks that apply to each destination tile of a GROUP: the first cell that fails one names the code, with the
number of the check (R201). -/
def State.groupFail (s : State) (d : Desc) : Option (Nat × Fail) :=
  if dDstEp d ≠ epGROUP then none
  else
    let det := tileDetail (epGroupTile (dstWord d))
    (s.groupTiles (dstWord d)).findSome? fun x =>
      match x.2 with
      | none => some (1, .tnotvalid, det)
      | some (_, c) =>
        if tileFmtBad (dDstFmt d) c then some (2, .tfmt, det)
        else if !dstShape d c then some (4, .tshape, det)
        else none

/-- Byte ranges of one destination array: dimension `inner` is packed, `st` gives the strides of the others (R205). The positions of a
GATHER run over the whole of the outer dimensions (R210). -/
def arrayRanges (d : Desc) (v : View) (inner : Nat) (st : Nat → Int) : List (Nat × Nat) :=
  let lohi (k : Nat) : Int × Int :=
    if dPadwrite d || (dKind d = kGATHER && k ≠ 0) then (0, dcnt d k - 1) else (min (padlo d k) (dcnt d k), (min (dcnt d k) (padlo d k + sext d k) : Int) - 1)
  if (List.range 6).any fun k => decide ((lohi k).2 < (lohi k).1) then []
  else
    let others := (List.range 6).filter (· ≠ inner)
    let lo := others.foldl (fun a k => a + min ((lohi k).1 * st k) ((lohi k).2 * st k)) 0
    let hi := others.foldl (fun a k => a + max ((lohi k).1 * st k) ((lohi k).2 * st k)) 0
    let b := fmtBits v.fmt
    let blo : Int := 8 * lo + b * (lohi inner).1
    let bhi : Int := 8 * hi + b * ((lohi inner).2 + 1) - 1
    let at' (o : Int) : Nat := ((v.base : Int) + o).toNat
    ((List.range (planesOf v.fmt)).map fun p => (at' (planeOff v p + blo / 8), at' (planeOff v p + bhi / 8 + 1)))
      ++ (if hasScale v.fmt then [(at' (v.soff + blo / b / 32), at' (v.soff + bhi / b / 32 + 1))] else [])

/-- Ranges that a run registers (R205). -/
def runRanges (d : Desc) (dv tv : View) : List (Nat × Nat) :=
  if dDstEp d = epMEM || dDstEp d = epGEN then
    arrayRanges d dv 0 (dstStride d)
      ++ (if dKind d = kDUAL then arrayRanges d tv 1 (fun k => if k = 0 then tStride d else dstStride d k) else [])
  else []

def Range.meets (a : Range) (lo hi : Nat) : Bool := decide (a.lo < hi) && decide (lo < a.hi)

/-- Is the run with this kick number running? -/
def State.isRunning (s : State) (seq : Nat) : Bool := s.running.any fun r => r.seq == seq

/-- Check 6 for a run that registers its ranges (R205, R226). -/
def State.claim (s : State) (r : Run) (ranges : List (Nat × Nat)) : State × Option Code :=
  let canon := dCanon r.desc
  let other := s.rt.overlap.filter fun x => x.route != r.route
  let hits := ranges.foldl (fun a x => a + (other.filter fun y => y.meets x.1 x.2 && s.isRunning y.seq).length) 0
  let anyHit := ranges.any fun x => other.any fun y => y.meets x.1 x.2
  let acc := ranges.any fun x => s.rt.accum.any fun y => y.meets x.1 x.2
  let room := 1024 - s.rt.overlap.length
  let new := ranges.map fun x => (⟨r.seq, r.route, x.1, x.2, false⟩ : Range)
  if s.glob.detmode then
    if anyHit then (s, some .ovlap)
    else if room < ranges.length || acc then (s, some .ndetblock)
    else ({ s with rt := { s.rt with overlap := s.rt.overlap ++ new } }, none)
  else
    let n := hits + (if room < ranges.length then 1 else 0) + (if acc then 1 else 0)
    let s := if canon then s else s.addNdet n
    ({ s with rt := { s.rt with overlap := s.rt.overlap ++ new.take room } }, none)

/-- Check 6 for a SCATTER_ACC run (R226). -/
def State.claimAcc (s : State) (r : Run) (dv : View) : State × Option Code :=
  let d := r.desc
  let xor := idxAccXor d
  let far : Int := dv.base + (idxExtent d - 1 : Nat) * dstStride d 1
  let lo := (min (dv.base : Int) far).toNat
  let hi := (max (dv.base : Int) far).toNat + eb (dDstFmt d) (dcnt d 0)
  let hit := s.rt.accum.any (fun y => y.meets lo hi && !(xor && y.xor)) || s.rt.overlap.any fun y => y.meets lo hi && s.isRunning y.seq
  let full := decide (64 ≤ s.rt.accum.length)
  let put : State := if full then s else { s with rt := { s.rt with accum := s.rt.accum ++ [⟨r.seq, r.route, lo, hi, xor⟩] } }
  if s.glob.detmode then (if hit || full then (s, some .ndetblock) else (put, none))
  else (if dCanon d then put else put.addNdet ((if hit then 1 else 0) + (if full then 1 else 0)), none)

/-- The first of the checks that fails, in the order of R190. -/
def State.startFail (s : State) (d : Desc) (sv dv tv : View) : Option Fail :=
  let g := s.groupFail d
  let g1 : Option Fail := g.bind fun x => if x.1 = 1 then some x.2 else none
  let g2 : Option Fail := g.bind fun x => if x.1 = 2 then some x.2 else none
  let g4 : Option Fail := g.bind fun x => if x.1 = 4 then some x.2 else none
  let moves := dKind d != kPUT && dKind d != kGET && dKind d != kPARITY
  (s.check1 d).orElse fun _ => g1.orElse fun _ => (s.checkGen d).orElse fun _ => (s.check2 d sv dv).orElse fun _ => g2.orElse fun _ =>
    if moves then
      (check3 d sv dv tv).orElse fun _ => g4.orElse fun _ => (s.check4 d).orElse fun _ => s.check5 d
    else none

/-! ### Starts (R188, R190, R255-R257, R316) -/

/-- May a kick start on its engine now (R188, R207, R255, R258, R386)? A kick whose own held run is one of the 64 of its engine waits, although
it would replace that run (R188, R191; DESIGN CHOICE, log entry 104). -/
def State.canStart (s : State) (k : Kick) : Bool :=
  k.granted && !(s.running.any fun r => r.route == k.route) && decide ((s.quad k.eng).runs.length < 64)
    && !s.tmb.stop && !s.tmb.hold && !s.step.paused && !s.pins.fatal
    && !(s.step.decided.isSome && usesGen k.desc)
    && (match k.src with | .port _ _ => true | _ => !s.glob.halt)

/-- Does this kick start at once, its run already a running one to a write behind it (R422)? Nothing holds it, and no earlier kick takes the
last slot of its engine (R188). -/
def State.kickStarts (s : State) (k : Kick) : Bool :=
  s.canStart k && decide ((s.quad k.eng).runs.length + (s.rt.kicks.filter fun x => x.eng == k.eng && decide (x.seq < k.seq) && s.canStart x).length < 64)

/-- Routes that have a run that is running or held (R181, R422). -/
def State.takenRoutes (s : State) : List RouteId := s.runs.map (·.route) ++ (s.rt.kicks.filter s.kickStarts).map (·.route)

/-- PARSTALE: a run that writes the next slot starts after the tensor's PARITY_DELTA run (R316). -/
def State.parStale (s : State) (idx : BitVec 12) (route : Nat) (ctr : BitVec 16) : State :=
  ({ s with par := { s.par with stale := true } } : State).report lvlInstance (s.pins.instanceId.setWidth 16) clsParstale .info
    (detG idx route ctr)

/-- Effects on the generation table of a run that starts: PARTS and the parity's coverage (R257, R316). -/
def State.writeNext (s : State) (d : Desc) (route : RouteId) : State :=
  match (writesNext d).bind s.gen? with
  | none => s
  | some g =>
    let p := epGenPart (dstWord d)
    let bits : BitVec 4 := (1 <<< p) ||| (if dKind d = kDUAL then 8 else 0)
    let par := s.par.okIdx.contains g.idx || s.running.any fun r => dKind r.desc == kPARITY && epGenIdx (srcWord r.desc) == g.idx
    let s := s.modGen g.idx fun x => { x with parts := x.parts ||| bits }
    if par && g.prot && s.par.mcfg.getLsbD 31 then
      s.parStale g.idx route.toNat g.otherCtr
    else s

/-- A run that has begun makes its checks; one that passes stays with its views (R190). -/
def State.beginRun (s : State) (q : QuadNo) (r : Run) : State :=
  let d := r.desc
  let sv := (s.srcView d).getD {}
  let dv := (s.dstView d).getD {}
  let tv := s.tView d
  match s.startFail d sv dv tv with
  | some f => s.endRun q r f.1 f.2
  | none =>
    let cells : List LCell := if dDstEp d = epGROUP then (s.groupTiles (dstWord d)).map (·.1) else []
    let r := { r with sv := sv, dv := dv, tv := tv, cells := cells }
    let s := s.putRun q r
    let k := dKind d
    if k = kPUT then (match s.runCell r true with | some p => s.startRunPut q r p | none => s)
    else if k = kGET then
      match s.tileEp (dstWord d) with | some x => s.startRunGet q r x.1 x.2.2 | none => s
    else if k = kPARITY || k = kMERGE then s.writeNext d r.route
    else
      let c := if k = kSCATTER then s.claimAcc r dv else s.claim r (runRanges d dv tv)
      match c.2 with
      | some code => c.1.endRun q r code (r.route.setWidth 32)
      | none => c.1.writeNext d r.route

/-- The RKICK whose kick this is (R50). -/
def State.kickCmd (s : State) (k : Kick) : Option (EPort × Cmd) :=
  match k.src with
  | .port e _ => ((s.port e).cmds.find? fun c => c.kick == some k.seq && c.op == opRKICK).map fun c => (e, c)
  | _ => none

/-- Starts a kick: a held run of its route is replaced, the RKICK completes, the run begins (R50, R188, R191). -/
def State.startKick (s : State) (k : Kick) : State :=
  let r : Run := { seq := k.seq, route := k.route, desc := k.desc, src := k.src, gen := k.gen }
  let s : State := { s with
    rt := { s.rt with kicks := s.rt.kicks.filter fun x => x.seq != k.seq }
    quads := s.quads.map fun x => { x with runs := x.runs.filter fun y => y.route != k.route } }
  let s := s.modQuad k.eng fun x => { x with runs := x.runs ++ [r] }
  let s := match s.kickCmd k with | some (e, c) => s.complete e c .ok 0 | none => s
  s.beginRun k.eng r

/-- The earliest kick of an engine that can start, after a kick that waited for a boundary to end has asked for its slot. -/
def State.runStart (s : State) (q : QuadNo) : State :=
  let wait := s.rt.kicks.find? fun k => k.eng == q && !k.granted && k.genwait.isNone && !s.asksLater k.desc && !(k.carried && s.step.stop)
  let s : State := match wait with
    | some k =>
      let x : State × Kick := s.askNext k
      { x.1 with rt := { x.1.rt with kicks := x.1.rt.kicks.map fun y => if y.seq = k.seq then x.2 else y } }
    | none => s
  match s.rt.kicks.find? (fun k : Kick => k.eng == q && s.canStart k) with
  | some k => s.startKick k
  | none => s

/-- A kick that waits in GENWAIT asks again (R255, R257); none starts during a stop or a decided boundary. -/
def State.genRelease (s : State) (route : RouteId) : State :=
  match s.rt.kicks.find? fun k => k.route == route && k.genwait.isSome with
  | none => s
  | some k =>
    if s.tmb.stop || s.tmb.hold || s.step.paused || s.step.decided.isSome || (k.carried && s.step.stop) then s
    else
      let x : State × Kick := s.askNext k
      { x.1 with rt := { x.1.rt with kicks := x.1.rt.kicks.map fun y => if y.seq = k.seq then x.2 else y } }

/-- GEN_TIMEOUT in ticks (R256). -/
def State.genTimeoutTicks (s : State) : Nat := bf s.glob.genCfg 16 16 * 1024

/-- A GENWAIT that has lasted GEN_TIMEOUT (R255). -/
def State.genLate (s : State) (route : RouteId) : State :=
  match s.rt.kicks.find? fun k => k.route == route && k.genwait.isSome && !k.noted with
  | none => s
  | some k =>
    match k.genwait, (writesNext k.desc).bind s.gen? with
    | some t, some g =>
      if s.genTimeoutTicks != 0 && decide (t.toNat + s.genTimeoutTicks ≤ s.clk.gtc.toNat) then
        let s := s.report lvlRoute (srcRoute k.eng k.route) clsGenwait .info (detG g.idx k.route.toNat g.otherCtr)
        { s with rt := { s.rt with kicks := s.rt.kicks.map fun y => if y.seq = k.seq then { y with noted := true } else y } }
      else s
    | _, _ => s

/-- An armed tick is reached: the kick is taken, after HALT and after a boundary stop (R187, R207, R385, R388). -/
def State.tickKick (s : State) (route : RouteId) : State :=
  if s.glob.halt || s.step.stop || s.tmb.stop || s.tmb.hold then s
  else match s.rt.arms.find? fun a => a.1 == route && decide (a.2.toNat ≤ s.clk.gtc.toNat) with
    | none => s
    | some a =>
      let s := { s with rt := { s.rt with arms := s.rt.arms.erase a } }
      match s.takeKick .tick route with
      | some x => x.1
      | none => s.badKick route (kickEngine .tick route)

/-! ### Moving (R192, R194-R196, R201-R204, R287) -/

/-- Kinds whose data moves unit by unit. -/
def movesUnits (k : Nat) : Bool :=
  k == kCOPY || k == kTRANSPOSE || k == kSPLIT || k == kJOIN || k == kBROADCAST || k == kDUAL || k == kGATHER

/-- Source of element i0 of a unit: for a GATHER, the row its position resolved to (R210, R213, R214). -/
def Run.srcOf (r : Run) (u i0 : Nat) : Src :=
  if dKind r.desc = kGATHER then
    match r.wins.findSome? fun w => (w.rows.find? fun x => x.1 == u).map (·.2) with
    | some (some row) =>
      match srcIdx r.desc 0 i0 with
      | some s0 => .at (row * srcStride r.desc 1) s0
      | none => .pad
    | _ => .skip
  else srcAt r.desc (swaps r.desc && dKind r.desc == kTRANSPOSE) (unitIdx r.desc u) i0

/-- Valid part of a unit in its innermost dimension: first element and number. All of a skipped position is data (R214). -/
def Run.validSpan (r : Run) (u : Nat) : Nat × Nat :=
  if r.srcOf u 0 == .skip then (0, dcnt r.desc 0) else (validLo r.desc, validLen r.desc)

/-- A displacement of the destination that an earlier unit has written with valid data (R204). -/
def Run.shadowed (r : Run) (u : Nat) (plane0 : Int) : Bool :=
  let d := r.desc
  (List.range u).any fun v =>
    let is := unitIdx d v
    let x := r.validSpan v
    unitValid d is && decide (dstOff d is + (eb (dDstFmt d) x.1 : Nat) ≤ plane0)
      && decide (plane0 < dstOff d is + (eb (dDstFmt d) (x.1 + x.2) : Nat))

/-- What a unit keeps out of its destination (R203, R204). -/
def Run.keepOut (r : Run) (mem : Bool) (u : Nat) (o : RunOut) : RunOut := keepOutBy r.desc mem (r.shadowed u) (dDstFmt r.desc) o

/-- Source tile of a run, an empty tile for a memory source. -/
def State.srcTile (s : State) (r : Run) : Tile :=
  if dSrcEp r.desc = epTILE then (match s.tileEp (srcWord r.desc) with | some x => x.2.1 | none => {}) else {}

/-- Mode of the destination and of the T copy. -/
def Run.mode (r : Run) : Mode := modeOf (dKind r.desc) (dSrcFmt r.desc) r.dv.fmt
def Run.tmode (r : Run) : Mode := modeOf (dKind r.desc) (dSrcFmt r.desc) r.tv.fmt

/-- Is padding of this run written (R203)? -/
def Run.padOut (r : Run) : Bool := r.dv.rb != 0 || dPadwrite r.desc

/-- Virtual addresses that element i0 of a unit needs: (address, write) (R192). -/
def Run.needs (r : Run) (u i0 : Nat) : List (Nat × Bool) :=
  let d := r.desc
  let is := unitIdx d u
  let src := r.srcOf u i0
  let rd : List Nat := match src with
    | .at o n => if r.sv.rb = 0 then elBytes r.sv r.mode.lowPlane (readsScale r.mode r.sv.fmt) o n else []
    | _ => []
  let out : Bool := src != .pad || r.padOut
  let wr : List Nat := if r.dv.rb = 0 && out then elBytes r.dv 0 (hasScale r.dv.fmt) (dstOff d is) i0 else []
  let t : List Nat :=
    if dKind d = kDUAL && out then
      elBytes r.tv 0 (hasScale r.tv.fmt) (i0 * tStride d + strideSum (dstStride d) 2 (is.drop 1)) (is.headD 0)
    else []
  (rd.map fun a => (a, false)) ++ ((wr ++ t).map fun a => (a, true))

/-- First element of a unit that needs a line which faults in translation: element, code, address (R192). -/
def State.unitFault (s : State) (q : QuadNo) (r : Run) (u : Nat) : Option (Nat × Code × Nat) :=
  (List.range (dcnt r.desc 0)).findSome? fun i0 =>
    (r.needs u i0).findSome? fun x => match s.xlate q x.1 x.2 with | .fault c => some (i0, c, x.1) | _ => none

/-- Addresses that a unit needs. -/
def Run.unitNeeds (r : Run) (u : Nat) : List (Nat × Bool) := (List.range (dcnt r.desc 0)).flatMap (r.needs u)

/-- Does a line of a unit decode to the default target (R192)? -/
def State.unitDefault (s : State) (q : QuadNo) (r : Run) (u : Nat) : Bool := !(s.defaultsOf q (r.unitNeeds u)).isEmpty

/-- QoS of a run's packets: 15 is the service core's (R166). -/
def Run.qos (r : Run) : Nat := min 14 (dQos r.desc)

/-- The route engine as the initiator of a run's accesses. -/
def Run.ini (r : Run) (q : QuadNo) : Initiator := engineIni q r.qos

/-- Translations that the window of a unit of a GATHER has kept (R217). -/
def Run.leavesOf (r : Run) (u : Nat) : List Leaf :=
  if dKind r.desc = kGATHER then ((r.wins.find? fun w => w.w == u / 256).map (·.leaves)).getD [] else []

/-- The window of a position of a GATHER and the table row it resolved to. -/
def Run.gatherRow (r : Run) (u : Nat) : Option (Window × Nat) :=
  r.wins.findSome? fun w => match w.rows.find? fun x => x.1 == u with | some (_, some k) => some (w, k) | _ => none

/-- Bytes of a GATHER's table row as its window has fetched them (R218). -/
def Run.snapOf (r : Run) (u : Nat) : Option (List Byte) :=
  (r.gatherRow u).bind fun x => (x.1.snap.find? fun y => y.1 == x.2).map (·.2)

/-- A GATHER fetches each group's table row once per window (R218). -/
def State.snapRow (s : State) (q : QuadNo) (r : Run) (u : Nat) : Run :=
  match r.gatherRow u with
  | none => r
  | some (w, k) =>
    if (r.snapOf u).isSome then r
    else
      let bs := (List.range (eb r.sv.fmt (sext r.desc 0))).map fun (i : Nat) => s.vbyte q (vaOf r.sv.base (k * srcStride r.desc 1 + i))
      { r with wins := r.wins.map fun y => if y.w = w.w then { y with snap := y.snap ++ [(k, bs)] } else y }

/-- Physical pieces of a unit's source. -/
def State.unitPieces (s : State) (q : QuadNo) (r : Run) (u : Nat) : List (Nat × Nat) :=
  if (r.snapOf u).isSome then []
  else (r.unitNeeds u).filterMap fun x => if x.2 then none else match s.xlate q x.1 false with | .pa a => some (a, 1) | _ => none

/-- Elements of a unit; those of a GATHER come from the row its window has fetched. -/
def State.unitEls (s : State) (q : QuadNo) (r : Run) (m : Mode) (u : Nat) : List El :=
  let tl := s.srcTile r
  let b := fmtBits r.sv.fmt
  (List.range (dcnt r.desc 0)).map fun i0 =>
    let idx := u * dcnt r.desc 0 + i0
    match r.srcOf u i0, r.snapOf u with
    | .at _ n, some bs => s.elWith r.desc m r.sv idx (bitsAt (fun j => (bs[j]?).getD 0) (b * n) b, 0)
    | x, _ => s.elOf q r.desc m r.sv tl idx x

/-- Folds destination bytes in units of 256 (R287); what is left over waits in `tail`. -/
def foldBytes (id : BitVec 16) : Nat → State → List Byte → State × List Byte
  | 0, s, bs => (s, bs)
  | fuel + 1, s, bs => if bs.length < 256 then (s, bs) else foldBytes id fuel (s.fold id (bs.take 256)) (bs.drop 256)

/-- Elements of an aligned innermost run of a format (R146): the T copy is written in groups of so many rows, and as a whole in MXFP6, whose
blocks may lie across any of them. -/
def alignEls (f : BitVec 5) : Nat := if isBP f then 256 else 256 / fmtBits f

/-- Displacement of the T copy's row of dimension-0 coordinate i0 (R202). -/
def tOff (d : Desc) (is : List Nat) (i0 : Nat) : Int := i0 * tStride d + strideSum (dstStride d) 2 (is.drop 1)

/-- A displacement of the T copy that valid data of a unit up to `u` covers (R204). -/
def shadowedT (d : Desc) (f : BitVec 5) (u : Nat) (o : Int) : Bool :=
  (List.range (u + 1)).any fun v =>
    let is := unitIdx d v
    unitValid d is && (List.range' (validLo d) (validLen d)).any fun i0 =>
      let p := 8 * tOff d is i0 + fmtBits f * (is.headD 0 : Nat)
      decide (p / 8 ≤ o) && decide (o ≤ (p + fmtBits f - 1) / 8)

/-- First row of the group of the T copy that a unit belongs to. -/
def tGroup (f : BitVec 5) (i1 : Nat) : Nat := if f == 0x09 then 0 else i1 / alignEls f * alignEls f

/-- Does a row complete its group of the T copy? -/
def tEnds (f : BitVec 5) (n i1 : Nat) : Bool := i1 + 1 == n || (f != 0x09 && (i1 + 1) % alignEls f == 0)

/-- The first n elements of a group of the T copy at coordinate i0: i1 counts up from the group's first row to that of unit u (R202-R204). -/
def State.tRun (s : State) (q : QuadNo) (r : Run) (u i0 n : Nat) : RunOut :=
  let d := r.desc
  let is := unitIdx d u
  let i1 := is.headD 0
  let a := tGroup r.tv.fmt i1
  let els := (List.range' a n).map fun j =>
    let v := u - (i1 - j)
    s.elOf q d r.tmode r.sv {} (v * dcnt d 0 + i0) (r.srcOf v i0)
  keepOutBy d true (shadowedT d r.tv.fmt u) r.tv.fmt (encodeRun r.tmode r.tv.fmt s.glob.fmtPolicy (tOff d is i0) a els)

/-- The rows of a group of the T copy as they are written: in destination order, in which i0 runs within i1, so that of two writes to one
place the later stays (R204). -/
def Run.tMerge (r : Run) (u : Nat) (os : List RunOut) : RunOut :=
  let f := r.tv.fmt
  let rows := os.zipIdx.map fun x => (x.1, tOff r.desc (unitIdx r.desc u) x.2)
  let len := eb f (dcnt r.desc 1)
  { bytes := (List.range len).flatMap fun k => rows.flatMap fun x => x.1.bytes.filter fun y => y.off == x.2 + k
    scales := (List.range (len + 1)).flatMap fun k => rows.flatMap fun x => x.1.scales.filter fun y => y.1 == elNo f x.2 0 / 32 + k
    count := os.foldl (fun a o => a + o.count) 0, pads := os.flatMap (·.pads) }

/-- The T copy's part of a unit that completes a group of rows (R202): for each i0, the elements i1 of the group. With it the bytes it
writes and the values that count. -/
def State.putT (s : State) (q : QuadNo) (r : Run) (u : Nat) : State × List Byte × Nat :=
  let d := r.desc
  let i1 := (unitIdx d u).headD 0
  if !tEnds r.tv.fmt (dcnt d 1) i1 then (s, [], 0)
  else
    let os := (List.range (dcnt d 0)).map fun i0 => s.tRun q r u i0 (i1 + 1 - tGroup r.tv.fmt i1)
    (s.putMem q r.tv (r.tMerge u os) (r.ini q), os.flatMap RunOut.stream, os.foldl (fun a o => a + o.counted) 0)

/-- Lanes of the T copy that lie wholly before a faulting position (R192). -/
def State.cutT (s : State) (q : QuadNo) (r : Run) (u i0 : Nat) : State :=
  let d := r.desc
  let f := r.tv.fmt
  let is := unitIdx d u
  let a := tGroup f (is.headD 0)
  let os := (List.range (dcnt d 0)).map fun j =>
    let n := is.headD 0 - a + (if j < i0 then 1 else 0)
    let o := (s.tRun q r u j n).cut f (bitPos f (tOff d is j) (a + n) / 8 / 32)
    if hasScale f && r.tmode == .conv then o.openFrom s.free (blockByte f (tOff d is j) (a + n)) else o
  { s.putMem q r.tv (r.tMerge u os) (r.ini q) with free := s.free + 1 }

/-- Distinct ROWBYTES of the destination tiles of a run; those of a GROUP are in the cells with which it started (R363). -/
def State.dstBytes (s : State) (r : Run) : List Nat :=
  if dDstEp r.desc = epGROUP then
    (r.cells.filterMap fun l => (s.physOf l).bind fun p => (s.cfgOf p r.dv.tile).map (·.bytes)).eraseDups
  else [r.dv.rb]

/-- Key of a row being assembled: rows of tiles with different ROWBYTES are assembled apart. -/
def bufKey (rb row : Nat) : Nat := rb * 256 + row

/-- Tile rows that a unit touches, for a ROWBYTES. -/
def unitRows (d : Desc) (rb u : Nat) : List Nat :=
  let t := (dstOff d (unitIdx d u)).toNat
  (List.range' (t / rb) ((t + (eb (dDstFmt d) (dcnt d 0) - 1)) / rb + 1 - t / rb)).flatMap (dataTileRows (dDstFmt d) rb)

/-- Lands a row in a tile (R86, R123, R195). -/
def State.landRow (s : State) (l : LCell) (t : TileNo) (rb row : Nat) (data : Row) : State :=
  match s.physOf l with
  | none => s
  | some p =>
    match s.cfgOf p t with
    | none => s
    | some c =>
      if c.bytes ≠ rb then s
      else s.modCell p fun x =>
        (((x.modTile t fun y => y.writeRow row data).dropResume t).forget t).cancelBack t fun r => r == BitVec.ofNat 7 row

/-- Logical cells and tile a run delivers into. -/
def Run.targets (r : Run) : List (LCell × TileNo) := r.tileWrites

/-- Lands the assembled rows that no later unit touches; each data row delivered is a digest unit (R195, R287). -/
def State.landUnits (s : State) (q : QuadNo) (r : Run) (u : Nat) : State × Run :=
  let d := r.desc
  let left := List.range' (u + 1) (unitCount d - (u + 1))
  let ready := r.buf.filter fun x => !(left.any fun v => (unitRows d (x.1 / 256) v).contains (x.1 % 256))
  let s := ready.foldl (fun s x =>
    let s := r.targets.foldl (fun s y => s.landRow y.1 y.2 (x.1 / 256) (x.1 % 256) x.2) s
    if x.1 / 256 = r.dv.rb && !isScaleRow (dDstFmt d) (x.1 % 256) then s.fold (r.route.setWidth 16) (rowBytes x.2 r.dv.rb) else s) s
  let r := { r with buf := r.buf.filter fun x => !(ready.any fun y => y.1 == x.1) }
  (s.putRun q r, r)

/-- Puts a unit into the rows being assembled, for every ROWBYTES of its destinations. -/
def State.putRows (s : State) (r : Run) (o : RunOut) : List (Nat × Row) :=
  (s.dstBytes r).foldl (fun buf rb =>
    let mine := (buf.filter fun x => x.1 / 256 == rb).map fun x => (x.1 % 256, x.2)
    let v : View := { r.dv with rb := rb }
    let new : List (Nat × Row) := layTile v mine o
    (buf.filter fun x => x.1 / 256 != rb) ++ new.map fun x => (bufKey rb x.1, x.2)) r.buf

/-- Does a run convert into blocks, and is an element of the faulting position's block not to be read? The shared scale of the codes that come
before the position in that block is then not known. -/
def State.blockUnread (s : State) (q : QuadNo) (r : Run) (u i0 : Nat) : Bool :=
  hasScale r.dv.fmt && r.mode == .conv
    && (List.range' i0 (min (dcnt r.desc 0) (i0 + 32) - i0)).any fun j =>
      decide (blockByte r.dv.fmt (dstOff r.desc (unitIdx r.desc u)) j = blockByte r.dv.fmt (dstOff r.desc (unitIdx r.desc u)) i0)
        && (r.needs u j).any fun x => !x.2 && (match s.xlate q x.1 false with | .fault _ => true | _ => false)

/-- Works one unit. With a fault in it, only the lanes before the faulting position are written and the run stops (R192). Codes of such a lane
whose block holds an element that cannot be read are free values (DESIGN CHOICE, log entry 106). -/
def State.workUnit (s : State) (q : QuadNo) (r : Run) (u : Nat) : State × Option Run :=
  let d := r.desc
  let f := r.dv.fmt
  let off := dstOff d (unitIdx d u)
  let mem := r.dv.rb == 0
  let o := r.keepOut mem u (encodeRun r.mode f s.glob.fmtPolicy off 0 (s.unitEls q r r.mode u))
  match s.unitFault q r u with
  | some (i0, code, va) =>
    let o := o.cut f (bitPos f off i0 / 8 / 32)
    let o := if s.blockUnread q r u i0 then o.openFrom s.free (blockByte f off i0) else o
    let s := if mem then { s.putMem q r.dv o (r.ini q) with free := s.free + 1 } else s
    let s := if dKind d = kDUAL then s.cutT q r u i0 else s
    (s.endRun q r code (vaDetail va), none)
  | none =>
    let x := s.answerRun q r (r.unitNeeds u)
    let s := x.1
    let r := { x.2 with next := u + 1, ranged := x.2.ranged + o.counted }
    if mem then
      let s := s.putMem q r.dv o (r.ini q)
      let t : State × List Byte × Nat := if dKind d = kDUAL then s.putT q r u else (s, [], 0)
      let bs := r.tail ++ o.stream ++ t.2.1
      let f := foldBytes (r.route.setWidth 16) bs.length t.1 bs
      let r := { r with tail := f.2, ranged := r.ranged + t.2.2 }
      (f.1.putRun q r, some r)
    else
      let x := s.landUnits q { r with buf := s.putRows r o } u
      (x.1, some x.2)

/-- Works a unit with the translations that its window has kept (R217). -/
def State.workKept (s : State) (q : QuadNo) (r : Run) (u : Nat) : State × Option Run :=
  let ls := r.leavesOf u
  if ls.isEmpty then s.workUnit q r u
  else
    let x := (s.modQuad q fun y => { y with tlb := ls ++ y.tlb }).workUnit q r u
    (x.1.modQuad q fun y => { y with tlb := (s.quad q).tlb }, x.2)

/-- Works every unit whose lines have come, in destination order. -/
def advance (q : QuadNo) : Nat → State → Run → State
  | 0, s, _ => s
  | fuel + 1, s, r =>
    if r.next < unitCount r.desc && r.done.contains r.next then
      match s.workKept q r r.next with
      | (s, some r) => advance q fuel s { r with done := r.done.filter fun u => decide (r.next ≤ u) }
      | (s, none) => s
    else s.putRun q r

/-- A unit's lines have come: it is marked, and every unit in order is worked. -/
def State.unitCome (s : State) (q : QuadNo) (r : Run) (u : Nat) : State :=
  let r := s.snapRow q r u
  let r := { r with done := r.done ++ [u] }
  advance q (r.done.length + 1) s r

/-- May this unit come: it is not worked, not marked, and, for a GATHER, its window is resolved. -/
def Run.awaits (r : Run) (u : Nat) : Bool :=
  movesUnits (dKind r.desc) && decide (u < unitCount r.desc) && decide (r.next ≤ u) && !r.done.contains u
    && (dKind r.desc != kGATHER || r.wins.any fun w => w.w == u / 256)

/-- Rows of the source tile that a unit reads, each once: data and plane rows, scale rows where the conversion reads them; a row that is
not written is not read (R86, R97). -/
def State.unitRows (s : State) (r : Run) (u : Nat) : List RowNo :=
  if dSrcEp r.desc ≠ epTILE then []
  else
    let t := s.srcTile r
    let m := r.mode
    let rows := (List.range (dcnt r.desc 0)).flatMap fun i0 =>
      match r.srcOf u i0 with
      | .at o n =>
        let d := (bitPos r.sv.fmt o n).toNat / (8 * r.sv.rb)
        (if isBP r.sv.fmt then (List.range' m.lowPlane (bpK r.sv.fmt - m.lowPlane)).map (planeRowOf r.sv.fmt d) else [dataRowOf r.sv.fmt d])
          ++ (if readsScale m r.sv.fmt then [(scaleByteOf r.sv.fmt r.sv.rb d 0).1] else [])
      | _ => []
    (rows.eraseDups.filter fun n => decide (n < t.valid) && t.written.getLsbD n).map (BitVec.ofNat 7)

/-- What SECDED found on a unit's reads: on the rows of its source tile in turn, or on its first line of the operand cache (R97, R293);
the flag says that a read cannot be corrected. A unit that reads nothing meets no error. -/
def State.srcEcc (s : State) (q : QuadNo) (r : Run) (u : Nat) (rows : List RowEcc) (ecc : Ecc) : State × Bool :=
  match s.physOf (epLocal (srcWord r.desc)), s.unitRows r u, s.unitPieces q r u with
  | some p, l@(_ :: _), _ => readRows l (fun n => eccAt rows r.sv.tile n) (fun s n e => s.rowEcc p r.sv.tile n e) s
  | _, [], x :: _ => (s.cacheEcc (x.1 / 256) r.qos ecc, ecc == .uncorr)
  | _, _, _ => (s, false)

/-- A source line of a run arrives (R194): a unit that neither faults nor meets the default target, with its lines at hand. -/
def State.lineArrives (s : State) (route : RouteId) (u : Nat) (rows : List RowEcc) (ecc : Ecc) : State :=
  match s.runOf route with
  | none => s
  | some (q, r) => s.keeping q (r.leavesOf u) fun s =>
    let w := s.walkedFor q r.seq ((r.unitNeeds u).map (·.1)) (r.ini q)
    if !r.awaits u then s
    else if !w.2 then w.1
    else
      let s := w.1
      if (s.unitFault q r u).isSome || s.unitDefault q r u then s
      else
        let ps := s.unitPieces q r u
        if !s.piecesReady ps then s.seek q r.seq ps (r.ini q)
        else
          let x := (s.took ps).srcEcc q r u rows ecc
          if x.2 then x.1.runUncorr q r.seq else x.1.unitCome q r u

/-- A line of a run faults in translation or decodes to the default target (R192). -/
def State.lineFaults (s : State) (route : RouteId) (u : Nat) (ecc : UnitEcc) : State :=
  match s.runOf route with
  | none => s
  | some (q, r) => s.keeping q (r.leavesOf u) fun s =>
    let w := s.walkedFor q r.seq ((r.unitNeeds u).map (·.1)) (r.ini q)
    if !r.awaits u then s
    else if !w.2 then w.1
    else if (w.1.unitFault q r u).isSome || w.1.unitDefault q r u then
      let ps := w.1.unitPieces q r u
      if !w.1.piecesReady ps then w.1.seek q r.seq ps (r.ini q)
      else
        let x := (w.1.took ps).srcEcc q r u ecc.rows ecc.line
        if x.2 then x.1.runUncorr q r.seq else x.1.unitCome q r u
    else w.1

/-- The default target has answered a line of a run (R175, R192). -/
def State.lineDefault (s : State) (q : QuadNo) (route : RouteId) (pa va : Nat) (write : Bool) : State :=
  match s.runOf route with
  | none => s
  | some (q', r) => if q' = q then (let x := s.answerLine q r pa write va; x.1.putRun q x.2) else s

end Sys2Proof.Machine
end

