-- ==== Sys2Proof/Machine/Indexed.lean ====
section
/-! DEFINITION. Indexed runs (08_gather_scatter.md): windows of 256 positions, resolved indices, coalescing, the fixed fold tree
and the accumulate lanes. -/

namespace Sys2Proof.Machine

/-- Windows of a run (R216). -/
def winCount (d : Desc) : Nat := ceilDiv (posCount d) 256

/-- Positions of a window (R216). -/
def winPos (d : Desc) (w : Nat) : List Nat := List.range' (256 * w) (min 256 (posCount d - 256 * w))

/-- Bytes of an index and its virtual address (R209). -/
def idxBytes (d : Desc) : Nat := if idx64 d then 8 else 4
def idxVa (d : Desc) (n : Nat) : Nat := vaOf (idxBase d) (n * idxBytes d : Nat)

/-- Index value of a position (R209). -/
def State.idxVal (s : State) (q : QuadNo) (d : Desc) (n : Nat) : Int :=
  signed (8 * idxBytes d) (natOf ((List.range (idxBytes d)).map fun (i : Nat) => s.vbyte q (vaOf (idxVa d n) i)))

/-- What an index resolves to (R213). -/
inductive Resolved where
  | row (r : Nat)
  | skip
  | fault
  deriving DecidableEq, Repr

def resolve (mode extent : Nat) (v : Int) : Resolved :=
  let v := if mode = 2 && decide (v < 0) then v + extent else v
  if 0 ≤ v ∧ v < extent then .row v.toNat else if mode = 1 then .skip else .fault

/-- Source element c of position n of a SCATTER_ACC: displacement and element number (R210). -/
def scatterSrc (d : Desc) (n : Nat) : Int := strideSum (srcStride d) 1 (coordsOf (posCnt d) n)

/-- Lines that a position needs beyond its index: (address, write). The row is resolved. -/
def Run.posNeeds (r : Run) (n row : Nat) : List (Nat × Bool) :=
  let d := r.desc
  if dKind d = kGATHER then
    (List.range (dcnt d 0)).flatMap fun i0 =>
      (match srcIdx d 0 i0 with
        | some s0 => (elBytes r.sv 0 false (row * srcStride d 1) s0).map fun a => (a, false)
        | none => [])
      ++ (if r.dv.rb = 0 && ((srcIdx d 0 i0).isSome || dPadwrite d) then
            (elBytes r.dv 0 false (dstOff d (unitIdx d n)) i0).map fun a => (a, true) else [])
  else
    (List.range (dcnt d 0)).flatMap fun c =>
      (if r.sv.rb = 0 then (elBytes r.sv 0 false (scatterSrc d n) c).map fun a => (a, false) else [])
      ++ (elBytes r.dv 0 false (row * dstStride d 1) c).map fun a => (a, true)

/-- Lines of a skipped position: a GATHER writes its zero row (R214). -/
def Run.skipNeeds (r : Run) (n : Nat) : List (Nat × Bool) :=
  if dKind r.desc = kGATHER && r.dv.rb = 0 then
    (List.range (dcnt r.desc 0)).flatMap fun i0 => (elBytes r.dv 0 false (dstOff r.desc (unitIdx r.desc n)) i0).map fun a => (a, true)
  else []

/-- A position worked: its resolved row (none for a skip), or the stop it brings (R217, R228, R229). -/
def State.position (s : State) (q : QuadNo) (r : Run) (n : Nat) : (Option Nat) ⊕ (Code × Word × Option (Nat × Word)) :=
  let d := r.desc
  let ix := (List.range (idxBytes d)).map fun (i : Nat) => (vaOf (idxVa d n) i, false)
  match s.firstFault q ix with
  | some f => .inr (f.1, vaDetail f.2, none)
  | none =>
    let v := s.idxVal q d n
    match resolve (idxMode d) (idxExtent d) v with
    | .fault => .inr (.idxrange, r.route.setWidth 32, some (n, BitVec.ofInt 32 v))
    | .skip => match s.firstFault q (r.skipNeeds n) with | some f => .inr (f.1, vaDetail f.2, none) | none => .inl none
    | .row k => match s.firstFault q (r.posNeeds n k) with | some f => .inr (f.1, vaDetail f.2, none) | none => .inl (some k)

/-- Positions of a window in order, or the stop of the lowest position that brings one. -/
def State.positions (s : State) (q : QuadNo) (r : Run) : List Nat → (List (Nat × Option Nat)) ⊕ (Code × Word × Option (Nat × Word))
  | [] => .inl []
  | n :: l =>
    match s.position q r n with
    | .inr f => .inr f
    | .inl x => match s.positions q r l with | .inr f => .inr f | .inl xs => .inl ((n, x) :: xs)

/-- Physical bytes of the index lines of a window. -/
def State.idxPieces (s : State) (q : QuadNo) (d : Desc) (w : Nat) : List (Nat × Nat) :=
  (winPos d w).flatMap fun n => (List.range (idxBytes d)).filterMap fun (i : Nat) =>
    match s.xlate q (vaOf (idxVa d n) i) false with | .pa a => some (a, 1) | _ => none

/-- Addresses of the indices of a window. -/
def idxNeeds (d : Desc) (w : Nat) : List (Nat × Bool) :=
  (winPos d w).flatMap fun n => (List.range (idxBytes d)).map fun (i : Nat) => (vaOf (idxVa d n) i, false)

/-- Addresses that the positions of a window need beyond their indices, by what the indices resolve to (R217). -/
def State.windowNeeds (s : State) (q : QuadNo) (r : Run) (w : Nat) : List (Nat × Bool) :=
  (winPos r.desc w).flatMap fun n =>
    match resolve (idxMode r.desc) (idxExtent r.desc) (s.idxVal q r.desc n) with
    | .row k => r.posNeeds n k
    | .skip => r.skipNeeds n
    | .fault => []

/-- Enters a window whose positions are resolved and translated (R214, R215, R217). -/
def State.enterWindow (s : State) (q : QuadNo) (r : Run) (rows : List (Nat × Option Nat)) : State :=
  let w := r.nextWin
  let skips := (rows.filter fun x => x.2.isNone).length
  let need := idxNeeds r.desc w ++ s.windowNeeds q r w
  let leaves := s.leavesFor q (need.map (·.1))
  let x := s.answerRun q r need
  let s := x.1.modQuad q fun y => { y with idxskip := BitVec.ofNat 32 (satTo 0xFFFFFFFF (y.idxskip.toNat + skips)) }
  s.putRun q { x.2 with nextWin := w + 1, skips := r.skips + skips, wins := r.wins ++ [{ w := w, rows := rows, leaves := leaves }] }

/-- The route engine takes its next window (R217): indices read and resolved, every line translated; a stop waits for the
windows below (R224, R228). -/
def State.indexWindow (s : State) (route : RouteId) (ecc : Ecc) : State :=
  match s.runOf route with
  | none => s
  | some (q, r) =>
    let d := r.desc
    let w := r.nextWin
    let a := s.walkedFor q r.seq ((idxNeeds d w).map (·.1)) (r.ini q)
    if !(dKind d == kGATHER || dKind d == kSCATTER) || r.stop.isSome || decide (winCount d ≤ w) then s
    else if !a.2 then a.1
    else
      let s := a.1
      let ps := s.idxPieces q d w
      if !s.piecesReady ps then s.seek q r.seq ps (r.ini q)
      else if ecc = .uncorr && !ps.isEmpty then (s.walkEcc ((ps.take 1).map (·.1)) r.qos ecc).runUncorr q r.seq
      else
        let b := s.walkedFor q r.seq ((s.windowNeeds q r w).map (·.1)) (r.ini q)
        if !b.2 then b.1
        else
          let s := (b.1.took ps).walkEcc ((ps.take 1).map (·.1)) r.qos ecc
          match s.positions q r (winPos d w) with
          | .inr f => s.putRun q { r with stop := some f }
          | .inl rows => s.enterWindow q r rows

/-! ### Scatter (R219-R227) -/

/-- Groups of a window: each resolved row with its positions in ascending order (R217, R221). -/
def Window.groups (x : Window) : List (Nat × List Nat) :=
  let rows := (x.rows.filterMap (·.2)).eraseDups
  rows.map fun k => (k, (x.rows.filter fun y => y.2 == some k).map (·.1))

/-- Rows of a window. -/
def Window.rowSet (x : Window) : List Nat := (x.rows.filterMap (·.2)).eraseDups

/-- Do two windows share a resolved row (R225)? -/
def sharesRow (a b : Window) : Bool := a.rowSet.any fun k => b.rowSet.contains k

/-- Exclusive OR of words, op of ACCOP 1 (R220). -/
def accOp (xor : Bool) : Word → Word → Word := if xor then fun a b => a ^^^ b else f32Add

/-- Words of a source row: FP32 values for an addition, raw 32-bit words for an exclusive OR (R219, R220). -/
def State.scatterRow (s : State) (q : QuadNo) (r : Run) (n : Nat) : List Word :=
  let d := r.desc
  let off := scatterSrc d n
  if idxAccXor d then
    let bytes := eb (dSrcFmt d) (dcnt d 0)
    let tl := s.srcTile r
    let rd (i : Nat) : Byte :=
      if r.sv.rb = 0 then s.vbyte q (vaOf r.sv.base (off + i))
      else let t := (off + i).toNat; rowByte (tl.rowAt (dataRowOf r.sv.fmt (t / r.sv.rb))) (t % r.sv.rb)
    (List.range (bytes / 4)).map fun k => BitVec.ofNat 32 (natOf ((List.range 4).map fun j => rd (4 * k + j)))
  else
    (List.range (dcnt d 0)).map fun c =>
      match (s.elOf q d .conv r.sv (s.srcTile r) 0 (.at off c)).elt with | .val w => w | .low => 0

/-- The partial of a group: the tree of R221 for each element. -/
def State.partialOf (s : State) (q : QuadNo) (r : Run) (ps : List Nat) : List Word :=
  let rows := ps.map (s.scatterRow q r)
  let n := (rows.headD []).length
  (List.range n).map fun c => treeFold (accOp (idxAccXor r.desc)) 9 (rows.map fun l => (l[c]?).getD 0)

/-- Physical bytes of the source rows of a window. -/
def State.rowPieces (s : State) (q : QuadNo) (r : Run) (x : Window) : List (Nat × Nat) :=
  if r.sv.rb ≠ 0 then []
  else x.rows.flatMap fun y => if y.2.isNone then [] else
    (List.range (eb (dSrcFmt r.desc) (dcnt r.desc 0))).filterMap fun (i : Nat) =>
      match s.xlate q (vaOf r.sv.base (scatterSrc r.desc y.1 + i)) false with | .pa a => some (a, 1) | _ => none

def Run.win? (r : Run) (w : Nat) : Option Window := r.wins.find? fun x => x.w == w

/-- Has a window sent its partials? -/
def Run.sent (r : Run) (w : Nat) : Bool := match r.win? w with | some y => y.folded | none => false

/-- Are the partials of a run applied in window order (R225)? -/
def State.inOrder (s : State) (r : Run) : Bool := (s.glob.detmode || dCanon r.desc) && !idxAccXor r.desc

/-- May window w finish folding (R224, R225)? It has begun, so the window before it has begun, and every window below that one has
finished on its tree. In window order it also waits for the window before it when they share a row; without it, windows 2k and
2k + 1 fold together, since all full windows take the trees equally long. -/
def State.mayFold (s : State) (r : Run) (x : Window) : Bool :=
  let below (n : Nat) : Bool := (List.range n).all r.sent
  if s.inOrder r then
    below (x.w - 1) && (x.w == 0 || r.sent (x.w - 1) || (match r.win? (x.w - 1) with | some y => !sharesRow x y | none => false))
  else if idxAccXor r.desc then below (x.w - 1)
  else below (x.w / 2 * 2)

/-- Replaces a window of a run. -/
def Run.putWin (r : Run) (x : Window) : Run := { r with wins := r.wins.map fun y => if y.w = x.w then x else y }

/-- Rows of the source tile that a window reads, each once; one that is not written is zeros and is not read (R87, R97). -/
def State.windowRows (s : State) (r : Run) (x : Window) : List (TileNo × RowNo) :=
  if r.sv.rb = 0 then []
  else
    let t := s.srcTile r
    let rows := (x.rows.filter fun y => y.2.isSome).flatMap fun y => dataTileRows r.sv.fmt r.sv.rb ((scatterSrc r.desc y.1).toNat / r.sv.rb)
    (rows.eraseDups.filter fun n => decide (n < t.valid) && t.written.getLsbD n).map fun n => (r.sv.tile, BitVec.ofNat 7 n)

/-- What SECDED finds on the source rows of a window (R97, R293): the flag says that a read cannot be corrected. -/
def State.windowReads (s : State) (q : QuadNo) (r : Run) (x : Window) (rows : List RowEcc) (ecc : Ecc) : State × Bool :=
  match s.physOf (epLocal (srcWord r.desc)), s.windowRows r x, s.rowPieces q r x with
  | some p, l@(_ :: _), _ => readRows l (fun y => eccAt rows y.1 y.2) (fun s y e => s.rowEcc p y.1 y.2 e) s
  | _, [], y :: _ => (s.cacheEcc (y.1 / 256) r.qos ecc, ecc == .uncorr)
  | _, _, _ => (s, false)

/-- Two windows that fold in parallel and share a row: each such pair adds one to NDET when its partials may apply in either order (R225). -/
def State.countsPair (s : State) (r : Run) (x : Window) : Bool :=
  !s.inOrder r && !idxAccXor r.desc
    && (match r.win? (if x.w % 2 = 0 then x.w + 1 else x.w - 1) with | some y => y.folded && sharesRow x y | none => false)

/-- The digest stream folds partial rows in the order of windows, and in a window in that of the first positions of its groups, however
the trees finish (R21, R287; DESIGN CHOICE, log entry 69). -/
def State.foldParts (id : BitVec 16) : List Window → State → State × List Window
  | [], s => (s, [])
  | x :: l, s =>
    if !x.folded then (s, x :: l)
    else
      let s := x.units.foldl (fun s y => s.fold id (bytesOf 4 x.w ++ bytesOf 5 y.1 ++ y.2.flatMap fun v => bytesOf 4 v.toNat)) s
      let y := State.foldParts id l s
      (y.1, { x with units := [] } :: y.2)

/-- A tree finishes folding a window and sends its partials (R221, R224). -/
def State.foldDone (s : State) (route : RouteId) (w : Nat) (rows : List RowEcc) (ecc : Ecc) : State :=
  match s.runOf route with
  | none => s
  | some (q, r) =>
    match r.win? w with
    | none => s
    | some x => s.keeping q x.leaves fun s =>
      if dKind r.desc ≠ kSCATTER || x.folded || !s.mayFold r x then s
      else
        let ps := s.rowPieces q r x
        if !s.piecesReady ps then s.seek q r.seq ps (r.ini q)
        else
          let y := (s.took ps).windowReads q r x rows ecc
          if y.2 then y.1.runUncorr q r.seq
          else
            let parts := x.groups.map fun g => (g.1, s.partialOf q r g.2)
            let s := if s.countsPair r x then y.1.addNdet 1 else y.1
            let z := State.foldParts (route.setWidth 16) (r.putWin { x with folded := true, pending := parts, units := parts }).wins s
            z.1.putRun q { r with wins := z.2 }

/-- May a partial of window w for a row be applied (R224, R225)? Every earlier window has been read, and the partials of the row that
came before it on the path have been applied: of the two windows of a pair that folded together, either may be first. -/
def State.mayApply (s : State) (r : Run) (w row : Nat) : Bool :=
  let pends (y : Window) : Bool := y.pending.any fun z => z.1 == row
  (List.range w).all r.sent
    && (idxAccXor r.desc || !(r.wins.any fun y => decide (y.w < w) && (s.inOrder r || decide (y.w / 2 ≠ w / 2)) && pends y))

/-- A home slice's accumulate lane applies a partial to its destination row (R222). Words of another instance's memory leave for their home
slice there as they are, a packet a line (R26, R365), and memory takes what that slice makes of them (log entry 6). -/
def State.applyPartial (s : State) (route : RouteId) (w row : Nat) (ecc : Ecc) : State :=
  match s.runOf route with
  | none => s
  | some (q, r) =>
    match r.win? w with
    | none => s
    | some x => s.keeping q x.leaves fun s =>
      match x.pending.find? fun y => y.1 == row with
      | none => s
      | some part =>
        let d := r.desc
        if !s.mayApply r w row then s
        else
          let off : Int := row * dstStride d 1
          let at' (c : Nat) : Nat := vaOf r.dv.base (off + (4 * c : Nat))
          let away (a : Nat) : Bool := !s.ownPa a && !s.isDefault a
          let need := (List.range part.2.length).filterMap fun c => match s.xlate q (at' c) true with | .pa a => if away a then none else some (a, 4) | _ => none
          let leaves := (List.range part.2.length).flatMap fun c => match s.xlate q (at' c) true with
            | .pa a => if away a then (bytesOf 4 ((part.2[c]?).getD 0).toNat).mapIdx fun i b => (a + i, b) else []
            | _ => []
          let own := (need.filter fun x => !s.isDefault x.1).take 1 |>.map (·.1)
          if !s.piecesReady need then s.seek q r.seq need (r.ini q)
          else if ecc = .uncorr && !own.isEmpty then (s.walkEcc own r.qos ecc).runUncorr q r.seq
          else
            let s := (List.range part.2.length).foldl (fun s c =>
              match s.xlate q (at' c) true with
              | .pa a =>
                let old := BitVec.ofNat 32 (natOf (s.readMem a 4))
                let new := bytesOf 4 (accOp (idxAccXor d) old ((part.2[c]?).getD 0)).toNat
                if away a then { s with mem := s.mem.writeBytes a new } else s.writeMem a new (r.ini q)
              | _ => s) ((s.took need).walkEcc own r.qos ecc)
            let s := (packetsOf leaves).foldl (fun s y => s.sendAway (if idxAccXor d then .xor else .add) y.1 y.2 (r.ini q)) s
            s.putRun q (r.putWin { x with pending := x.pending.filter fun y => y.1 != row })

/-- Has everything an indexed run resolved so far landed or been applied? -/
def Run.indexedDone (r : Run) : Bool :=
  if dKind r.desc = kGATHER then decide (min (256 * r.nextWin) (posCount r.desc) ≤ r.next)
  else r.wins.all fun x => x.folded && x.pending.isEmpty

end Sys2Proof.Machine
end

