-- ==== Sys2Proof/Machine/Beats.lean ====
section
/-! DEFINITION. Engine ports (R43-R60, R74-R76, R93): command beats as they are taken, the start of waiting commands, FENCE,
RWAIT and RKICK, current grants (R55, R56, R393, R394) and engine errors (R59); and the meanings of those commands. -/

namespace Sys2Proof.Machine

/-! ### Starting a command (R50, R54, R93) -/

/-- A started command that holds up every later command of its port: a FENCE that waits, an RKICK whose kick waits (R188), a
put that waits for stash space (R246). -/
def Cmd.holdsUp (c : Cmd) : Bool :=
  c.started && (c.op == opFENCE || c.op == opRKICK || (c.op == opSTASHPUT && c.waitSince.isSome))

/-- Running runs that a FENCE waits for: those kicked from its port (bit 25) and those of its groups (R50, R191). -/
def State.fenceRunsOf (s : State) (e : EPort) (c : Cmd) : List Nat :=
  (s.running.filter fun r =>
    (c.beat.getLsbD 25 && (match r.src with | .port e' _ => e' == e | _ => false))
      || c.beat.getLsbD (32 + dFencegrp r.desc)).map (·.seq)

/-- RKICK (R50, R187, R189): the kick is taken, or fails with ROUTEBAD. -/
def State.startRkick (s : State) (e : EPort) (c : Cmd) : State :=
  match s.takeKick (.port e c.tag) c.route with
  | none => s.complete e c .routebad (c.route.setWidth 32)
  | some (s, seq) => s.putCmd e { c with kick := some seq }

/-- RWAIT (R50, R191): a route that is not active completes at once, a held run gives its code, a running run is waited for. -/
def State.startRwait (s : State) (e : EPort) (c : Cmd) : State :=
  match s.runs.find? fun r => r.route == c.route with
  | none => s.complete e c .ok 0
  | some r =>
    match r.code with
    | none => s.putCmd e { c with kick := some r.seq }
    | some code =>
      let s := s.complete e c code r.detail
      allQuads.foldl (fun s q => s.dropRun q r.seq) s

/-- Starts a command: it leaves the waiting ones, and its meaning runs. -/
def State.startCmd (s : State) (e : EPort) (c0 : Cmd) (ecc : List RowEcc) : State :=
  let c := { c0 with started := true }
  let s := s.putCmd e c
  match c.op.toNat with
  | 0x01 => s.startTcfg e c
  | 0x02 | 0x03 => s.startLs e c
  | 0x04 => s.startTzero e c
  | 0x05 => s.startTmove e c ecc
  | 0x06 => s.startTrelease e c
  | 0x10 => s.startRkick e c
  | 0x11 => s.startRwait e c
  | 0x12 => s.startRvread e c
  | 0x20 => s.startStashput e c
  | 0x21 => s.startStashget e c
  | _ => s.putCmd e { c with runs := s.fenceRunsOf e c }

/-- Starts the oldest waiting command of a port once nothing holds it up and its tiles are free (R54, R93). None starts in a
Tumbler stop or a recovery hold (R60, R386). -/
def State.startNext (s : State) (e : EPort) (ecc : List RowEcc) : State :=
  let q := s.port e
  match q.cmds.find? fun c => !c.started with
  | none => s
  | some c =>
    if s.stopped || s.tmb.hold || q.cmds.any Cmd.holdsUp || s.conflict e.p c then s
    else (s.startCmd e c ecc).settle

/-! ### Taking a beat (R49, R53, R74-R76) -/

/-- A taken command: what it must remember from the moment it was taken (R50, R103). -/
def State.newCmd (s : State) (e : EPort) (beat : BitVec 128) : Cmd :=
  let c : Cmd := { beat := beat }
  { c with
    rv := if c.op = opRVREAD then (s.cell e.p).rvOf (bf beat 24 2) else []
    gen := if c.op = opSTASHPUT && c.genValid then (s.gen? c.genIdx).map fun g => (g.idx, g.liveCtr) else none
    earlier := if c.op = opFENCE && beat.getLsbD 24 then (s.port e).cmds.map Cmd.tag else []
    other := if c.op = opFENCE && beat.getLsbD 26 then (s.port ⟨e.p, !e.sep⟩).cmds.map Cmd.tag else [] }

/-- A violation of R74 nos. 1 and 2: the command is dropped and its tag completes with PORTPROTO, or with FENCED when this
violation has fenced the port (R76). -/
def State.badBeat (s : State) (e : EPort) (op tag : Byte) (no : Nat) : State :=
  let s := s.violation e no tag.toNat
  if (s.port e).fenced then s.present e op tag 0 .fenced 0 0 else s.present e op tag 0 .portproto (w32 no) 0

/-- The reads of an RV register as an RVREAD is taken, up to the first entry that cannot be corrected: the command then delivers nothing
(R97, R103). -/
def State.rvReads (s : State) (e : EPort) (c : Cmd) (l : List (BitVec 7 × Ecc)) : State :=
  let n := bf c.beat 24 2
  let ecc (i : BitVec 7) : Ecc := ((l.find? fun x => x.1 == i).map (·.2)).getD .ok
  let all : List (BitVec 7) := (List.range 128).map (BitVec.ofNat 7)
  let seen := all.takeWhile fun i => ecc i != .uncorr
  let s := seen.foldl (fun s i => s.rvEcc e.p (128 * n + i.toNat) (ecc i)) s
  match all.find? fun i => ecc i == .uncorr with
  | some i => (s.putCmd e { c with rv := [] }).rvEcc e.p (128 * n + i.toNat) .uncorr
  | none => s

/-- A command beat (R49, R53, R60, R75): on a fenced port it completes with FENCED; while the ready signal is low it is not
taken; a tag that is outstanding, a reserved opcode and a reserved bit are violations. -/
def State.takeBeat (s : State) (e : EPort) (op tag : Byte) (arg : BitVec 112) (ecc : List RowEcc := []) (rvEcc : List (BitVec 7 × Ecc) := []) :
    State :=
  let beat := beatOf op tag arg
  let q := s.port e
  if s.asleep then s
  else if q.fenced then s.present e op tag (Cmd.tileNo { beat := beat }).toNat .fenced 0 0
  else if !s.cmdReady e then (if s.cmdStop then s else s.violation e 4 tag.toNat)
  else if (q.find tag).isSome then s.violation e 3 tag.toNat
  else if (beatFields op).isNone then s.badBeat e op tag 1
  else if reservedBitSet op beat then s.badBeat e op tag 2
  else
    let c := s.newCmd e beat
    let s := s.modPort e fun q => { q with cmds := q.cmds ++ [c] }
    let s := if op = opRVREAD && !rvEcc.isEmpty then s.rvReads e c rvEcc else s
    if q.waiting = 0 then s.startNext e ecc else s

/-! ### Current grants (R55, R56, R393, R394) -/

/-- Raises of the ACLK whose commands wait and whose clients have lower numbers (R393). -/
def State.rivals (s : State) (n aclk : Nat) : List (Nat × Nat) :=
  s.pending.filterMap fun i => match i with
    | .currentGrantRequest e amt k =>
      let m := portClient e
      if k = aclk && decide (m < n) && !(s.port e).fenced && decide (s.cba.lvl m < amt.toNat) then some (m, amt.toNat) else none
    | _ => none

/-- A grant request: a fenced port is answered with level 0; a lower level is granted at once; a raise is served in its order, behind those
of the same ACLK from lower clients. The arbiter answers in every case, also during a wipe (R55, R393). The fall of EP_CG_REQ is no command:
what a raise still lacks stays wanted until the port asks again (DESIGN CHOICE, log entry 85). -/
def State.cgRequest (s : State) (e : EPort) (amt : BitVec 12) (aclk : Nat) : State :=
  if !s.pins.rstN then s
  else if (s.port e).fenced then s.out (.cgAck e 0)
  else
    let n := portClient e
    let k := max s.clk.aclk aclk
    let t := s.atAclk aclk
    let t := t.served ((s.cba.request k n amt.toNat).serveBehind (floorF s.pins.gradeS) k (s.rivals n aclk)) (some n)
    t.out (.cgAck e (BitVec.ofNat 12 (t.cba.lvl n)))

/-- A refill mark: the allowance is set and raises are served (R392, R393). -/
def State.refill (s : State) (now : Tick) : State :=
  let s := s.atTick now
  if !s.pins.rstN then s else ({ s with cba := { s.cba with left := s.cba.rampStep } } : State).serve

/-! ### Engine errors (R59) -/

/-- An engine's error report. A failed engine of a cell that serves no logical cell voids nothing (R301). -/
def State.epErr (s : State) (e : EPort) (v : BitVec 2) : State :=
  if s.asleep || v = 0 then s
  else if v = 3 then
    let t := (s.fence ⟨e.p, false⟩ 0 5 0).fence ⟨e.p, true⟩ 0 5 0
    (if (s.cell e.p).logical.isSome then t.stopStep 0x06 else t).retireCell e.p 1
  else
    let s := s.report lvlCell (srcPort e) clsEngerr (if v = 1 then .corrected else .stepvoid) (s.detM v.toNat 0x0E)
    if v = 1 then s else s.beginVoid 0x06

/-! ### Meanings -/

def execTcfg (e : EPort) (tag : Byte) (arg : BitVec 112) (s : State) : Host.Outcome State Fault Refusal :=
  .next ((s.takeBeat e opTCFG tag arg).settle)
def execTload (e : EPort) (tag : Byte) (arg : BitVec 112) (s : State) : Host.Outcome State Fault Refusal :=
  .next ((s.takeBeat e opTLOAD tag arg).settle)
def execTstore (e : EPort) (tag : Byte) (arg : BitVec 112) (s : State) : Host.Outcome State Fault Refusal :=
  .next ((s.takeBeat e opTSTORE tag arg).settle)
def execTzero (e : EPort) (tag : Byte) (arg : BitVec 112) (s : State) : Host.Outcome State Fault Refusal :=
  .next ((s.takeBeat e opTZERO tag arg).settle)
def execTmove (e : EPort) (tag : Byte) (arg : BitVec 112) (ecc : List RowEcc) (s : State) : Host.Outcome State Fault Refusal :=
  .next ((s.takeBeat e opTMOVE tag arg ecc).settle)
def execTrelease (e : EPort) (tag : Byte) (arg : BitVec 112) (s : State) : Host.Outcome State Fault Refusal :=
  .next ((s.takeBeat e opTRELEASE tag arg).settle)
def execRkick (e : EPort) (tag : Byte) (arg : BitVec 112) (s : State) : Host.Outcome State Fault Refusal :=
  .next ((s.takeBeat e opRKICK tag arg).settle)
def execRwait (e : EPort) (tag : Byte) (arg : BitVec 112) (s : State) : Host.Outcome State Fault Refusal :=
  .next ((s.takeBeat e opRWAIT tag arg).settle)
def execRvread (e : EPort) (tag : Byte) (arg : BitVec 112) (rvEcc : List (BitVec 7 × Ecc)) (s : State) : Host.Outcome State Fault Refusal :=
  .next ((s.takeBeat e opRVREAD tag arg [] rvEcc).settle)
def execStashput (e : EPort) (tag : Byte) (arg : BitVec 112) (s : State) : Host.Outcome State Fault Refusal :=
  .next ((s.takeBeat e opSTASHPUT tag arg).settle)
def execStashget (e : EPort) (tag : Byte) (arg : BitVec 112) (s : State) : Host.Outcome State Fault Refusal :=
  .next ((s.takeBeat e opSTASHGET tag arg).settle)
def execFence (e : EPort) (tag : Byte) (arg : BitVec 112) (s : State) : Host.Outcome State Fault Refusal :=
  .next ((s.takeBeat e opFENCE tag arg).settle)

/-- A beat whose opcode R49 reserves (R74 no. 1); an opcode it does not reserve is not this command. -/
def execReservedOpcodeBeat (e : EPort) (op tag : Byte) (arg : BitVec 112) (s : State) : Host.Outcome State Fault Refusal :=
  .next (if (beatFields op).isSome then s else (s.takeBeat e op tag arg).settle)

/-- The oldest waiting command of a port starts (R54, R93). -/
def execCommandStart (e : EPort) (ecc : List RowEcc) (s : State) : Host.Outcome State Fault Refusal := .next (s.startNext e ecc)

def execOperandReadRequest (e : EPort) (a b : BitVec 12) (aclk : Nat) (eccA eccB : Ecc) (s : State) : Host.Outcome State Fault Refusal :=
  .next (s.operandRead e a b aclk eccA eccB)
def execResultWrite (e : EPort) (tile : TileNo) (row : RowNo) (data : Row) (rctl : Byte) (aclk : Nat) (ecc : List RowEcc) (rvEcc : Ecc)
    (s : State) : Host.Outcome State Fault Refusal := .next (s.resultWrite e tile row data rctl aclk ecc rvEcc)
def execCorrectedRowWriteback (p : PCell) (tile : TileNo) (row : RowNo) (s : State) : Host.Outcome State Fault Refusal :=
  .next (s.writeBack p tile row)
def execCurrentGrantRequest (e : EPort) (amt : BitVec 12) (aclk : Nat) (s : State) : Host.Outcome State Fault Refusal :=
  .next (s.cgRequest e amt aclk)
def execRampRefill (now : Tick) (s : State) : Host.Outcome State Fault Refusal := .next (s.refill now)
def execEpErrReport (e : EPort) (v : BitVec 2) (s : State) : Host.Outcome State Fault Refusal := .next (s.epErr e v).settle

/-- EP_CG_AMT changed while EP_CG_REQ is high and not acknowledged: the original request is kept (R74 no. 7). -/
def execEpCgAmtChange (e : EPort) (_amt : BitVec 12) (s : State) : Host.Outcome State Fault Refusal :=
  .next (if s.asleep then s else s.violation e 7 0)

end Sys2Proof.Machine
end

