-- ==== Sys2Proof/Machine/Merge.lean ====
section
/-! DEFINITION. The canonical merge (R269-R274): REDUCE_MERGE runs in their three phases and the merge buffer. A run's `phase`
is 0 in the local phase, 1 to n in reduce-scatter (cross step j = phase - 1), n + 1 to 2n in all-gather (j = 2n - phase), and
2n + 1 when the result is written. -/

namespace Sys2Proof.Machine

/-- Elements and merge blocks of a run (R272). -/
def mergeEls (d : Desc) : Nat := destCount d
def mergeBlocks (d : Desc) : Nat := ceilDiv (mergeEls d) 1024
def blockLen (d : Desc) (b : Nat) : Nat := min 1024 (mergeEls d - 1024 * b)

/-- LOCAL_BASE, SHARD_STRIDE and ALLGATHER (R270). -/
def localBase (d : Desc) : Nat := dfld d 112 6
def shardStride (d : Desc) : Nat := dfld d 118 4
def allGather (d : Desc) : Bool := (srcWord d).getLsbD 0

/-- Level of the local node: log2(V/N) (R272). -/
def State.localLevel (s : State) : Nat := s.vLog2 - s.nLog2

/-- Block range of a chip on entering cross step j (R272). -/
def mergeRange (k chip : Nat) : Nat → Nat × Nat
  | 0 => (0, k)
  | j + 1 =>
    let r := mergeRange k chip j
    let mid := r.1 + (r.2 - r.1 + 1) / 2
    if chip / 2 ^ j % 2 = 0 then (r.1, mid) else (mid, r.2)

/-- Virtual addresses of element `e` in the partials of the chip's shards. -/
def partialVa (d : Desc) (v e : Nat) : Nat := vaOf (localBase d) (v * shardStride d + 4 * e : Nat)

/-- Bytes of the partials of a block, as addresses. -/
def State.blockVas (s : State) (d : Desc) (b : Nat) : List (Nat × Bool) :=
  (List.range (2 ^ s.localLevel)).flatMap fun v => (List.range (blockLen d b)).map fun i => (partialVa d v (1024 * b + i), false)

/-- An FP32 word at a virtual address, zeros where the line decodes to the default target (R192). -/
def State.vword (s : State) (q : QuadNo) (va : Nat) : Word := BitVec.ofNat 32 (natOf ((List.range 4).map fun (i : Nat) => s.vbyte q (vaOf va i)))

/-- node(L, c) of every element of a block (R269, R272). -/
def State.localNode (s : State) (q : QuadNo) (d : Desc) (b : Nat) : List Word :=
  (List.range (blockLen d b)).map fun i =>
    treeFold f32Add 17 ((List.range (2 ^ s.localLevel)).map fun v => s.vword q (partialVa d v (1024 * b + i)))

/-! ### Sending (R272, R273) -/

/-- Sends blocks to a chip, LAST on the final one. -/
def State.sendBlocks (s : State) (r : Run) (dst shard level phase : Nat) (bs : List MergeBlk) : State :=
  (bs.foldl (fun (a : State × Nat) b =>
    let pay := b32 b.block ++ b8 level ++ b8 phase ++ b16 b.vals.length ++ List.replicate 8 0
      ++ b.vals.flatMap fun w => bytesOf 4 w.toNat
    (a.1.send 0x01 (if a.2 = 1 then 1 else 0) (BitVec.ofNat 16 dst) (BitVec.ofNat 16 shard) (r.route.setWidth 16) (padTo32 pay), a.2 - 1))
    (s, bs.length)).1

/-- Takes the next phase: a reduce-scatter step sends the half it gives up, an all-gather step what it holds. -/
def State.mergeEnter (s : State) (r : Run) (p : Nat) : State × Run :=
  let d := r.desc
  let n := s.nLog2
  let c := s.chip.toNat
  if p ≤ n then
    let j := p - 1
    let keep := mergeRange (mergeBlocks d) c p
    let inKeep (b : MergeBlk) : Bool := decide (keep.1 ≤ b.block) && decide (b.block < keep.2)
    let give := r.blks.filter fun b => !inKeep b
    let shard := c / 2 ^ j * 2 ^ (j + s.localLevel)
    (s.sendBlocks r (c ^^^ 2 ^ j) shard (s.localLevel + j) 1 give,
      { r with phase := p, lo := keep.1, hi := keep.2, blks := r.blks.filter inKeep })
  else if p ≤ 2 * n && allGather d then
    let j := 2 * n - p
    (s.sendBlocks r (c ^^^ 2 ^ j) 0 0xFF 2 r.blks, { r with phase := p })
  else (s, { r with phase := 2 * n + 1 })

/-! ### Receiving (R272-R274) -/

/-- Is a held message the one that a run of this route waits for? -/
def Partial.isFor (x : Partial) (r : Run) (step : BitVec 48) (src block level phase : Nat) : Bool :=
  x.route == r.route && x.step == step && x.src.toNat == src && x.block == block && x.level == level && x.phase == phase

/-- Reduce-scatter: adds the partner's node to a block that still lacks it; the chip whose bit j is 0 gives the left operand. -/
def State.mergeAdd (s : State) (r : Run) (b : MergeBlk) : State × MergeBlk :=
  let j := r.phase - 1
  let c := s.chip.toNat
  let level := s.localLevel + j
  if b.level ≠ level then (s, b)
  else match s.merge.find? fun x => x.isFor r s.step.count (c ^^^ 2 ^ j) b.block level 1 with
    | none => (s, b)
    | some x =>
      let op (a y : Word) : Word := if c / 2 ^ j % 2 = 0 then f32Add a y else f32Add y a
      ({ s with merge := s.merge.erase x },
        { b with level := level + 1, vals := (List.range b.vals.length).map fun i => op ((b.vals[i]?).getD 0) ((x.vals[i]?).getD 0) })

/-- All-gather: takes a root block of the partner. -/
def State.mergeTake (s : State) (r : Run) (b : Nat) : State × Run :=
  let j := 2 * s.nLog2 - r.phase
  if r.blks.any fun x => x.block == b then (s, r)
  else match s.merge.find? fun x => x.isFor r s.step.count (s.chip.toNat ^^^ 2 ^ j) b 0xFF 2 with
    | none => (s, r)
    | some x => ({ s with merge := s.merge.erase x }, { r with blks := r.blks ++ [⟨b, 0xFF, x.vals⟩] })

/-- Takes from the merge buffer what the present phase waits for; the flag says that the phase is complete. -/
def State.mergePull (s : State) (r : Run) : State × Run × Bool :=
  let d := r.desc
  let n := s.nLog2
  if r.phase = 0 then (s, r, decide (r.blks.length = mergeBlocks d))
  else if r.phase ≤ n then
    let x := r.blks.foldl (fun (a : State × List MergeBlk) b => let y := a.1.mergeAdd r b; (y.1, a.2 ++ [y.2])) (s, [])
    (x.1, { r with blks := x.2 }, x.2.all fun b => b.level == s.localLevel + r.phase)
  else if r.phase ≤ 2 * n then
    let rg := mergeRange (mergeBlocks d) s.chip.toNat (2 * n - r.phase)
    let x := (List.range' rg.1 (rg.2 - rg.1)).foldl (fun (a : State × Run) b => a.1.mergeTake a.2 b) (s, r)
    (x.1, x.2, decide (x.2.blks.length = rg.2 - rg.1))
  else (s, r, false)

/-- Moves a run through its phases as far as what has arrived allows. -/
def mergeAdvance : Nat → State → Run → State × Run
  | 0, s, r => (s, r)
  | fuel + 1, s, r =>
    let x := s.mergePull r
    if x.2.2 then let y := x.1.mergeEnter x.2.1 (x.2.1.phase + 1); mergeAdvance fuel y.1 y.2 else (x.1, x.2.1)

/-! ### Writing the result (R194, R270) -/

/-- Values of elements [a, a + n) of a block that the run holds. -/
def Run.held (r : Run) (b : Nat) : Option (List Word) := (r.blks.find? fun x => x.block == b).map (·.vals)

/-- Parts of a unit by merge block: (block, first element within the run of the pattern, elements). -/
def unitParts (d : Desc) (u : Nat) : List (Nat × Nat × Nat) :=
  let n := dcnt d 0
  let e := u * n
  (List.range' (e / 1024) (ceilDiv (e + n) 1024 - e / 1024)).map fun b =>
    (b, max (1024 * b) e - e, min (1024 * (b + 1)) (e + n) - max (1024 * b) e)

/-- Elements of a part as they go to the destination (R147, R154). -/
def State.mergeEls' (s : State) (r : Run) (u b st n : Nat) (vals : List Word) : List El :=
  (List.range' st n).map fun i =>
    let e := u * dcnt r.desc 0 + i
    let w := (vals[e - 1024 * b]?).getD 0
    ⟨false, .val w, w.toNat, 0, s.rndOf r.desc e, false⟩

/-- Addresses a part writes, by element. -/
def Run.partNeeds (r : Run) (u i : Nat) : List (Nat × Bool) :=
  (elBytes r.dv 0 (hasScale r.dv.fmt) (dstOff r.desc (unitIdx r.desc u)) i).map fun a => (a, true)

/-- Writes one part; a line that faults ends the run there, the lanes before it written (R192). -/
def State.mergePart (s : State) (q : QuadNo) (r : Run) (u b st n : Nat) : State × Option Run :=
  match r.held b with
  | none => (s, some r)
  | some vals =>
    let off := dstOff r.desc (unitIdx r.desc u)
    let o := encodeRun r.mode r.dv.fmt s.glob.fmtPolicy off st (s.mergeEls' r u b st n vals)
    match (List.range' st n).findSome? fun i => (s.firstFault q (r.partNeeds u i)).map fun f => (i, f.1, f.2) with
    | some (i, code, va) =>
      let i' := if hasScale r.dv.fmt then i / 32 * 32 else i
      ((s.putMem q r.dv (o.cut r.dv.fmt (bitPos r.dv.fmt off i' / 8 / 32)) (r.ini q)).endRun q r code (vaDetail va), none)
    | none =>
      let x := s.answerRun q r ((List.range' st n).flatMap (r.partNeeds u))
      let bs := r.tail ++ o.stream
      let f := foldBytes (r.route.setWidth 16) bs.length (x.1.putMem q r.dv o (r.ini q)) bs
      (f.1, some { x.2 with tail := f.2, ranged := r.ranged + o.counted })

/-- Writes every block that the run holds, in the order of R194. -/
def State.mergeWrite (s : State) (q : QuadNo) (r : Run) : State :=
  let parts := (List.range (unitCount r.desc)).flatMap fun u => (unitParts r.desc u).map fun p => (u, p)
  let x := parts.foldl (fun (a : State × Option Run) p =>
    match a.2 with
    | none => a
    | some r => a.1.mergePart q r p.1 p.2.1 p.2.2.1 p.2.2.2) (s, some r)
  match x.2 with
  | none => x.1
  | some r => x.1.putRun q { r with next := unitCount r.desc }

/-- Addresses that a merge run writes. -/
def Run.mergeNeeds (r : Run) : List Nat :=
  (List.range (unitCount r.desc)).flatMap fun u => (List.range (dcnt r.desc 0)).flatMap fun i => (r.partNeeds u i).map (·.1)

/-- Advances a merge run, and writes its result once the last phase is over and its lines are translated. -/
def State.mergeRun (s : State) (q : QuadNo) (r : Run) : State :=
  if r.next ≠ 0 then s
  else
    let x := mergeAdvance (2 * s.nLog2 + 2) s r
    let s := x.1.putRun q x.2
    if 2 * s.nLog2 < x.2.phase then
      let w := s.walkedFor q r.seq x.2.mergeNeeds (x.2.ini q)
      if w.2 then w.1.mergeWrite q x.2 else w.1
    else s

/-- A block of a merge run's partials has been read (R272): its lines are at hand, or it faults as a source line does. A run past its
phases goes on to write its result. -/
def State.mergeBlock (s : State) (q : QuadNo) (r : Run) (b : Nat) (ecc : Ecc) : State :=
  let d := r.desc
  if 2 * s.nLog2 < r.phase then s.mergeRun q r
  else if r.phase ≠ 0 || decide (mergeBlocks d ≤ b) || r.blks.any (fun x => x.block == b) then s
  else
    let vas := s.blockVas d b
    let w := s.walkedFor q r.seq (vas.map (·.1)) (engineIni q 7)
    if !w.2 then w.1
    else
      let s := w.1
      match s.firstFault q vas with
      | some f => s.endRun q r f.1 (vaDetail f.2)
      | none =>
        let ps := vas.flatMap fun x => (List.range 4).filterMap fun (i : Nat) => match s.xlate q (vaOf x.1 i) false with | .pa a => some (a, 1) | _ => none
        if !s.piecesReady ps then s.seek q r.seq ps (engineIni q 7)
        else if ecc = .uncorr && !ps.isEmpty then (s.walkEcc ((ps.take 1).map (·.1)) 7 ecc).runUncorr q r.seq
        else
          let x := ((s.took ps).walkEcc ((ps.take 1).map (·.1)) 7 ecc).answerRun q r vas
          x.1.mergeRun q { x.2 with blks := r.blks ++ [⟨b, s.localLevel, s.localNode q d b⟩] }

/-! ### Messages (R66, R273, R274) -/

/-- A gradient-partial message as the merge buffer holds it; none where it is not one of R273. -/
def partialOf? (m : XMsg) : Option Partial :=
  let p := m.payload
  let count := fld p 6 2
  if p.length < 16 + 4 * count || count = 0 || 1024 < count || !(fld p 5 1 == 1 || fld p 5 1 == 2) then none
  else some
    { src := m.src, route := m.stream.setWidth 14, step := m.step, block := fld p 0 4, level := fld p 4 1, phase := fld p 5 1,
      last := m.flags.getLsbD 0, vals := (List.range count).map fun i => BitVec.ofNat 32 (fld p (16 + 4 * i) 4) }

/-- Bytes that a held message takes in the merge buffer. -/
def Partial.size (x : Partial) : Nat := ceilDiv (16 + 4 * x.vals.length) 32 * 32

def State.mergeUsed (s : State) : Nat := s.merge.foldl (fun a x => a + x.size) 0

/-- MERGE_SIZE in bytes (R358: units of 64 KiB). -/
def State.mergeCap (s : State) : Nat := s.job.mergeSize.toNat * 65536

/-- A partial arrives: the run that waits for it takes it, else it is held. `none` when the buffer has no room: the message is
not taken (R274). -/
def State.takePartial (s : State) (x : Partial) : Option State :=
  let held := { s with merge := s.merge ++ [x] }
  let t := match held.runOf x.route with
    | some (q, r) => if dKind r.desc = kMERGE then held.mergeRun q r else held
    | none => held
  if t.merge.contains x && decide (s.mergeCap < t.mergeUsed) then none else some t

end Sys2Proof.Machine
end

