-- ==== Sys2Proof/Machine/Parity.lean ====
section
/-! DEFINITION. Shard parity (R309-R323): PARITY_DELTA runs, the holders' images, directory mirrors, resync and rebuild. A
parity image is kept as lines of its own, since the manual names no address for it (log entry 29). -/

namespace Sys2Proof.Machine

/-! ### Words of the stash directory and the generation table (R232, R250, R310) -/

/-- A directory entry as its 16 bytes. -/
def SEntry.word (x : SEntry) : BitVec 128 :=
  let g := x.gen.getD (0, 0)
  BitVec.ofNat 128 (natOf
    (b16 (2 ^ 15 + bitAt x.spilled 14 + bitAt x.mark 13 + bitAt x.gen.isSome 12 + bitAt x.retired 11 + bitAt x.isNew 10 + x.slot.toNat)
      ++ b16 (x.part.toNat * 4096 + x.layer.toNat) ++ b16 g.1.toNat ++ b16 g.2.toNat ++ b8 x.cell.toNat ++ b8 x.vrows
      ++ b8 (bitAt x.cfg.layout 7 + x.cfg.rm1.toNat) ++ b8 (x.cfg.rb.toNat * 32 + x.cfg.fmt.toNat) ++ b32 x.loc.toNat))

/-- A generation-table entry as its 64 bytes, its references counted (R250). -/
def State.genBytes (s : State) (g : Gen) : List Byte :=
  bytesOf 6 g.baseA.toNat ++ bytesOf 6 g.baseB.toNat ++ b32 g.offO.toNat ++ b32 g.offN.toNat ++ b32 g.offT.toNat
    ++ b16 g.genA.toNat ++ b16 g.genB.toNat ++ b8 g.fmtM.toNat ++ b8 g.fmtO.toNat ++ b8 g.fmtN.toNat ++ b8 g.fmtT.toNat
    ++ b32 g.nPs.toNat ++ b32 g.tPs.toNat ++ b32 g.nSo.toNat ++ b32 g.tSo.toNat
    ++ bytesOf 3 (s.refs g.idx g.genA) ++ bytesOf 3 (s.refs g.idx g.genB)
    ++ b16 (2 ^ 15 + bitAt g.frozen 14 + bitAt g.live 13 + g.st.code * 2 ^ 10 + bitAt g.ckpt 9 + bitAt g.drained 8 + g.parts.toNat)
    ++ b32 (bitAt g.prot 31 + g.piOff.toNat) ++ b32 g.plen.toNat

/-! ### The image of a member (R310) -/

/-- Member index, group sizes and holders as the parity registers hold them (R318). -/
def Par.member (p : Par) : Bool := p.mcfg.getLsbD 31
def Par.holder (p : Par) : Bool := p.hcfg.getLsbD 31
def Par.two (p : Par) : Bool := p.mcfg.getLsbD 30
def Par.index (p : Par) : Nat := bf p.mcfg 24 5
def Par.share (p : Par) : Nat := bf p.hcfg 30 1
def Par.members (p : Par) : Nat := bf p.hcfg 16 5 + 1
/-- The group that this chip is a data member of, and the one of which it holds a share (R318). -/
def Par.group (p : Par) : Nat := bf p.mcfg 0 16
def Par.heldGroup (p : Par) : Nat := bf p.hcfg 0 16
def Par.holderChips (p : Par) : List Nat := bf p.holders 0 16 :: (if p.two then [bf p.holders 16 16] else [])

/-- Slot of a tensor whose counter is even (`odd = false`) or odd: true for slot B; a frozen tensor has slot A alone. -/
def Gen.slotOf (g : Gen) (odd : Bool) : Option Bool :=
  let is (c : BitVec 16) : Bool := c.getLsbD 0 == odd
  if is g.genA then some false else if !g.frozen && is g.genB then some true else none

/-- Tensor whose range holds image line j. -/
def State.lineGen (s : State) (j : Nat) : Option Gen :=
  s.gens.find? fun g => g.prot && decide (g.piOff.toNat ≤ j) && decide (j < g.piOff.toNat + g.plen.toNat)

/-- Virtual address of image line j in image slot `odd`. -/
def State.lineVa (s : State) (j : Nat) (odd : Bool) : Option Nat :=
  match s.lineGen j with
  | none => none
  | some g => (g.slotOf odd).map fun b => g.base b + (j - g.piOff.toNat) * 256

/-- 256 bytes at a virtual address as the parity unit reads them. -/
def State.vrow (s : State) (q : QuadNo) (va : Nat) : Row := rowOf ((List.range 256).map fun (i : Nat) => s.vbyte q (vaOf va i))

/-- Line j of this member's image. -/
def State.imageLine (s : State) (j : Nat) (odd : Bool) : Row := match s.lineVa j odd with | some va => s.vrow 0 va | none => 0

/-- Lines of an image: up to the end of the last protected tensor. -/
def State.imageLen (s : State) : Nat := (s.gens.filter (·.prot)).foldl (fun a g => max a (g.piOff.toNat + g.plen.toNat)) 0

/-- A row times a constant, byte by byte (R311). -/
def rowMul (c : Byte) (r : Row) : Row := rowOf ((rowBytes r 256).map (gfMul c))

/-! ### Messages (R315, R320) -/

def parPrefix (kind share : Nat) (idx : BitVec 12) (ctr voids : BitVec 16) (line count member : Nat) : List Byte :=
  b8 kind ++ b8 share ++ b16 idx.toNat ++ b16 ctr.toNat ++ b16 voids.toNat ++ b32 line ++ b16 count ++ b16 member

def State.sendPar (s : State) (dst : Nat) (last : Bool) (pre : List Byte) (body : List Byte) : State :=
  s.send 0x02 (if last then 1 else 0) (BitVec.ofNat 16 dst) 0 0 (padTo32 (pre ++ body))

def State.sendRebuild (s : State) (dst group kind : Nat) (odd : Bool) (member line count : Nat) (body : List Byte) : State :=
  s.send 0x03 0 (BitVec.ofNat 16 dst) 0 (BitVec.ofNat 16 group)
    (padTo32 (b8 kind ++ b8 odd.toNat ++ b16 member ++ b32 line ++ b16 count ++ List.replicate 6 0 ++ body))

/-- Cuts a list into parts of at most n. -/
def cutList {α : Type} (n : Nat) : Nat → List α → List (List α)
  | 0, _ => []
  | fuel + 1, l => if l.isEmpty then [] else l.take n :: cutList n fuel (l.drop n)

/-! ### PARITY_DELTA runs (R313) -/

/-- The tensor of a parity run and its messages: at most 31 lines each. -/
def State.parityGen (s : State) (r : Run) : Option Gen := s.gen? (epGenIdx (srcWord r.desc))
def Gen.deltaMsgs (g : Gen) : Nat := ceilDiv g.plen.toNat 31

/-- Sends the lines of one message, as deltas for each holder. -/
def State.sendDelta (s : State) (g : Gen) (k : Nat) (ds : List Row) : State :=
  let last := decide (k + 1 = g.deltaMsgs)
  let i := s.par.index
  let pre (share : Nat) : List Byte := parPrefix 1 share g.idx g.otherCtr s.tmb.voids (g.piOff.toNat + 31 * k) ds.length i
  let body (c : Byte) : List Byte := ds.flatMap fun d => rowBytes (rowMul c d) 256
  let s := s.sendPar (bf s.par.holders 0 16) last (pre 0) (ds.flatMap fun d => rowBytes d 256)
  if s.par.two then s.sendPar (bf s.par.holders 16 16) last (pre 1) (body (gfPow i)) else s

/-- The lines of message `k` have been read: Δ = O ⊕ L of each is sent (R313). Messages are formed in line order. -/
def State.parityUnit (s : State) (q : QuadNo) (r : Run) (k : Nat) (ecc : Ecc) : State :=
  match s.parityGen r with
  | none => s
  | some g =>
    let ls := List.range' (31 * k) (min 31 (g.plen.toNat - 31 * k))
    let va (b : Bool) (j : Nat) : Nat := vaOf (g.base b) (256 * j : Nat)
    let vas := ls.flatMap fun j => [(va true j, false), (va false j, false)]
    let w := s.walkedFor q r.seq (vas.map (·.1)) (engineIni q 5)
    if k ≠ r.next || decide (g.deltaMsgs ≤ k) then s
    else if !w.2 then w.1
    else
      let s := w.1
      match s.firstFault q vas with
      | some f => s.endRun q r f.1 (vaDetail f.2)
      | none =>
        let ps := vas.filterMap fun x => match s.xlate q x.1 false with | .pa a => some (a, 256) | _ => none
        if !s.piecesReady ps then s.seek q r.seq ps (engineIni q 5)
        else if ecc = .uncorr && !ps.isEmpty then (s.walkEcc ((ps.take 1).map (·.1)) 5 ecc).runUncorr q r.seq
        else
          let x := ((s.took ps).walkEcc ((ps.take 1).map (·.1)) 5 ecc).answerRun q r vas
          let ds := ls.map fun j => s.vrow q (va true j) ^^^ s.vrow q (va false j)
          let s := ds.foldl (fun s d => s.fold (r.route.setWidth 16) (rowBytes d 256)) x.1
          (s.sendDelta g k ds).putRun q { x.2 with next := k + 1 }

/-- Every message of a parity run is sent and every holder has acknowledged the last (R313). -/
def State.parityDone (s : State) (r : Run) : Bool :=
  match s.parityGen r with
  | some g => decide (g.deltaMsgs ≤ r.next) && s.par.holderChips.all fun h => r.acks.contains (BitVec.ofNat 16 h)
  | none => true

/-! ### Holders (R312, R314) -/

def Par.line? (p : Par) (slot : Bool) (j : Nat) : Option PLine := p.image.find? fun x => x.slot == slot && x.line == j

/-- Stores a line of the image with its tag. -/
def Par.putLine (p : Par) (x : PLine) : Par :=
  { p with image := x :: p.image.filter fun y => !(y.slot == x.slot && y.line == x.line) }

/-- Applies one delta line of generation c and void count v (R314). -/
def Par.applyDelta (p : Par) (j : Nat) (c v : BitVec 16) (d : Row) : Par :=
  let b := c.getLsbD 0
  let other : Row := match p.line? (!b) j with | some x => x.data | none => 0
  let old : Row := match p.line? b j with
    | some x => if x.ctr = c ∧ x.voids = v then x.data else other
    | none => other
  p.putLine ⟨b, j, old ^^^ d, c, v⟩

/-- The pair (STEP, v) of a delta has been voided (R314): a lower void count of the step in progress, or its own while the
step is stopped. -/
def State.pairVoided (s : State) (step : BitVec 48) (v : BitVec 16) : Bool :=
  step == s.step.count && (decide (v.toNat < s.tmb.voids.toNat) || (s.tmb.stop && v == s.tmb.voids))

/-- Lines in a payload from byte `o`. -/
def rowsOf (p : List Byte) (o n : Nat) : List Row := (List.range n).map fun i => rowOf ((p.drop (o + 256 * i)).take 256)

/-- A chip that sends as a member of the group of which this chip holds a share (R314, R317). -/
def Par.knows (p : Par) (chip : BitVec 16) (i : Nat) : Par := { p with chips := (chip, i) :: p.chips.filter (·.1 ≠ chip) }

/-- KIND 0x01 at a holder. -/
def State.takeDelta (s : State) (m : XMsg) : State :=
  let p := m.payload
  let idx : BitVec 12 := BitVec.ofNat 12 (fld p 2 2)
  let c : BitVec 16 := BitVec.ofNat 16 (fld p 4 2)
  let v : BitVec 16 := BitVec.ofNat 16 (fld p 6 2)
  if !s.par.holder || fld p 1 1 != s.par.share || s.pairVoided m.step v then s
  else
    let rows := rowsOf p 16 (min 31 (fld p 12 2))
    let par := (rows.foldl (fun (a : Par × Nat) d => (a.1.applyDelta a.2 c v d, a.2 + 1)) (s.par, fld p 8 4)).1
    let s := { s with par := par.knows m.src (fld p 14 2) }
    if m.flags.getLsbD 0 then s.sendPar m.src.toNat true (parPrefix 2 s.par.share idx c v 0 0 (fld p 14 2)) [] else s

/-- KIND 0x02 at a member (R313, R317): an acknowledgement of the mirror while the boundary waits for it, or of the run whose tensor,
counter and void count it names. -/
def State.takeParAck (s : State) (m : XMsg) : State :=
  let idx : BitVec 12 := BitVec.ofNat 12 (fld m.payload 2 2)
  let c : BitVec 16 := BitVec.ofNat 16 (fld m.payload 4 2)
  if fld m.payload 6 2 ≠ s.tmb.voids.toNat then s
  else if s.par.mirrorWait then
    let acks := m.src :: s.par.mirrorAcks
    let all := s.par.holderChips.all fun h => acks.contains (BitVec.ofNat 16 h)
    if all then
      { s with par := { s.par with mirrorAcks := [], mirrorWait := false }, step := { s.step with stop := false } }
    else { s with par := { s.par with mirrorAcks := acks } }
  else
    let current := match s.gen? idx with | some g => g.otherCtr == c | none => false
    let mark (r : Run) : Run :=
      if current && r.code.isNone && dKind r.desc == kPARITY && epGenIdx (srcWord r.desc) == idx then { r with acks := m.src :: r.acks } else r
    { s with quads := s.quads.map fun x => { x with runs := x.runs.map mark } }

/-! ### Directory mirrors (R317) -/

/-- Mirror entries: those that survive a boundary, LOC zeroed. -/
def State.mirrorWords (s : State) : List (BitVec 128) :=
  (s.stash.entries.filter fun x => !x.retired).map fun x => SEntry.word { x with loc := 0 }

/-- Sends the directory mirror to every holder; the boundary is held until they have acknowledged it. LINE of a part is the number of its first
entry (DESIGN CHOICE, log entry 108). -/
def State.sendMirror (s : State) : State :=
  if !s.par.member then s
  else
    let parts := cutList 509 (s.stash.entries.length + 1) s.mirrorWords
    let parts := if parts.isEmpty then [[]] else parts
    let one (s : State) (h share : Nat) : State :=
      parts.zipIdx.foldl (fun s x =>
        s.sendPar h (x.2 + 1 == parts.length) (parPrefix 3 share 0 0 s.tmb.voids (509 * x.2) x.1.length s.par.index)
          (x.1.flatMap fun w => bytesOf 16 w.toNat)) s
    let s := one s (bf s.par.holders 0 16) 0
    let s := if s.par.two then one s (bf s.par.holders 16 16) 1 else s
    { s with par := { s.par with mirrorWait := true, mirrorAcks := [] }, step := { s.step with stop := true } }

/-- A mirror that its holders have not all acknowledged when the step begins again goes out anew, under the present VOIDS (R317). -/
def State.mirrorAgain (s : State) : State :=
  if !s.par.mirrorWait then s
  else if !s.par.member then { s with par := { s.par with mirrorWait := false } }
  else s.sendMirror

/-- The entries of a mirror from entry n on, once every part of it is there (R317). -/
def wholeMirror (ps : List MirrorPart) : Nat → Nat → Option (List (BitVec 128))
  | _, 0 => none
  | n, fuel + 1 =>
    match ps.find? (·.first = n) with
    | none => none
    | some p => if p.last then some p.words else (wholeMirror ps (n + p.words.length) fuel).map (p.words ++ ·)

/-- A member's mirrors in order: by the pair of the step and its void count. -/
def MirrorPart.before (a b : MirrorPart) : Bool :=
  decide (a.step.toNat < b.step.toNat) || (a.step == b.step && decide (a.voids.toNat < b.voids.toNat))

/-- KIND 0x03 at a holder (R317): parts may come in any order (R65). A part of a newer mirror discards those of an older one; the newest
complete mirror of each member is kept and acknowledged. -/
def State.takeMirror (s : State) (m : XMsg) : State :=
  let p := m.payload
  let i := fld p 14 2
  let x : MirrorPart :=
    { member := i, step := m.step, voids := BitVec.ofNat 16 (fld p 6 2), first := fld p 8 4, last := m.flags.getLsbD 0
      words := (List.range (min 509 (fld p 12 2))).map fun k => BitVec.ofNat 128 (fld p (16 + 16 * k) 16) }
  if !s.par.holder || s.par.mirrorIn.any (fun y => y.member == i && x.before y) || s.par.mirrorAt.any (fun y => y.member == i && x.before y) then s
  else
    let ps := x :: s.par.mirrorIn.filter fun y => y.member == i && !y.before x && y.first != x.first
    let rest := s.par.mirrorIn.filter fun y => y.member != i
    match wholeMirror ps 0 (ps.length + 1) with
    | none => { s with par := { s.par.knows m.src i with mirrorIn := rest ++ ps } }
    | some ws =>
      let par := { s.par.knows m.src i with
        mirrors := (s.par.mirrors.filter fun y => y.1 != i) ++ ws.map fun w => (i, w)
        mirrorIn := rest
        mirrorAt := { x with words := [] } :: s.par.mirrorAt.filter fun y => y.member != i }
      ({ s with par := par } : State).sendPar m.src.toNat true (parPrefix 2 s.par.share 0 0 x.voids 0 0 i) []

/-! ### Resync and rebuild (R316, R319-R323) -/

/-- Source number by which Q of holder 1 travels, and the targets of rebuilt shares (log entry 30). -/
def shareNo (h : Nat) : Nat := 0x8000 + h

/-- Members lost for a line: those of the rebuild, and survivors whose line has failed twice (R320). -/
def Rebuild.lostAt (r : Rebuild) (j : Nat) : List Nat := r.lost ++ (r.bad.filter fun x => x.2 == j).map (·.1)

/-- Sources for lost members: the surviving members, and Q where the losses need it. -/
def State.sourcesFor (s : State) (r : Rebuild) (lost : List Nat) : List Nat :=
  let ms := (List.range s.par.members).filter fun i => !lost.contains i
  let q := decide (2 ≤ lost.length) || (decide (lost.length = 1) && r.holders.getLsbD 0)
  ms ++ (if q then [shareNo 1] else [])

/-- Sources a combiner pulls blocks from. -/
def State.sources (s : State) (r : Rebuild) : List Nat := s.sourcesFor r r.lost

/-- The losses of a line exceed the shares (R319, R323); a resync has no share to decode with. -/
def Rebuild.exceeds (r : Rebuild) (j : Nat) : Bool :=
  if r.role = 0 then !(r.lostAt j).isEmpty
  else decide ((if r.two then 2 else 1) < (r.lostAt j).length + (if r.holders.getLsbD 0 then 1 else 0) + (if r.holders.getLsbD 1 then 1 else 0))

/-- Looks up a counter of a source. -/
def countOf (l : List (Nat × Nat)) (i : Nat) : Nat := ((l.find? (·.1 = i)).map (·.2)).getD 0
def setCount (l : List (Nat × Nat)) (i n : Nat) : List (Nat × Nat) := (i, n) :: l.filter (·.1 ≠ i)

/-- Lines in block k of an image. -/
def State.blockLines (s : State) (k : Nat) : Nat := min 4096 (s.imageLen - 4096 * k)

/-- Pulls blocks of 4,096 lines from a source while at most 8 are outstanding (R320). -/
def State.pull (src : Nat) : Nat → State → Rebuild → State × Rebuild
  | 0, s, r => (s, r)
  | fuel + 1, s, r =>
    let k := countOf r.asked src
    if s.blockLines k = 0 || decide (8 ≤ k - countOf r.got src / 4096) then (s, r)
    else State.pull src fuel (s.sendRebuild 0xFFFF s.par.heldGroup 3 r.slot src (4096 * k) (s.blockLines k) []) { r with asked := setCount r.asked src (k + 1) }

def State.pullAll (s : State) (r : Rebuild) : State × Rebuild := (s.sources r).foldl (fun a i => State.pull i 8 a.1 a.2) (s, r)

/-- A row collected from a source. -/
def Par.row? (p : Par) (i j : Nat) : Option Row := (p.collected.find? fun x => x.1 == i && x.2.1 == j).map (·.2.2)

/-- XOR of the members' rows that are known, each times g^(e·i). -/
def foldRows (q : Bool) (l : List (Nat × Row)) : Row := l.foldl (fun a x => a ^^^ (if q then rowMul (gfPow x.1) x.2 else x.2)) 0

/-- Solves one line (R319): the lost members' rows from P and Q, none where a row is missing. -/
def solveLost (lost : List Nat) (known : List (Nat × Row)) (p q : Option Row) : List (Nat × Row) :=
  match lost with
  | [x] =>
    match p, q with
    | some p, _ => [(x, p ^^^ foldRows false known)]
    | none, some q => [(x, rowMul (gfInv (gfPow x)) (q ^^^ foldRows true known))]
    | _, _ => []
  | [x, y] =>
    match p, q with
    | some p, some q =>
      let p' := p ^^^ foldRows false known
      let q' := q ^^^ foldRows true known
      let dx := rowMul (gfInv (gfPow x ^^^ gfPow y)) (q' ^^^ rowMul (gfPow y) p')
      [(x, dx), (y, p' ^^^ dx)]
    | _, _ => []
  | _ => []

/-- Tag counter of a rebuilt line: the counter of its tensor's slot of that parity. -/
def State.lineCtr (s : State) (j : Nat) (odd : Bool) : BitVec 16 :=
  match s.lineGen j with
  | some g => (match g.slotOf odd with | some b => if b then g.genB else g.genA | none => 0)
  | none => 0

/-- Works a line whose sources are all there: lost members get their lines, lost or resynchronised shares are formed anew. -/
def State.solveLine (s : State) (r : Rebuild) (j : Nat) : State :=
  let lost := r.lostAt j
  let ms := (List.range s.par.members).filter fun i => !lost.contains i
  let known := ms.filterMap fun i => (s.par.row? i j).map fun d => (i, d)
  let own : Option Row := if r.holders.getLsbD s.par.share then none else (s.par.line? r.slot j).map (·.data)
  let p : Option Row := if s.par.share = 0 && !r.holders.getLsbD 0 then some (own.getD 0) else none
  let q : Option Row := s.par.row? (shareNo 1) j
  let got := solveLost lost known p q
  let full := known ++ got
  let s := got.foldl (fun s x => s.sendRebuild 0xFFFF s.par.heldGroup 1 r.slot x.1 j 1 (rowBytes x.2 256)) s
  let share (h : Nat) : Row := foldRows (h == 1) full
  let s := if r.holders.getLsbD s.par.share then
      { s with par := s.par.putLine ⟨r.slot, j, share s.par.share, s.lineCtr j r.slot, 0⟩ } else s
  if r.holders.getLsbD (1 - s.par.share) && r.role ≠ 0 then
    s.sendRebuild 0xFFFF s.par.heldGroup 1 r.slot (shareNo (1 - s.par.share)) j 1 (rowBytes (share (1 - s.par.share)) 256)
  else s

/-- The mirrors of the lost members, after their lines (R320). -/
def State.sendMirrors (s : State) (r : Rebuild) : State :=
  r.lost.foldl (fun s x =>
    let ws := (s.par.mirrors.filter fun y => y.1 == x).map (·.2)
    (cutList 509 (ws.length + 1) ws).foldl (fun s part =>
      s.sendRebuild 0xFFFF s.par.heldGroup 2 r.slot x 0 part.length (part.flatMap fun w => bytesOf 16 w.toNat)) s) s

/-- PAR_STS.REBUILDING: a rebuild or resync runs on this chip, as a holder or as a member (R318, R323). -/
def State.setRebuild (s : State) (h m : Option Rebuild) : State :=
  { s with par := { s.par with rebuild := h, memReb := m, rebuilding := h.isSome || m.isSome } }

/-- A rebuild whose replacement is lost stops, that of another group goes on (R323); a resync has none. A chip that has sent as a member of the
held group is in that one; any other is in the chip's own group, or in the held one where this chip is in no other (log entry 93). -/
def State.replacementFails (s : State) (chip : BitVec 16) : State :=
  let known := (s.par.chips.find? (·.1 = chip)).map (·.2)
  let held (r : Rebuild) : Bool := r.role != 0 && (match known with | some i => r.lost.contains i | none => !s.par.member)
  let own (r : Rebuild) : Bool := r.role != 0 && known.isNone
  let s' := if s.par.rebuild.any held then { s with par := { s.par with collected := [] } } else s
  s'.setRebuild (s.par.rebuild.filter fun r => !held r) (s.par.memReb.filter fun r => !own r)

/-- A resync that has ended clears STALE (R316): on a member when its holders have said so. -/
def State.covered (s : State) (r : Rebuild) : State :=
  if r.role = 0 then { s with par := { s.par with stale := false } } else s

/-- Ends a slot, or the whole once both are worked. -/
def State.nextSlot (s : State) (r : Rebuild) : State :=
  if r.solved < s.imageLen then s.setRebuild (some r) s.par.memReb
  else if !r.slot && decide (s.imageLen ≠ 0) then
    let s := { s with par := { s.par with collected := [] } }
    let x := s.pullAll { r with slot := true, asked := [], got := [], solved := 0, bad := [] }
    x.1.setRebuild (some x.2) x.1.par.memReb
  else
    let s := (s.sendMirrors r).sendRebuild 0xFFFF s.par.heldGroup 4 true 0 0 0 []
    let s := ({ s with par := { s.par with collected := [] } } : State).setRebuild none s.par.memReb
    if s.par.member then s else s.covered r

/-- Works the lines among these whose sources are all there, and goes on (R320). -/
def State.solveReady (s : State) (r : Rebuild) (js : List Nat) : State :=
  let ready := js.filter fun j => (s.sourcesFor r (r.lostAt j)).all fun i => (s.par.row? i j).isSome
  let s := ready.foldl (fun s j => s.solveLine r j) s
  let s := { s with par := { s.par with collected := s.par.collected.filter fun x => !ready.contains x.2.1 } }
  let x := s.pullAll { r with solved := r.solved + ready.length }
  x.1.nextSlot x.2

/-- Lines of a source reach a combiner (R320). -/
def State.combine (s : State) (r : Rebuild) (src line : Nat) (rows : List Row) : State :=
  let js := List.range' line rows.length
  let new := (js.zip rows).map fun x => (src, x.1, x.2)
  let s := { s with par := { s.par with collected := s.par.collected ++ new } }
  s.solveReady { r with got := setCount r.got src (countOf r.got src + rows.length) } js

/-- A survivor's line has failed twice: the member counts as lost for it (R320). With more losses than shares the rebuild stops (R323);
else Q is pulled for the line if it was not needed before. -/
def State.badLine (s : State) (r : Rebuild) (src j : Nat) : State :=
  let r' := { r with bad := (src, j) :: r.bad, got := setCount r.got src (countOf r.got src + 1) }
  if (r.lostAt j).contains src then s
  else if r'.exceeds j then ({ s with par := { s.par with collected := [] } } : State).setRebuild none s.par.memReb
  else
    let s := if (s.sources r).contains (shareNo 1) || !(s.sourcesFor r' (r'.lostAt j)).contains (shareNo 1) then s
      else s.sendRebuild 0xFFFF s.par.heldGroup 3 r.slot (shareNo 1) j 1 []
    s.solveReady r' [j]

/-- Is this chip the one that combines: holder 0 in a rebuild, every holder in a resync? -/
def Rebuild.combines (r : Rebuild) (p : Par) : Bool :=
  p.holder && (r.role == 0 || r.role == 1 || (r.role == 4 && p.share == 0))

/-- A message from a holder of the group that this chip is a member of (R318). -/
def State.fromHolder (s : State) (m : XMsg) : Bool :=
  s.par.member && m.stream.toNat == s.par.group && s.par.holderChips.contains m.src.toNat

/-- A line of the image as a survivor reads it: it is read once more when it cannot be corrected (R320); `n` reads fail. -/
def State.readImage (s : State) (j : Nat) (odd : Bool) (n : Nat) : State :=
  match s.lineVa j odd with
  | none => s
  | some va => match s.xlate 0 va false with
    | .pa a => (List.range (min 2 n)).foldl (fun s _ => s.cacheEcc (a / 256) 15 .uncorr) s
    | _ => s

/-- A pull request reaches a survivor, or holder 1 for its share (R320): it sends the lines it holds. A line that fails twice is answered
by a message of no lines (DESIGN CHOICE, log entry 82). -/
def State.answerPull (s : State) (m : XMsg) (fails : List (Nat × Nat)) : State :=
  let p := m.payload
  let odd := fld p 1 1 = 1
  let i := fld p 2 2
  let mine := s.fromHolder m && i == s.par.index
  let share := s.par.holder && m.stream.toNat == s.par.heldGroup && s.par.share == 1 && i == shareNo 1
  let group := if mine then s.par.group else s.par.heldGroup
  let body (j : Nat) : List Byte := rowBytes (if mine then s.imageLine j odd else match s.par.line? odd j with | some x => x.data | none => 0) 256
  let n (j : Nat) : Nat := if mine then countOf fails j else 0
  if !(mine || share) then s
  else
    (cutList 31 133 (List.range' (fld p 4 4) (min 4096 (fld p 8 2)))).foldl (fun s part =>
      if part.all fun j => n j == 0 then s.sendRebuild m.src.toNat group 1 odd i (part.headD 0) part.length (part.flatMap body)
      else part.foldl (fun s j =>
        let s := s.readImage j odd (n j)
        if n j < 2 then s.sendRebuild m.src.toNat group 1 odd i j 1 (body j) else s.sendRebuild m.src.toNat group 1 odd i j 0 []) s) s

/-- Rebuilt lines reach the member they are for (R321). -/
def State.takeLines (s : State) (m : XMsg) (rows : List Row) : State :=
  let p := m.payload
  let odd := fld p 1 1 = 1
  ((List.range' (fld p 4 4) rows.length).zip rows).foldl (fun s x =>
    match s.lineVa x.1 odd with
    | some va => (s.vwrites 0 ((List.range 256).map fun (k : Nat) => (vaOf va k, rowByte x.2 k)) (engineIni 0 15)).noteDefaults 0 (vasOf va 256) true
    | none => s) s

/-- Lines of a share reach the new holder they are for. -/
def State.takeShare (s : State) (m : XMsg) (rows : List Row) : State :=
  let p := m.payload
  let odd := fld p 1 1 = 1
  { s with par := ((List.range' (fld p 4 4) rows.length).zip rows).foldl (fun p x => p.putLine ⟨odd, x.1, x.2, s.lineCtr x.1 odd, 0⟩) s.par }

/-- Installs a mirror entry with a valid recompute-map word as a mark (R321); the replayed step counts it in NDET when it begins. -/
def State.installMark (s : State) (w : BitVec 128) : State :=
  let layer : BitVec 12 := w.extractLsb' 16 12
  if (s.job.recompute.any fun x => x.1 = layer.toNat) && decide (s.stash.entries.length < 65536) then
    let idx := nthFree (s.stash.entries.map (·.idx)) (Config.dirPick s.free % (dirSize - s.stash.entries.length))
    let e : SEntry :=
      { idx := idx, uid := s.stash.uid, cell := w.extractLsb' 64 6, slot := w.extractLsb' 0 9, layer := layer, part := w.extractLsb' 28 4,
        spilled := false, mark := true, gen := if w.getLsbD 12 then some (w.extractLsb' 32 12, w.extractLsb' 48 16) else none,
        retired := false, isNew := false, cfg := ⟨false, 0, 0, 0⟩, vrows := 0, loc := 0, rows := [], placed := true, put := true, getting := false }
    { s with free := s.free + 1, step := { s.step with marks := s.step.marks + 1 },
             stash := { entries := s.stash.entries ++ [e], peak := max s.stash.peak (s.stash.entries.length + 1), uid := s.stash.uid + 1 } }
  else s

/-- A rebuild-stream message at a member, from a holder of its group (R320, R321). A resync ends with the last of its holders. -/
def State.memberMsg (s : State) (r : Rebuild) (m : XMsg) (rows : List Row) : State :=
  let p := m.payload
  let mine := fld p 2 2 == s.par.index
  match fld p 0 1 with
  | 1 => if mine && (r.role == 2 || r.role == 3) then s.takeLines m rows else s
  | 2 =>
    if mine && r.role == 3 then
      (List.range (min 509 (fld p 8 2))).foldl (fun s k => s.installMark (BitVec.ofNat 128 (fld p (16 + 16 * k) 16))) s
    else s
  | 4 =>
    if r.role = 0 && s.par.two && r.solved == 0 then s.setRebuild s.par.rebuild (some { r with solved := 1 })
    else (s.setRebuild s.par.rebuild none).covered r
  | _ => s

/-- A rebuild-stream message at a holder (R320). -/
def State.holderMsg (s : State) (r : Rebuild) (m : XMsg) (rows : List Row) : State :=
  let p := m.payload
  let i := fld p 2 2
  match fld p 0 1 with
  | 1 =>
    if r.combines s.par then
      if r.slot != decide (fld p 1 1 = 1) || !((List.range s.par.members).contains i || i == shareNo 1) then s
      else if rows.isEmpty then s.badLine r i (fld p 4 4)
      else s.combine r i (fld p 4 4) rows
    else if r.role = 4 && i == shareNo s.par.share then s.takeShare m rows
    else s
  | 4 => if r.combines s.par then s else s.setRebuild none s.par.memReb
  | _ => s

/-- A rebuild-stream message (R320): one from a holder of this chip's own group concerns it as a member, one of the group of which it holds a
share as a holder, and those of other groups pass by, so that the rebuilds of two groups run side by side (R323; log entry 30). -/
def State.takeRebuildMsg (s : State) (m : XMsg) (fails : List (Nat × Nat)) : State :=
  let rows := rowsOf m.payload 16 (min 31 (fld m.payload 8 2))
  if fld m.payload 0 1 = 3 then s.answerPull m fails
  else match s.fromHolder m, s.par.memReb, m.stream.toNat == s.par.heldGroup, s.par.rebuild with
    | true, some r, _, _ => s.memberMsg r m rows
    | _, _, true, some r => s.holderMsg r m rows
    | _, _, _, _ => s

/-- A rebuild or resync as it starts; a holder in a resync forms its own share (R316). -/
def State.newRebuild (s : State) (role : Byte) (lost : List Nat) (holders : BitVec 2) (two : Bool) : Rebuild :=
  { role := role, lost := lost, holders := if role = 0 then 1 <<< s.par.share else holders, slot := false, asked := [], got := [], solved := 0,
    two := two, bad := [] }

/-- Starts a resync or rebuild in its role (R320): a combiner pulls at once. A rebuild of the same side that was running is replaced. -/
def State.startRebuild (s : State) (role : Byte) (lost : List Nat) (holders : BitVec 2) (two : Bool) : State :=
  let r := s.newRebuild role lost holders two
  let s := if s.par.member && (role == 0 || role == 2 || role == 3) then s.setRebuild s.par.rebuild (some r) else s
  if s.par.holder && (role == 0 || role == 1 || role == 4) then
    let s := ({ s with par := { s.par with collected := [] } } : State).setRebuild (some r) s.par.memReb
    if r.combines s.par then let x := s.pullAll r; x.1.nextSlot x.2 else s
  else s

/-- A parity-delta message by its KIND (R315). -/
def State.takeParity (s : State) (m : XMsg) : State :=
  match fld m.payload 0 1 with
  | 1 => s.takeDelta m
  | 2 => s.takeParAck m
  | 3 => s.takeMirror m
  | _ => s

end Sys2Proof.Machine
end

