-- ==== Sys2Proof/Machine/Steps.lean ====
section
/-! DEFINITION. The life of steps (R257-R260, R280-R292, R294-R299, R383-R388): step records, launch, due ticks, decided and
taken boundaries, replay, recovery hold, lock-step comparison, checkpoints (R324-R326), and the deferred values of the job
configuration (R262, R267, R358). -/

namespace Sys2Proof.Machine

/-! ### Step digest (R287-R289, R292) -/

/-- Streams in ascending id. -/
def insertStream (x : Stream) : List Stream → List Stream
  | [] => [x]
  | y :: l => if x.id.toNat ≤ y.id.toNat then x :: y :: l else y :: insertStream x l

def Dig.sorted (d : Dig) : List Stream := d.streams.foldr insertStream []

/-- The step digest (R288). -/
def Dig.stepDigest (d : Dig) : BitVec 64 :=
  d.sorted.foldl (fun c x => crc64 c (b16 x.id.toNat ++ bytesOf 8 x.crc.toNat)) 0

/-- A digest entry as its 16 bytes (R289). -/
def DEntry.bytes (x : DEntry) : List Byte := b16 x.stream.toNat ++ b8 x.inst.toNat ++ [0] ++ b32 x.granule.toNat ++ bytesOf 8 x.crc.toNat

/-- Sends entries of one step; the first 4 bytes of the payload carry DCLASS and DETMODE (R291). -/
def State.sendDigest (s : State) (step : BitVec 48) (es : List DEntry) : State :=
  s.sendOf step 0x06 0 s.dig.peer 0 0 (padTo32 (b16 s.dclass.toNat ++ b8 s.glob.detmode.toNat ++ [0] ++ es.flatMap DEntry.bytes))

/-- The streams start again at zero at a step boundary (R287). -/
def State.restartStreams (s : State) : State := { s with dig := { s.dig with streams := [] } }

/-- The end of a step: part-filled granules are recorded, and one entry of stream 0xFFFF, which carries the step digest, is sent at once
(R289). The streams then start again at zero (R287), and compared entries are kept for one step (R292). -/
def State.endDigest (s : State) : State :=
  if !s.dig.en then s.restartStreams
  else
    let g := s.dig.grainUnits
    let d := s.dig.stepDigest
    let ent (id : BitVec 16) (n : Nat) (c : BitVec 64) : DEntry := ⟨s.step.count, id, s.pins.instanceId, BitVec.ofNat 32 n, c, s.clk.gtc⟩
    let s := (s.dig.sorted.filter fun x => x.units % g ≠ 0).foldl (fun s x => s.ownEntry (ent x.id (x.units / g) x.crc)) s
    let last := ent 0xFFFF 0 d
    let queue := s.dig.toSend
    let s := s.ownEntry last
    ({ s with dig := { s.dig with streams := [], last := d, toSend := queue, done := s.dig.done.take digestCap } } : State).sendDigest
      s.step.count [last]

/-- Entries of a message: a last one of zeros is padding (R65; log entry 84). -/
def digestEntries (m : XMsg) (now : Tick) : List DEntry :=
  let l := (List.range ((m.payload.length - 4) / 16)).map fun k =>
    let o := 4 + 16 * k
    (⟨m.step, BitVec.ofNat 16 (fld m.payload o 2), BitVec.ofNat 3 (fld m.payload (o + 2) 1), BitVec.ofNat 32 (fld m.payload (o + 4) 4),
      BitVec.ofNat 64 (fld m.payload (o + 8) 8), now⟩ : DEntry)
  if fld m.payload (4 + 16 * (l.length - 1)) 16 = 0 then l.dropLast else l

/-- DIGEST_PERIOD in ticks. -/
def Dig.periodTicks (d : Dig) : Nat := 2 ^ d.period.toNat

/-- A digest exchange (R289): the entries recorded since the last one go to the peer at a multiple of the period, or at the first tick
beyond one that GTC has skipped (R378). -/
def State.digestExchange (s : State) (now : Tick) : State :=
  let s := s.atTick now
  let p := s.dig.periodTicks
  if !s.dig.en || s.asleep || s.clk.gtc.toNat / p = s.dig.exch.toNat / p then s
  else
    let steps := (s.dig.toSend.map (·.step)).eraseDups
    let s := steps.foldl (fun s st =>
      (cutList 509 (s.dig.toSend.length + 1) (s.dig.toSend.filter (·.step = st))).foldl (fun s es => s.sendDigest st es) s) s
    { s with dig := { s.dig with toSend := [], exch := s.clk.gtc } }

/-! ### Step records (R281, R284) -/

/-- Opens the record of the step that STEP_COUNT names; GTC_BEGIN is zero until a launch begins it (R284). ALL_CANON is taken as the record
opens or its step launches, before the identity samples of that launch act: R281 names no moment, and a change within the step or its
replays does not show (DESIGN CHOICE, log entry 111). -/
def State.openRec (s : State) (opened : Tick) : State :=
  let r : StepRec :=
    { step := s.step.count, dclass := s.dclass, cursor := s.glob.cursor, opened := opened, closed := 0, ndet := 0, voids := 0,
      det := s.glob.detmode, canon := s.allCanon, loss := s.dig.ahead.contains (s.step.count, .loss),
      diverged := s.dig.ahead.contains (s.step.count, .diverged),
      peer := s.dig.ahead.contains (s.step.count, .peer), vshard := s.glob.vshard, digest := 0 }
  { s with
    step := { s.step with records := (r :: s.step.records).take 256 }
    dig := { s.dig with ahead := s.dig.ahead.filter fun x => decide (s.step.count.toNat < x.1.toNat) } }

/-- A step record as its 64 bytes. -/
def StepRec.bytes (r : StepRec) : List Byte :=
  bytesOf 6 r.step.toNat ++ b16 r.dclass.toNat ++ bytesOf 8 r.cursor.toNat ++ bytesOf 8 r.opened.toNat ++ bytesOf 8 r.closed.toNat
    ++ b32 (satTo 0xFFFFFFFF r.ndet) ++ b16 r.voids.toNat
    ++ b8 (bitAt r.det 0 + bitAt r.canon 1 + bitAt r.loss 2 + bitAt r.diverged 3 + bitAt r.peer 4) ++ [0]
    ++ b32 r.vshard.toNat ++ b32 0 ++ bytesOf 8 r.digest.toNat ++ bytesOf 8 0

/-! ### Deferred values (R12, R262, R267, R358) -/

/-- A job configuration takes effect: registers, spill base, periods; the first heartbeat is due now (R68, R243, R358). Loss detection of every
peer is disarmed until its next message or the launch, also of one that stays on the list (DESIGN CHOICE, log entry 96). -/
def State.applyJob (s : State) (c : JobCfg) : State :=
  { s with
    glob := { s.glob with seed := c.seed, vshard := c.vshard, fmtPolicy := c.fmtPolicy, stashCfg := c.stashCfg, genCfg := c.genCfg,
                          tmbCfg := c.tmbCfg, spillSize := c.spillSize,
                          spillBase := BitVec.ofNat 52 (s.pins.instanceId.toNat * 2 ^ 48 + c.spillLocal.toNat) }
    job := { s.job with present := true, ptRoot := c.ptRoot, mergeLocal := c.mergeLocal, mergeSize := c.mergeSize, recompute := c.recompute,
                        hbList := c.hbList, hbPeriod := c.hbPeriod, hbTimeout := c.hbTimeout, hbNext := s.clk.gtc, hbOn := true,
                        mspTimeout := c.mspTimeout, fence := c.fence, launched := false, defJob := none }
    quads := s.quads.map fun q => { q with period := c.netPeriod, tlb := [], walks := [] }
    net := { s.net with peers := [] } }

/-- DETMODE is written; a new setting lets JACKFAIL name a skipped Jack again (R262, R278). What DET_ALLOWED has become since the request
was accepted is not asked again: R42 and R262 test it at the request (DESIGN CHOICE, log entry 84). -/
def State.applyDet (s : State) (b : Bool) : State := { s with glob := { s.glob with detmode := b, skipped := if b then [] else s.glob.skipped } }

/-- Every value that waits for the next step boundary takes effect (R262, R282, R358, R363). STEP_US is kept apart: it anchors
the grid anew (R384). A deferred DETMODE takes effect even where a hold has seen a later DET_SET at once (DESIGN CHOICE, log entry 84). -/
def State.applyDeferred (s : State) : State :=
  let s := match s.job.defJob with | some c => s.applyJob c | none => s
  let s := match s.job.defDet with | some b => s.applyDet b | none => s
  let s := match s.job.defCursor with | some c => { s with glob := { s.glob with cursor := c } } | none => s
  let s := s.job.defBunt.foldl (fun s x => { s with glob := { s.glob with bunt := s.glob.bunt.setIfInBounds x.1 x.2 } }) s
  { s with job := { s.job with defJob := none, defDet := none, defCursor := none, defBunt := [] } }

/-- P of R384 in ticks. -/
def State.periodTicks (s : State) : Nat := max 100 s.clk.stepUs.toNat * 1000

/-! ### What every boundary does to the units (R191, R205, R215, R249, R256-R259, R316) -/

/-- A READY tensor flips (R257, R258). -/
def Gen.flip (g : Gen) : Gen := if g.st = .ready then { g with live := !g.live, st := .steady, parts := 0 } else g

/-- Pennants of a flip: GENPARTIAL for parts not written, PARSTALE for a protected tensor without its delta run (R259, R316). -/
def State.flipReport (s : State) (g : Gen) : State :=
  let src := s.pins.instanceId.setWidth 16
  let s := if g.parts ≠ 0xF then s.report lvlInstance src clsGenpartial .info (detG g.idx 0xFFFF g.otherCtr) else s
  if g.prot && s.par.mcfg.getLsbD 31 && !s.par.okIdx.contains g.idx then s.parStale g.idx 0xFFFF g.otherCtr else s

/-- Every READY tensor flips as STEP_COUNT advances (R258). -/
def State.flipAll (s : State) : State :=
  let ready := s.gens.filter fun g => g.st == .ready
  let s := ready.foldl State.flipReport s
  { s with gens := s.gens.map Gen.flip, step := { s.step with flipped := ready.length }, par := { s.par with okIdx := [] } }

/-- The stash at a boundary (R249). -/
def Stash.boundary (x : Stash) : Stash :=
  let es := (x.entries.filter fun e => !e.retired).map fun e => { e with isNew := false }
  { x with entries := es, peak := es.length }

/-- A boundary that is taken brings every tensor in GENWAIT back to STEADY (R257). -/
def State.steadyWaits (s : State) : State :=
  { s with gens := s.gens.map fun (g : Gen) => if g.st = GState.genwait then { g with st := .steady } else g }

/-- Kicks that wait in GENWAIT ask again: references held by retired entries have ended (R255, R257). -/
def State.releaseWaits (s : State) : State :=
  let s := s.steadyWaits
  (s.rt.kicks.filter fun (k : Kick) => k.genwait.isSome).foldl (fun (s : State) k =>
    let x : State × Kick := s.askNext k
    { x.1 with rt := { x.1.rt with kicks := x.1.rt.kicks.map fun (y : Kick) => if y.seq = k.seq then x.2 else y } }) s

/-- Firmware maps a spare row for every word of a stash slice or table that gave an uncorrectable error (R306). `mapped` counts them without a
limit: what follows once the 8 spare rows of such a bank (R31) are used up is not said, and the model goes on mapping (DESIGN CHOICE, log
entry 94). -/
def State.mapTables (s : State) : State :=
  let s' := s.sram.todo.foldl (fun s x => s.report x.1 x.2.1 clsRepair .corrected (s.detM x.2.2.1 x.2.2.2)) s
  { s' with sram := { s'.sram with todo := [], mapped := s'.sram.mapped + s.sram.todo.length } }

/-- Effects of a step boundary on stash, generations, routes, counters and merge buffer, a launch boundary included. -/
def State.unitsBoundary (s : State) : State :=
  let s := s.flipAll.mapTables
  { s with
    stash := s.stash.boundary
    quads := s.quads.map fun q => { q with runs := q.runs.filter fun r => r.code.isNone, idxskip := 0, maxwait := 0, decerr := none }
    rt := { s.rt with overlap := [], accum := [] }
    cba := { s.cba with peak := s.cba.total }
    step := { s.step with ndet := 0 } }

/-! ### Checkpoints (R324-R326) -/

/-- Bytes written through the ATU, those of a checkpoint at QoS 4 (R166, R324). -/
def State.vwriteAll (s : State) (q : QuadNo) (va : Nat) (bs : List Byte) (ini : Initiator := engineIni 0 4) : State :=
  s.vwrites q (((List.range bs.length).map fun (i : Nat) => vaOf va i).zip bs) ini

/-- A fault or an answer of the default target on the way of these bytes (R325). -/
def State.writeFails (s : State) (q : QuadNo) (va n : Nat) : Bool :=
  (List.range n).any fun (i : Nat) => match s.xlate q (vaOf va i) true with | .pa a => s.isDefault a | _ => true

/-- Bytes written at QoS 4 of which the default target drops and reports those that decode to it (R175). -/
def State.vwriteNoted (s : State) (q : QuadNo) (va : Nat) (bs : List Byte) : State :=
  (s.vwriteAll q va bs).noteDefaults q (vasOf va bs.length) true

/-- Addresses in every page that a run of bytes touches: one in 4,096, and the last. -/
def pageVas (va n : Nat) : List Nat := (List.range (ceilDiv n 4096 + 1)).map fun (i : Nat) => vaOf va (min (4096 * i) (n - 1) : Nat)

/-- A drain fails: CKPT_STS.FAIL and its Pennant (R325). -/
def State.ckptFail (s : State) (g : Gen) : State :=
  ({ s with ckpt := { s.ckpt with fail := true } } : State).report lvlInstance (s.pins.instanceId.setWidth 16) clsCkptfail .info
    (detG g.idx 0xFFFF g.liveCtr)

/-- Generation entries of the table at 64 bytes each (R325). -/
def State.writeTable (s : State) (b : Nat) (l : List Nat) : State :=
  l.foldl (fun s i =>
    let w : BitVec 512 := ((s.ckpt.table.find? fun x => x.1.toNat = i).map (·.2)).getD 0
    s.vwriteNoted 0 (b + 4096 + 64 * i) (bytesOf 64 w.toNat)) s

/-- The bytes of the header and the table of generation entries; the step number is written last (R325). A table write that faults or that the
default target answers is lost, and fails nothing (DESIGN CHOICE, log entry 102). -/
def State.writeCkpt (s : State) (head : List Byte) (step : BitVec 48) : State :=
  let b := s.ckpt.base.toNat
  ((s.vwriteAll 0 b head).writeTable b (List.range 4096)).vwriteAll 0 (b + 120) (bytesOf 6 step.toNat ++ [0, 0])

/-- The header of the step that the opened record names (R325): the record, SEED, VSHARD_CFG, FMT_POLICY. -/
def State.ckptHead (s : State) : List Byte :=
  (match s.ckpt.rec0 with | some r => r.bytes | none => List.replicate 64 0)
    ++ bytesOf 8 s.glob.seed.toNat ++ b32 s.glob.vshard.toNat ++ b32 s.glob.fmtPolicy.toNat ++ List.replicate 48 0

/-- The header and the table are written, COMPLETE last (R325). A fault or an answer of the default target within the header's first 128 bytes
sets FAIL, and no CKPTFAIL Pennant (DESIGN CHOICE, log entry 102). -/
def State.ckptFinish (s : State) : State :=
  if s.ckpt.fail || s.writeFails 0 s.ckpt.base.toNat 128 then
    let s := s.noteDefaults 0 (if s.ckpt.fail then [] else vasOf s.ckpt.base.toNat 128) true
    { s with ckpt := { s.ckpt with draining := false, fail := true } }
  else
    let s := s.writeCkpt s.ckptHead (match s.ckpt.rec0 with | some r => r.step | none => s.step.count)
    { s with ckpt := { s.ckpt with draining := false, done := true } }

/-- Bytes of the header and the table of 4,096 entries (R325). -/
def ckptLength : Nat := 266240

/-- The end of a drain (R325), once the walks of what is written are at hand. -/
def State.ckptHeader (s : State) : State :=
  let w := s.walked 0 (pageVas s.ckpt.base.toNat ckptLength) (engineIni 0 4)
  if w.2 then w.1.ckptFinish else w.1

/-- The boundary into the armed step: every registered tensor drains, the header's contents are kept, and COMPLETE is zero until the header
is written (R324, R325). -/
def State.armCkpt (s : State) : State :=
  if s.ckpt.armed && s.ckpt.stepArm == s.step.count then
    let table := s.gens.map fun g => (g.idx, BitVec.ofNat 512 (natOf (s.genBytes { g with ckpt := true, drained := false })))
    let s : State := { s with
      gens := s.gens.map fun g => { g with ckpt := true, drained := false }
      ckpt := { s.ckpt with armed := false, draining := true, done := false, fail := false, left := s.gens.length,
                            rec0 := s.step.records.head?, table := table } }
    let s := s.vwriteNoted 0 (s.ckpt.base.toNat + 120) (List.replicate 8 0)
    if s.ckpt.left = 0 then s.ckptHeader else s
  else s

/-- Copies the drained part of a tensor's live slot (R324): a fault or an answer of the default target on a write fails the drain (R325). A
source byte whose translation faults is copied as zero and fails nothing (DESIGN CHOICE, log entry 103); one that the default target
answers is zero and reported (R175). -/
def State.drainCopy (s : State) (g : Gen) (src dst n : Nat) : State :=
  let s := if s.writeFails 0 dst n then (s.noteDefaults 0 (vasOf dst n) true).ckptFail g
    else s.vwriteAll 0 dst ((List.range n).map fun (i : Nat) => s.vbyte 0 (vaOf src i))
  let s := (s.noteDefaults 0 (vasOf src n) false).modGen g.idx fun g => { g with drained := true }
  { s with ckpt := { s.ckpt with left := s.ckpt.left - 1 } }

/-- The drain of a tensor has finished (R324): its live slot up to OFF_N is copied at QoS 4, DRAIN_DONE is set; the last one brings
the header. A drain meets an uncorrectable error of its source again when the line is read again. -/
def State.drainDone (s : State) (idx : BitVec 12) (ecc : Ecc) : State :=
  if s.ckpt.draining && s.ckpt.left = 0 then s.ckptHeader
  else match s.gen? idx with
    | none => s
    | some g =>
      let n := g.offN.toNat * 256
      let src := g.base (g.live && !g.frozen)
      let dst := s.ckpt.base.toNat + 0x41000 + g.piOff.toNat * 256
      let w := s.walked 0 (pageVas src n ++ pageVas dst n) (engineIni 0 4)
      if !g.ckpt || g.drained then s
      else if !w.2 then w.1
      else
        let ps := (vasOf src n).filterMap fun a => match w.1.xlate 0 a false with | .pa p => some (p, 1) | _ => none
        if !w.1.piecesReady ps then w.1.fetchPieces ps (engineIni 0 4)
        else
          let s := (w.1.took ps).walkEcc ((ps.take 1).map (·.1)) 4 ecc
          if ecc = .uncorr && !ps.isEmpty then s
          else
            let s := s.drainCopy g src dst n
            if s.ckpt.draining && s.ckpt.left = 0 then s.ckptHeader else s

/-! ### Launch (R58, R68, R239, R283, R397) -/

/-- The home quadrant of each logical cell at the first launch of a job (R239). -/
def State.fixHome (s : State) : State :=
  if s.job.launched then s
  else { s with job := { s.job with launched := true,
                                    home := Vector.ofFn fun i : Fin 64 => (s.physOf (BitVec.ofNat 6 i.val)).map quadOf } }

/-- Mapped cells that are READY become ACTIVE (R397). -/
def State.activate (s : State) : State :=
  (s.mapped.filter fun p => (s.cell p).pwr == .ready).foldl (fun s p => s.setPwr p .active) s

/-- The peer chips of the heartbeat list (R68): this chip's own number in the list names no peer (log entry 70). -/
def State.hbPeers (s : State) : List (BitVec 16) := s.job.hbList.filter (· ≠ s.chip)

/-- Loss detection is armed for every peer of the heartbeat list (R68). -/
def State.armPeers (s : State) : State :=
  s.hbPeers.foldl (fun s c =>
    if s.net.peers.any (fun p => p.chip == c && p.armed) then s
    else { s with net := { s.net with peers := { chip := c, armed := true, last := s.clk.gtc, lost := false } :: s.net.peers.filter (·.chip ≠ c) } }) s

/-- STEP_US takes effect with a new anchor (R384). -/
def State.applyStepUs (s : State) (anchor : Tick) : State :=
  match s.job.defStepUs with
  | some u => { s with clk := { s.clk with stepUs := u }, job := { s.job with defStepUs := none }, step := { s.step with anchor := anchor } }
  | none => s

/-- First grid tick after `t` (R384). -/
def State.nextDue (s : State) (t : Tick) : Tick :=
  let p := s.periodTicks
  BitVec.ofNat 64 (s.step.anchor.toNat + p * ((t.toNat - s.step.anchor.toNat) / p + 1))

/-- Stands paused at a boundary (R284). -/
def State.park (s : State) : State :=
  { s with step := { s.step with running := false, paused := true, pausePend := false, resumed := false, stop := false, decided := none }
           glob := { s.glob with halt := true } }

/-- A carried kick whose run had started is kicked again, ahead of every new command (R386). -/
def State.rekick (s : State) : State :=
  (s.rt.carried.filter fun k => !(s.rt.kicks.any fun x => x.seq == k.seq)).foldl (fun s k =>
    let seq := s.rt.seq + 1
    let x := s.askNext { k with seq := seq, granted := false, genwait := none, noted := false }
    { x.1 with rt := { x.1.rt with seq := seq, kicks := x.1.rt.kicks ++ [x.2],
                                   carried := x.1.rt.carried.map fun y => if y.seq = k.seq then { y with seq := seq } else y } }) s

/-- The identities that a launch samples (R58): of every port that is not fenced, of a cell that is switched on. -/
def State.launchIds (s : State) (ids : List IdSample) : State :=
  (ids.filter fun x => (s.cell x.e.p).pwr != .off && !(s.cell x.e.p).down && !(s.port x.e).fenced).foldl State.sampleId s

/-- The marks that a rebuild has installed count in NDET of the step that begins (R321). -/
def State.countMarks (s : State) : State := { s with step := { s.step with marks := 0 } }.addNdet s.step.marks

/-- The launch boundary (R283; ALL_CANON as in `State.openRec`, log entry 111): it opens the step that STEP_COUNT names without advancing it. A record left open by a pause or
hold takes its GTC_BEGIN. -/
def State.launchStep (s : State) (tick : Tick) (ids : List IdSample) : State :=
  let s := s.applyDeferred.unitsBoundary.restartStreams.fixHome
  let begin : Tick := if s.step.pausePend then 0 else tick
  let s := match s.step.records with
    | r :: _ => if r.step = s.step.count ∧ r.closed = 0 then
        s.modRec fun r => { r with opened := begin, dclass := s.dclass, cursor := s.glob.cursor, det := s.glob.detmode, canon := s.allCanon, vshard := s.glob.vshard }
      else s.openRec begin
    | [] => s.openRec begin
  if s.step.pausePend then s.park.launchIds ids
  else
    let s := s.countMarks.applyStepUs tick
    let s := { s with
      step := { s.step with running := true, paused := false, resumed := false, stop := false, decided := none, anchor := tick }
      glob := { s.glob with halt := false }
      tmb := { s.tmb with stop := false, armed := false, holdReq := false } }
    let s := { s with step := { s.step with due := s.nextDue tick } }
    let s := s.activate.armPeers.releaseWaits.rekick
    ((s.launchIds ids).armCkpt).mirrorAgain

/-- The launch that is due: one that was replaced as its tick came (R422), or the armed one, which is spent. -/
def Clk.dueLaunch (c : Clk) : Option (Tick × Clk) :=
  match c.reached with
  | some t => some (t, { c with reached := none })
  | none => if c.armed && decide (c.launch.toNat ≤ c.gtc.toNat) then some (c.launch, { c with armed := false }) else none

/-- GTC_LAUNCH is reached (R283): nothing starts, and the launch is spent, while a job runs, in recovery hold, or while paused
without a resume (R292). -/
def State.launchTick (s : State) (now : Tick) (ids : List IdSample) : State :=
  let s := s.atTick now
  match s.clk.dueLaunch with
  | none => s
  | some (t, c) =>
    if s.asleep || s.pins.fatal then s
    else
      let s := { s with clk := c }
      if s.step.running || s.tmb.hold || (s.step.paused && !s.step.resumed) then s else s.launchStep t ids

/-! ### Boundaries (R258, R384-R388) -/

/-- Marks as carried the RKICKs whose kicks wait in GENWAIT and every command taken behind them (R386). -/
def carryCmds (waits : Nat → Bool) : List Cmd → List Cmd
  | [] => []
  | c :: l =>
    if c.op = opRKICK && (match c.kick with | some k => waits k | none => false) then (c :: l).map fun x => { x with carried := true }
    else c :: carryCmds waits l

/-- Carried commands are commands of the step that the boundary has opened (R386): its own boundary waits for them. -/
def Cell.uncarry (c : Cell) : Cell :=
  let clear (q : Port) : Port := { q with cmds := q.cmds.map fun x => { x with carried := false } }
  { c with dep := clear c.dep, sep := clear c.sep }

/-- Marks kicks in GENWAIT and the commands they hold up as carried (R386). -/
def State.markCarried (s : State) : State :=
  let waits (k : Nat) : Bool := s.rt.kicks.any fun x => x.seq == k && x.genwait.isSome
  { s with
    rt := { s.rt with kicks := s.rt.kicks.map fun k => { k with carried := k.genwait.isSome } }
    cells := s.cells.map fun c =>
      { c with dep := { c.dep with cmds := carryCmds waits c.dep.cmds }, sep := { c.sep with cmds := carryCmds waits c.sep.cmds } } }

/-- The boundary falls due (R385): the boundary stop begins, kicks in GENWAIT and what stands behind them are carried. -/
def State.dueTick (s : State) (now : Tick) : State :=
  let s := s.atTick now
  if !s.step.running || s.step.stop || s.tmb.stop || decide (s.clk.gtc.toNat < s.step.due.toNat) then s
  else
    ({ s with step := { s.step with stop := true } } : State).markCarried

/-- A kick that counts as running from its taking: one that has moved its tensor into WRITING or writes a slot in WRITING
(R385). -/
def Kick.counts (k : Kick) : Bool := k.granted && (writesNext k.desc).isSome

/-- May the boundary be decided now (R258, R385)? -/
def State.mayDecide (s : State) : Bool :=
  (allPorts.all fun e => (s.port e).cmds.all (·.carried)) && s.running.isEmpty && !(s.rt.kicks.any Kick.counts)
    && s.gens.all fun g => g.st != .writing || !g.ckpt || g.drained

/-- The boundary is decided at Td (R385): tensors in WRITING become READY (R257), and a drain that is not done holds it. A kick
that entered GENWAIT during the boundary stop is carried too, since only the boundary can end its wait (log entry 31). The master announces
Td to its package, and another instance takes the Td that was announced (R382). -/
def State.decideTick (s : State) (now : Tick) : State :=
  let s := s.atTick now
  if !s.step.stop || !s.step.running || s.step.decided.isSome || s.tmb.stop || s.par.mirrorWait || s.ckpt.draining then s
  else
    let c := s.markCarried
    if !c.mayDecide then s
    else
      let td : Tick := if c.pkg.settled && !c.isMaster then now else c.clk.gtc
      let t : State := { c with
        gens := c.gens.map fun (g : Gen) => if g.st = .writing then { g with st := .ready } else g
        step := { c.step with decided := some td } }
      if t.leadsPackage then t.out (.wiquin none 10 td) else t

/-- The boundary is taken at Tb = Td + 2,048 (R385). -/
def State.takeBoundary (s : State) (td : Tick) : State :=
  let tb : Tick := td + 2048
  let due := s.step.due
  let s := s.endDigest
  let s := s.modRec fun r => { r with closed := tb, ndet := s.step.ndet, digest := if s.dig.en then s.dig.last else 0 }
  let s := { s with step := { s.step with count := s.step.count + 1, decided := none, stop := false },
                    tmb := { s.tmb with voids := 0 }
                    gens := s.gens.map fun (g : Gen) => if g.drained then { g with ckpt := false, drained := false } else g }
  let s := s.unitsBoundary.applyDeferred
  let s := { s with rt := { s.rt with carried := s.rt.kicks.filter (·.carried) }, cells := s.cells.map Cell.uncarry }
  let pause := s.step.pausePend
  let s := if pause then s.steadyWaits else s.releaseWaits
  let s := (s.openRec (if pause then 0 else tb)).armCkpt
  let s := if pause then s.park
    else
      let s := s.applyStepUs due
      { s with step := { s.step with due := s.nextDue td } }
  s.sendMirror

def State.takeTick (s : State) (now : Tick) : State :=
  let s := s.atTick now
  match s.step.decided with
  | some td => if s.tmb.stop || !s.step.running || decide (s.clk.gtc.toNat < td.toNat + 2048) then s else s.takeBoundary td
  | none => s

/-! ### Replay (R295-R299, R303, R386) -/

/-- A fill that has not reached MAP when R arrives (R303). -/
def State.fillsLate (s : State) : Bool := !s.fills.queue.isEmpty || (match s.fills.cur with | some f => f.stage ≠ 5 | none => false)

/-- A new void of the same step, with VOIDS one higher (R294, R295, R303). The step's record counts replays (R281, R297). -/
def State.newVoid (s : State) (cause : Byte) : State :=
  let v := oneMore s.tmb.voids
  let loop := decide (s.maxVoids ≤ v.toNat + 1)
  let s := { s with tmb := { s.tmb with voids := v, armed := false, cause := cause, stopTick := s.clk.gtc, since := s.clk.gtc, taken := none,
                                        notBefore := 0, holdReq := s.tmb.holdReq || loop } }
  let s := if loop then s.report lvlInstance (s.pins.instanceId.setWidth 16) clsVoidloop .stepvoid (s.detC 0xFFFF) else s
  let s := s.request
  if s.tmb.holdReq && !s.tmb.cleanup then s.enterHold else s

/-- The step begins again at R (R297): VOIDS one higher, GTC_BEGIN = R, a new grid anchored at R (R384); armed ticks before R
are discarded (R207). -/
def State.replay (s : State) : State :=
  let r := s.tmb.replay
  let s := s.modRec fun x => { x with voids := oneMore x.voids, opened := r }
  let s := { s with
    tmb := { s.tmb with stop := false, armed := false, voids := oneMore s.tmb.voids, holdReq := false }
    rt := { s.rt with arms := s.rt.arms.filter fun a => decide (r.toNat ≤ a.2.toNat) } }
  let s := { s with step := { s.step with anchor := r, stop := false, decided := none } }
  let s := { s with step := { s.step with due := s.nextDue r } }
  s.activate.rekick.mirrorAgain

def State.replayTick (s : State) (now : Tick) : State :=
  let s := s.atTick now
  if !s.tmb.stop || !s.tmb.armed || s.tmb.cleanup || s.tmb.hold || s.pins.fatal || decide (s.clk.gtc.toNat < s.tmb.replay.toNat) then s
  else if s.fillsLate then s.newVoid s.tmb.cause
  else s.replay

/-- No announcement has come within 2 × LEAD (R295). -/
def State.agreeTimeout (s : State) (now : Tick) : State :=
  let s := s.atTick now
  if !s.tmb.stop || s.tmb.armed || s.tmb.hold || decide (s.clk.gtc.toNat < s.tmb.since.toNat + 2 * s.leadTicks) then s
  else s.newVoid s.tmb.cause

/-! ### Cleanup (R297, R306) -/

/-- Maps the failing entries of a row to spare rows of their own banks, each with its Pennant (R306): only banks that the row uses (R78)
count. The flag says that a bank has no spare row left. -/
def State.mapRow (s : State) (p : PCell) (t : TileNo) (row : RowNo) (failing : List (Fin 8)) : State × Bool :=
  let file := if t.toNat < 16 then 0 else 8
  let w := s.tileLanes p t
  let uses (b : Fin 8) : Bool := (List.range w).any fun k => decide ((k + row.toNat * w) % 8 = b.val)
  let full (s : State) (b : Fin 8) : Bool := match (s.cell p).spareRows[file + b.val]? with | some n => decide (8 ≤ n) | none => true
  (failing.filter uses).foldl (fun (a : State × Bool) b =>
    if a.2 || full a.1 b then (a.1, true)
    else
      let s := a.1.modCell p fun c =>
        { c with spareRows := c.spareRows.setIfInBounds (file + b.val) (((c.spareRows[file + b.val]?).getD 0) + 1) }
      (s.report lvlCell (srcCell p) clsRepair .corrected (s.detM (rowWord 8 t row.toNat b.val) (fileStruct t)), false)) (s, false)

/-- The test of a row that gave an uncorrectable error (R306): a bank with no spare row left retires the cell. -/
def State.rowTested (s : State) (t : RowTest) : State :=
  if !(s.cell t.p).erred.contains (t.tile, t.row) then s
  else
    let s := s.modCell t.p fun c => { c with erred := c.erred.filter (· ≠ (t.tile, t.row)) }
    let x := s.mapRow t.p t.tile t.row t.failing
    if x.2 then x.1.retireCell t.p 4 else x.1

/-- The cleanup of a void ends once every erred row of the job is tested (R297, R306); a hold that was asked for begins (R299).
A row test without a void is made in the same way. -/
def State.cleanupDone (s : State) (tests : List RowTest) : State :=
  let s := tests.foldl State.rowTested s
  let left := allCells.any fun p => !(s.cell p).erred.isEmpty
  if left || !s.tmb.cleanup then s
  else
    let s := { s with tmb := { s.tmb with cleanup := false } }
    if s.tmb.holdReq then s.enterHold else s

/-! ### Meanings -/

def execLaunchTick (now : Tick) (ids : List IdSample) (s : State) : Host.Outcome State Fault Refusal := .next (s.launchTick now ids).settle
def execStepDueTick (now : Tick) (s : State) : Host.Outcome State Fault Refusal := .next (s.dueTick now)
def execBoundaryDecided (now : Tick) (s : State) : Host.Outcome State Fault Refusal := .next (s.decideTick now)
def execBoundaryTaken (now : Tick) (s : State) : Host.Outcome State Fault Refusal := .next (s.takeTick now).settle
def execReplayTick (now : Tick) (s : State) : Host.Outcome State Fault Refusal := .next (s.replayTick now).settle
def execReplayAgreementTimeout (now : Tick) (s : State) : Host.Outcome State Fault Refusal := .next (s.agreeTimeout now).settle
def execVoidCleanupDone (tests : List RowTest) (s : State) : Host.Outcome State Fault Refusal := .next (s.cleanupDone tests).settle
def execDigestExchange (now : Tick) (s : State) : Host.Outcome State Fault Refusal := .next (s.digestExchange now)
def execCheckpointDrainDone (idx : BitVec 12) (ecc : Ecc) (s : State) : Host.Outcome State Fault Refusal := .next (s.drainDone idx ecc).settle

end Sys2Proof.Machine
end

