-- ==== Sys2Proof/Machine/Xsp.lean ====
section
/-! DEFINITION. External station ports (R65-R68, R74, R75, R412): checks and copies of messages, loss detection, heartbeats,
and what each message type does. -/

namespace Sys2Proof.Machine

def State.modXsp (s : State) (x : Fin 2) (f : Xsp → Xsp) : State := { s with net := { s.net with xsps := s.net.xsps.set x (f (s.net.xsps.get x)) } }

/-- A violation on an XSP (R74-R76): the first fenced station port voids the step, the second loses the instance. -/
def State.xspViolation (s : State) (x : Fin 2) (no : Nat) (seq : BitVec 32) : State :=
  let v := s.recentViols 2 (s.net.xsps.get x).viols ++ [s.clk.gtc]
  let src : BitVec 16 := BitVec.ofNat 16 x.val
  let s' := s.modXsp x fun y => { y with viols := v }
  if (s.net.xsps.get x).fenced then s'
  else
    let s' := s'.report lvlXsp src 0x0D .info (detP no 0 seq.toNat)
    if fenceLimit s' 2 ≤ v.length then
      let s' := s'.modXsp x fun y => { y with fenced := true }
      if s'.net.xsps.all (·.fenced) then (s'.report lvlXsp src 0x11 .instfatal (detP no 1 seq.toNat)).instFatal 0x07
      else (s'.report lvlXsp src 0x11 .stepvoid (detP no 1 seq.toNat)).beginVoid 0x07
    else s'

/-- What is wrong with a message (R74 nos. 11-13). Of several, the framing counts first, then the message's form, then its destination
(DESIGN CHOICE, log entry 10: R74 gives the numbers no order). -/
def State.msgFault (s : State) (m : XMsg) : Option Nat :=
  if !m.framed then some 13
  else if m.type = 0 || decide (7 < m.type.toNat) || decide (8160 < m.length.toNat) || m.length.toNat % 32 != 0
      || m.payload.length != m.length.toNat || m.beats != ceilDiv (32 + m.length.toNat) 512 || !m.rsvdZero || m.pcrc != crc32c m.payload then some 11
  else if m.dst ≠ s.chip && m.dst != 0xFFFF then some 12
  else none

/-- Messages from one sending instance, newest first: SEQ[31:29] names it (R412). -/
def sameSender (m : XMsg) (y : BitVec 16 × BitVec 32) : Bool := y.1 == m.src && (y.2 >>> 29) == (m.seq >>> 29)

/-- A copy within the window of R412. -/
def State.isCopy (s : State) (m : XMsg) : Bool := ((s.net.seen.filter (sameSender m)).take (2 ^ 28)).any fun y => y.2 == m.seq

/-- A message that is taken arms and refreshes loss detection of its sender, if that is a peer of the heartbeat list (R68). -/
def State.heard (s : State) (m : XMsg) : State :=
  { s with net := { s.net with
      seen := (m.src, m.seq) :: s.net.seen
      peers := if s.hbPeers.contains m.src then
          ⟨m.src, true, s.clk.gtc, false, s.net.peers.any fun p => p.chip == m.src && (p.lost || p.back)⟩ :: s.net.peers.filter (·.chip ≠ m.src)
        else s.net.peers } }

/-- A message arrives: the state after its checks, and whether it is taken (R67, R68, R74, R75). -/
def State.xspIntake (s : State) (x : Fin 2) (m : XMsg) : State × Bool :=
  if s.asleep then (s, false)
  else match s.msgFault m with
    | some no => (s.xspViolation x no m.seq, false)
    | none =>
      if (s.net.xsps.get x).fenced || s.isCopy m then (s, false) else (s.heard m, true)

/-- A message of the type that its command names runs `f` once it is taken. -/
def State.onMsg (s : State) (x : Fin 2) (m : XMsg) (type : Byte) (f : State → State) : State :=
  if m.type ≠ type then s else let y := s.xspIntake x m; if y.2 then f y.1 else y.1

/-! ### STEPVOID (R294-R299) -/

/-- The void count of a pair that is ahead of this chip's own. -/
def State.adoptVoids (s : State) (v : BitVec 16) : State :=
  if s.tmb.stop && decide (s.tmb.voids.toNat < v.toNat) then
    { s with tmb := { s.tmb with voids := v, armed := false, since := s.clk.gtc, taken := none, notBefore := 0 } }
  else s

/-- A void count that reaches TMB_CFG.MAXVOIDS asks for a hold (R299). -/
def State.loopCheck (s : State) : State :=
  if s.tmb.stop && !s.tmb.holdReq && decide (s.maxVoids ≤ s.tmb.voids.toNat + 1) then
    ({ s with tmb := { s.tmb with holdReq := true } } : State).report lvlInstance (s.pins.instanceId.setWidth 16) clsVoidloop .stepvoid (s.detC 0xFFFF)
  else s

/-- A STEPVOID message that names the step and a count v joins the void or begins it (R293, R294), with its Pennant. With no step in progress
that Pennant is all that comes of it; a request names the pair as the message has it. -/
def State.joinVoid (s : State) (m : XMsg) (v : BitVec 16) : State :=
  let s := s.report lvlPeer m.src clsPeervoid .stepvoid (s.detC m.src)
  if !s.step.running then s
  else if s.tmb.stop then
    let t := (s.adoptVoids v).loopCheck
    if t.tmb.holdReq && !s.tmb.holdReq then (let t := t.request; if t.tmb.cleanup then t else t.enterHold) else t
  else (((s.stopStep 0x02).adoptVoids v).loopCheck).request

/-- The leader takes a request of another chip (R295). One that asks for a hold brings it about (R299). -/
def State.leadRequest (s : State) (nb : Nat) (hold : Bool) : State :=
  if !s.isLeader || !s.tmb.stop then s
  else
    let s := (if hold then { s with tmb := { s.tmb with holdReq := true } } else s : State).leaderTake nb hold
    if hold && !s.tmb.cleanup then s.enterHold else s

/-- An announced replay tick (R295): one that comes only after its tick has passed begins a new void, unless the chip holds another
announcement for the pair. Since the leader only moves R to later ticks, an announcement of an earlier one is an older one on its way
(log entry 83). -/
def State.takeAnnounce (s : State) (r : Nat) : State :=
  if !s.tmb.stop || s.tmb.holdReq then s
  else if s.tmb.armed then
    if r ≤ s.clk.gtc.toNat || decide (s.tmb.replay.toNat ≤ s.clk.gtc.toNat) || decide (r ≤ s.tmb.replay.toNat) then s
    else ({ s with tmb := { s.tmb with replay := BitVec.ofNat 64 r } } : State).tellReplay r
  else if r ≤ s.clk.gtc.toNat then s.newVoid 0x02
  else ({ s with tmb := { s.tmb with armed := true, replay := BitVec.ofNat 64 r } } : State).tellReplay r

/-- A hold announcement (R299). -/
def State.takeHold (s : State) : State :=
  let s := { s with tmb := { s.tmb with holdReq := true } }
  if s.tmb.stop && s.tmb.cleanup then s else s.enterHold

/-- A STEPVOID message of the pair in progress or of a later one (R294). With no step in progress neither a replay nor a hold comes of it: PEERLOST
is the only trigger with a further effect then. -/
def State.takeVoid (s : State) (m : XMsg) : State :=
  let replay := fld m.payload 0 8
  let v : BitVec 16 := BitVec.ofNat 16 (fld m.payload 16 2)
  if m.step ≠ s.step.count || decide (v.toNat < s.tmb.voids.toNat) || s.pins.fatal then s
  else if !s.step.running then s.joinVoid m v
  else
    let s := s.joinVoid m v
    if replay = 0 then s.leadRequest (fld m.payload 8 8) ((m.payload[19]?).getD 0 |>.getLsbD 0)
    else if replay = 2 ^ 64 - 1 then s.takeHold
    else s.takeAnnounce replay

/-! ### Heartbeats and loss (R68, R299) -/

/-- Heartbeats that are due go to every peer of the list (R68): a chip is no peer of its own. -/
def State.heartbeat (s : State) (now : Tick) : State :=
  let s := s.atTick now
  if !s.job.hbOn || s.asleep || decide (s.clk.gtc.toNat < s.job.hbNext.toNat) then s
  else
    let s := s.hbPeers.foldl (fun s c => s.send 0x05 0 c 0 0 []) s
    { s with job := { s.job with hbNext := BitVec.ofNat 64 (s.job.hbNext.toNat + s.job.hbPeriod) } }

/-- A peer of the heartbeat list from which nothing has come for the loss timeout (R68): PEERLOST, and recovery hold (R299). The loss
of a replacement stops its rebuild (R323; that a chip heard again after a loss is a replacement is a DESIGN CHOICE, log entry 93). -/
def State.peerLost (s : State) (chip : BitVec 16) (now : Tick) : State :=
  let s := s.atTick now
  match s.net.peers.find? fun p => p.chip == chip with
  | none => s
  | some p =>
    if s.asleep || !p.armed || p.lost || !s.hbPeers.contains chip || decide (s.clk.gtc.toNat < p.last.toNat + s.job.hbTimeout) then s
    else
      let s : State := { s with net := { s.net with peers := s.net.peers.map fun (y : Peer) => if y.chip = chip then { y with lost := true } else y } }
      let s := if p.back then s.replacementFails chip else s
      (s.report lvlPeer chip clsPeerlost .stepvoid (s.detC chip)).wantHold 0x03

/-! ### Divergence digests (R290, R291) -/

/-- Entries of the comparison peer; an instance with EN clear drops the message. -/
def State.takeDigest (s : State) (m : XMsg) : State :=
  if !s.dig.en then s
  else
    let differs := fld m.payload 0 2 ≠ s.dclass.toNat || fld m.payload 2 1 % 2 ≠ s.glob.detmode.toNat
    let s := if differs then s.flagStep m.step .peer else s
    (digestEntries m s.clk.gtc).foldl State.peerEntry s

/-! ### Meanings -/

/-- A gradient partial (R273, R274): not taken while the merge buffer has no room for it. -/
def execGradientPartial (x : Fin 2) (m : XMsg) (s : State) : Host.Outcome State Fault Refusal :=
  .next (if m.type ≠ 0x01 then s
    else
      let y := s.xspIntake x m
      if !y.2 then y.1
      else match partialOf? m with
        | none => y.1
        | some p => match y.1.takePartial p with | some t => t.settle | none => s)

def execParityDelta (x : Fin 2) (m : XMsg) (s : State) : Host.Outcome State Fault Refusal := .next (s.onMsg x m 0x02 fun s => s.takeParity m).settle
def execRebuildStream (x : Fin 2) (m : XMsg) (fails : List (Nat × Nat)) (s : State) : Host.Outcome State Fault Refusal :=
  .next (s.onMsg x m 0x03 fun s => s.takeRebuildMsg m fails)
def execStepvoid (x : Fin 2) (m : XMsg) (s : State) : Host.Outcome State Fault Refusal := .next (s.onMsg x m 0x04 fun s => s.takeVoid m).settle
def execHeartbeat (x : Fin 2) (m : XMsg) (s : State) : Host.Outcome State Fault Refusal := .next (s.onMsg x m 0x05 fun s => s)
def execDivergenceDigest (x : Fin 2) (m : XMsg) (s : State) : Host.Outcome State Fault Refusal := .next (s.onMsg x m 0x06 fun s => s.takeDigest m)

/-- A message that R74 nos. 11-13 drop; a good message is not this command. -/
def execXspBadMessage (x : Fin 2) (m : XMsg) (s : State) : Host.Outcome State Fault Refusal :=
  .next (if (s.msgFault m).isNone then s else (s.xspIntake x m).1.settle)

def execHeartbeatSend (now : Tick) (s : State) : Host.Outcome State Fault Refusal := .next (s.heartbeat now)
def execPeerLossTimeout (chip : BitVec 16) (now : Tick) (s : State) : Host.Outcome State Fault Refusal := .next (s.peerLost chip now).settle

/-- The link of a station port goes up or down: GEO_LINKS shows it (R39). -/
def execXspLinkStateChange (x : Fin 2) (up : Bool) (s : State) : Host.Outcome State Fault Refusal :=
  .next (if s.asleep || (s.net.xsps.get x).up == up then s.modXsp x fun y => { y with up := up }
    else (s.modXsp x fun y => { y with up := up }).geoRewrite)

end Sys2Proof.Machine
end

