-- ==== Sys2Proof/Machine/Clocks.lean ====
section
/-! DEFINITION. The global tick and its discipline (R9, R377-R382), the package (R365-R376) and its master. -/

namespace Sys2Proof.Machine

/-! ### Discipline across the cluster (R380, R381) -/

/-- This instance steers toward a time source: EN set, SOURCE clear. -/
def Clk.follows (c : Clk) : Bool := c.en && !c.source

/-- A GTC_SYNC rising edge on the master (R377, R380): a sample, and from the time source a tick-value message. -/
def State.syncPulse (s : State) (now : Tick) : State :=
  let s := s.atTick now
  if s.asleep || !s.isMaster then s
  else
    let v := s.clk.gtc
    let s := { s with clk := { s.clk with samples := (v :: s.clk.samples).take 64, lastPulse := v } }
    if s.clk.source && s.clk.en then s.send 0x07 0 0xFFFF 0 0 (bytesOf 8 v.toNat ++ List.replicate 24 0) else s

/-- No pulse for 4 × 2^20 ticks (R381). -/
def State.holdover (s : State) (now : Tick) : State :=
  let s := s.atTick now
  if s.asleep || !s.isMaster || !s.clk.follows || decide (s.clk.gtc.toNat < s.clk.lastPulse.toNat + 4 * 2 ^ 20) then s
  else { s with clk := { s.clk with skew := .holdover, slew := 0, good := 0 } }

/-- Signed difference of two ticks. -/
def tickDiff (a b : Tick) : Int := (a.toNat : Int) - b.toNat

/-- The nearer of two samples to a value; the newer one stands first and wins a tie. -/
def nearer (v : Tick) (a b : Tick) : Tick := if (tickDiff b v).natAbs < (tickDiff a v).natAbs then b else a

/-- The sample nearest to a value, if one lies within 2^19 ticks of it (R381). -/
def nearestSample (v : Tick) : List Tick → Option Tick
  | [] => none
  | x :: l =>
    let n := l.foldl (nearer v) x
    if (tickDiff n v).natAbs ≤ 2 ^ 19 then some n else none

/-- A signed count in `w` bits, saturating (R379). -/
def satSigned (w : Nat) (x : Int) : BitVec w :=
  let m : Int := 2 ^ (w - 1) - 1
  BitVec.ofInt w (if m < x then m else if x < -m then -m else x)

/-- Does the error lead to a load (R380)? -/
def State.mayLoad (s : State) (e : Int) : Bool :=
  s.clk.load && s.glob.halt && !s.clk.armed && s.rt.arms.isEmpty && decide (4096 < e.natAbs)

/-- The master takes an error e (R380, R381): it loads GTC - e into every instance, or slews by -e. -/
def State.steer (s : State) (e : Int) : State :=
  let c := s.clk
  let s := { s with clk := { c with clErr := satSigned 16 e } }
  if s.mayLoad e then
    let g : Tick := BitVec.ofInt 64 ((c.gtc.toNat : Int) - e)
    ({ s with clk := { s.clk with gtc := g, lastPulse := g, samples := [], skew := .acquire, good := 0, slew := 0 } } : State).out (.wiquin none 3 g)
  else
    let good := if e.natAbs ≤ 128 then c.good + 1 else 0
    let skew : Skew := if c.skew = .locked then (if 512 < e.natAbs then .acquire else .locked) else if 4 ≤ good then .locked else .acquire
    { s with clk := { s.clk with slew := -e, good := good, skew := skew } }

/-- A tick value (R380): passed to the master, which takes it as a follower. -/
def State.takeValue (s : State) (m : XMsg) : State :=
  let v : Tick := BitVec.ofNat 64 (fld m.payload 0 8)
  if !s.isMaster then s.out (.wiquin (s.wqPort s.pkg.master 0) 2 v)
  else if !s.clk.follows then s
  else match nearestSample v s.clk.samples with
    | some x => s.steer (tickDiff x v)
    | none => s

/-- A launch is about to be replaced: one whose tick has come is still taken (R422). -/
def Clk.setLaunch (c : Clk) : Clk := if c.armed && decide (c.launch.toNat ≤ c.gtc.toNat) then { c with reached := some c.launch } else c

/-- The master's launch tick as it reaches another instance (R379): it is armed there while it lies ahead. -/
def Clk.copyLaunch (c : Clk) (t : Tick) : Clk :=
  { (if t = c.launch then c else c.setLaunch) with launch := t, armed := if t = c.launch then c.armed else decide (c.gtc.toNat < t.toNat) }

/-- A timing flit of the master (R377): its GTC as corrected for the link delays, and with it GTC_LAUNCH and CL_ERR (R379; the model lets
the copies travel with the flit, log entry 45). After a load of the master's GTC every instance loads it too (R380). -/
def State.timingFlit (s : State) (g launch : Tick) (clErr : BitVec 16) (load : Bool) : State :=
  if s.asleep || !s.pkg.settled || s.isMaster then s
  else if load then { s with clk := { s.clk.copyLaunch launch with gtc := g, pkgSkew := 0, slew := 0, clErr := clErr } }
  else
    let d := tickDiff s.clk.gtc g
    { s with clk := { s.clk.copyLaunch launch with pkgSkew := satSigned 8 d, slew := -d, clErr := clErr } }

/-! ### Wiquin training (R366-R368) -/

/-- A peer identity word (R368), of port `w` of this instance. -/
def State.identityWord (s : State) (w : Nat) : BitVec 64 :=
  BitVec.ofNat 64 (s.dclass.toNat * 2 ^ 48 + bitAt s.pins.masterStrap 47 + s.pins.instanceId.toNat * 2 ^ 44 + w % 4 * 2 ^ 42 + s.pins.serial.toNat)

/-! Fields of a peer identity word. -/
def wordId (w : BitVec 64) : BitVec 3 := w.extractLsb' 44 3
def wordMaster (w : BitVec 64) : Bool := w.getLsbD 47
def wordPort (w : BitVec 64) : BitVec 2 := w.extractLsb' 42 2
def wordUnit (w : BitVec 64) : Nat := bf w 0 32

def State.setWord (s : State) (w : BitVec 64) : State :=
  { s with pkg := { s.pkg with words := s.pkg.words.set (wordId w).toNat (some w) } }

/-- Training of a port ends (R366): each end sends its identity word four times, and the link is UP when both directions have trained and
the four words agree, DOWN otherwise. A port that
is DOWN answers at any later time; FENCED and FAILED ports stay down (R367), and so do the ports of a BLANK die (R404). -/
def State.trained (s : State) (w : Fin 4) (reversed both : Bool) (w0 w1 w2 w3 : BitVec 64) : State :=
  let x := s.pkg.wq.get w
  if s.asleep || s.pins.fatal || s.pins.life == .blank || (x.st ≠ .training && x.st ≠ .down) then s
  else if !both then s.modWq w fun x => { x with st := .down }
  else
    let s := (List.range 4).foldl (fun s _ => s.out (.wiquin (some w) 0 (s.identityWord w.val))) s
    if w0 == w1 && w1 == w2 && w2 == w3 then
      ((s.modWq w fun x => { x with st := .up, leader := decide (s.pins.instanceId.toNat < (wordId w0).toNat), reversed := reversed,
                                    peerId := wordId w0, peerPort := wordPort w0 }).setWord w0).geoRewrite
    else s.modWq w fun x => { x with st := .down }

/-- A port not UP within 2 ms of the start of training (R366). -/
def State.trainLate (s : State) (w : Fin 4) : State :=
  if (s.pkg.wq.get w).st = .training then s.modWq w fun x => { x with st := .down } else s

/-! ### Master settlement (R369, R373, R374) -/

/-- The instance takes its UP links down and stops (R369, R374). -/
def State.leavePackage (s : State) : State :=
  let s := { s with pkg := { s.pkg with wq := s.pkg.wq.map fun (x : Wq) => if x.st = WqState.up then { x with st := .down } else x } }
  (s.report lvlInstance (s.pins.instanceId.setWidth 16) clsNetlink .instfatal (detL 4 0 0)).instFatal 0x05

/-- Keeps of two words with one INSTANCE_ID the one with the lower UNIT (R374). -/
def keepLower (l : List (BitVec 64)) : List (BitVec 64) :=
  l.filter fun w => !(l.any fun v => wordId v == wordId w && decide (wordUnit v < wordUnit w))

/-- Lowest INSTANCE_ID of a list of words. -/
def lowestId (l : List (BitVec 64)) : BitVec 3 :=
  l.foldl (fun a w => if (wordId w).toNat < a.toNat then wordId w else a) ((l.head?.map wordId).getD 0)

/-- The master of a joined set (R373). -/
def masterOf (l : List (BitVec 64)) : BitVec 3 :=
  let m := l.filter wordMaster
  lowestId (if m.isEmpty then l else m)

/-- The boot ROM waits for image chunks once settlement is over (R401). -/
def State.startBoot (s : State) : State := if s.pins.boot = 0 && !s.pins.fatal then { s with pins := { s.pins with boot := 1 } } else s

/-- Settlement ends with a joined set of words (R373): PRESENT, the master, and its GTC on every other instance (R377). -/
def State.joinSet (s : State) (l : List (BitVec 64)) (gtc : Tick) (canon : BitVec 8) : State :=
  let m := masterOf l
  let p : BitVec 8 := l.foldl (fun a w => a ||| (1 <<< (wordId w).toNat)) 0
  let s := l.foldl State.setWord s
  let s := { s with pkg := { s.pkg with present := p, master := m, settled := true, canon := canon } }
  let s := if m = s.pins.instanceId then s.out (.wiquin none 5 (p.setWidth 64)) else { s with clk := { s.clk with gtc := gtc } }
  s.startBoot

/-- Every identity word that the instance holds goes on to its neighbours (R373). -/
def State.passWords (s : State) : State :=
  (List.finRange 8).foldl (fun s i => match s.pkg.words.get i with | some w => s.out (.wiquin none 0 w) | none => s) s

/-- The master's word on a settled package reaches another instance: PRESENT after an admission and what the instances report of CANON
(R38, R41, R376). An instance that is admitted by it loads the master's GTC. -/
def State.takePresent (s : State) (reach : BitVec 8) (gtc : Tick) (canon : BitVec 8) : State :=
  let own := s.pins.instanceId.toNat
  if s.isMaster || !(reach.getLsbD s.pkg.master.toNat) then s
  else
    let joins := reach.getLsbD own && !(s.pkg.present.getLsbD own)
    let s' := { s with pkg := { s.pkg with present := reach, canon := canon } }
    let s' := if joins then { s' with clk := { s'.clk with gtc := gtc } } else s'
    if s.pkg.present = reach ∧ s'.allCanon = s.allCanon then s' else s'.geoRewrite

/-- A late instance finds the package settled (R376): it knows the master from the words, boots, and has not joined. Its own page shows
PRESENT and COUNT of 0 until it is admitted (DESIGN CHOICE, log entry 95: R41 speaks of joined instances). -/
def State.comeLate (s : State) (l : List (BitVec 64)) : State :=
  let s := l.foldl State.setWord s
  ({ s with pkg := { s.pkg with present := 0, master := masterOf l, settled := true } } : State).startBoot

/-- Settlement (R373): begins once every port is UP or DOWN. `words` are the words of the instances within 3 links, `reach` the
instances that meet R369, `gtc` the master's GTC, `canon` the instances whose engine ports all declare CANON; `late` says that the package
has settled before. With no UP link the instance is a package of one. On a settled instance the command brings the master's word. -/
def State.settlement (s : State) (words : List (BitVec 64)) (reach : BitVec 8) (gtc : Tick) (canon : BitVec 8) (late : Bool) : State :=
  if s.asleep || s.pins.fatal || !s.msps.all (·.idDone) || s.pkg.wq.any (fun w => w.st == .training) then s
  else if s.pkg.settled then s.takePresent reach gtc canon
  else
    let own := s.identityWord 0
    let id := s.pins.instanceId
    let s := if s.anyWqUp then ((keepLower (words.filter fun w => wordId w != id)).foldl State.setWord s).passWords else s
    if !s.anyWqUp then s.joinSet [own] gtc canon
    else if words.any fun w => wordId w == id && decide (wordUnit w < s.pins.serial.toNat) then s.leavePackage
    else if !reach.getLsbD id.toNat then s.leavePackage
    else
      let peers := keepLower (words.filter fun w => wordId w != id && reach.getLsbD (wordId w).toNat)
      if late && !peers.isEmpty then s.comeLate peers else s.joinSet (own :: peers) gtc canon

/-- An identity word comes again (R368, R375), with whether its instance's engine ports all declare CANON (R38): the comparison of DCLASS
is made anew, and a change shows in the window. -/
def State.peerWord (s : State) (w : BitVec 64) (canon : Bool) : State :=
  if s.asleep || wordId w == s.pins.instanceId then s
  else
    let bit : BitVec 8 := 1 <<< (wordId w).toNat
    let s' := s.setWord w
    let s' := { s' with pkg := { s'.pkg with canon := if canon then s'.pkg.canon ||| bit else s'.pkg.canon &&& ~~~bit } }
    if s'.dclassMismatch == s.dclassMismatch && s'.masterDclass == s.masterDclass && s'.allCanon == s.allCanon then s' else s'.geoRewrite

/-- A late instance asks the master to join (R376); it waits until `admitLate` lets it in. -/
def State.lateJoin (s : State) (id : BitVec 3) : State :=
  if s.asleep || s.pins.fatal || !s.isMaster || s.pkg.present.getLsbD id.toNat || s.pkg.late.contains id then s
  else { s with pkg := { s.pkg with late := s.pkg.late ++ [id] } }

/-- The earliest replay of another instance of the package, whose fills run (R303): the master sends the largest. -/
def State.laterReplay (s : State) (nb : Nat) : State :=
  if nb = 0 || !s.tmb.stop || s.tmb.holdReq then s
  else if s.isLeader then s.leaderTake nb false
  else ({ s with tmb := { s.tmb with notBefore := BitVec.ofNat 64 (max nb s.tmb.notBefore.toNat) } } : State).request

/-- A trigger of another instance (R294): the master begins the void or joins it; another instance stops on the master's word. A lost
peer, or an instance that asks for a hold, leads to recovery hold (R299). -/
def State.voidReport (s : State) (id : BitVec 3) (cause : Byte) (hold : HoldAsk) (nb : Tick) : State :=
  if s.asleep || s.pins.fatal || !s.pkg.present.getLsbD id.toNat then s
  else if hold = .fatal then ({ s with job := { s.job with hbOn := false } } : State).wantHold cause
  else if hold = .asked || cause = 0x03 then s.wantHold cause
  else if s.isMaster then (s.beginVoid cause).laterReplay nb.toNat
  else s.stopStep cause

/-! ### Meanings -/

/-- A value message at a station port of this instance, or one that another instance has taken and passes to this one as the master. -/
def execTickValue (x : Option (Fin 2)) (m : XMsg) (s : State) : Host.Outcome State Fault Refusal :=
  .next (match x with
    | some x => s.onMsg x m 0x07 fun s => s.takeValue m
    | none => if m.type ≠ 0x07 || s.asleep || !s.isMaster then s else s.takeValue m)

def execGtcSyncPulse (now : Tick) (s : State) : Host.Outcome State Fault Refusal := .next (s.syncPulse now)
def execSyncHoldover (now : Tick) (s : State) : Host.Outcome State Fault Refusal := .next (s.holdover now)
def execTimingFlit (masterGtc launch : Tick) (clErr : BitVec 16) (load : Bool) (s : State) : Host.Outcome State Fault Refusal :=
  .next (s.timingFlit masterGtc launch clErr load)
def execWiquinTraining (w : Fin 4) (reversed both : Bool) (w0 w1 w2 w3 : BitVec 64) (s : State) : Host.Outcome State Fault Refusal :=
  .next (s.trained w reversed both w0 w1 w2 w3)
def execWiquinTrainTimeout (w : Fin 4) (s : State) : Host.Outcome State Fault Refusal := .next (s.trainLate w)
def execMasterSettlement (words : List (BitVec 64)) (reach : BitVec 8) (gtc : Tick) (canon : BitVec 8) (late : Bool) (s : State) :
    Host.Outcome State Fault Refusal := .next (s.settlement words reach gtc canon late)
def execPeerIdentityWord (word : BitVec 64) (canon : Bool) (s : State) : Host.Outcome State Fault Refusal := .next (s.peerWord word canon).settle
def execLateJoinRequest (id : BitVec 3) (s : State) : Host.Outcome State Fault Refusal := .next (s.lateJoin id).settle
def execVoidReportToMaster (id : BitVec 3) (cause : Byte) (hold : HoldAsk) (notBefore : Tick) (s : State) : Host.Outcome State Fault Refusal :=
  .next (s.voidReport id cause hold notBefore).settle

end Sys2Proof.Machine
end

