-- ==== Sys2Proof/Machine/PennantLog.lean ====
section
/-! DEFINITION. The recorder of the error log (R327, R332-R337) and the flush before reset (R342, R343). -/

namespace Sys2Proof.Machine

/-! ### Records (R327) -/

/-- A record of 32 bytes. -/
def State.record (s : State) (r : Report) (coal fatalSlot : Bool) : BitVec 256 :=
  let flags : Nat := 128 + bitAt fatalSlot 5 + bitAt coal 4 + r.sev.code.toNat
  let det : BitVec 96 := if coal then (r.detail.setWidth 32 : BitVec 32) ++ r.last else r.detail
  det ++ BitVec.ofNat 32 r.count ++ BitVec.ofNat 16 r.reports ++ (s.pins.instanceId.setWidth 8 : BitVec 8) ++ BitVec.ofNat 8 flags
    ++ r.cls ++ (0 : BitVec 4) ++ r.level ++ r.src ++ r.tick

/-- Writes a record into the ring (R333, R334): its slot, PNT_HEAD, and PNT_FULL when the unread count reaches 960. -/
def State.ringWrite (s : State) (r : Report) (coal : Bool) : State :=
  let l := s.log
  let slot := l.head.toNat % 1024
  let rec0 := s.record r coal (decide (960 ≤ l.unread))
  let s' := { s with log := { l with ring := (slot, rec0) :: l.ring.filter (·.1 ≠ slot), head := l.head + 1 } }
  if s'.log.unread = 960 then s'.setIrq 5 else s'

/-! ### Coalescing (R335, R336) -/

def State.enterCoal (s : State) : State :=
  if s.log.coal then s else ({ s with log := { s.log with coal := true } } : State).setIrq 7

/-- A report goes to the coalescing table: it merges with its key, takes a free entry, or is lost (R335). -/
def State.tableAdd (s : State) (r : Report) : State :=
  if s.log.table.any fun x => x.same r then
    { s with log := { s.log with table := s.log.table.map fun x => if x.same r then x.merge r else x } }
  else if s.log.table.length < 256 then { s with log := { s.log with table := s.log.table ++ [r] } }
  else s.loseN r.reports

/-- The first line of the flush image that holds table entries, and its number of lines (R343). -/
def flushTableLine : Nat := 129
def flushLines : Nat := 162

/-- The recorder takes one report (R333-R335, R342): during a flush the ring is frozen, and reports go to the table until that is being
written; later ones are lost. A fatal one goes to the ring while it has room; any other to the table in coalescing mode or when 960
records are unread. A fatal one that finds 1,024 unread enters coalescing mode with it: R335 does not name that case (log entry 109). -/
def State.recordOne (s : State) (r : Report) : State :=
  if s.log.flush.isSome then
    (if s.log.flush.any fun f => decide (f.line + 1 < flushLines) then s.tableAdd r else s.loseN r.reports)
  else if r.sev.fatal && decide (s.log.unread < 1024) then s.ringWrite r false
  else if s.log.coal || r.sev.fatal || decide (960 ≤ s.log.unread) then s.enterCoal.tableAdd r
  else s.ringWrite r false

/-- The next report (R333): fatal lanes first in ascending order of intake, then the ordinary entries in rotation. It was handed across to
SCLK after its NCLK, which therefore is over. -/
def Log.next (l : Log) : Option (Report × Log) :=
  match (List.finRange 5).find? fun i => !(l.intakes.get i).fatal.isEmpty with
  | some i =>
    match (l.intakes.get i).fatal with
    | r :: rest => some (r, { l with intakes := l.intakes.set i { l.intakes.get i with fatal := rest, nclk := [] } })
    | [] => none
  | none =>
    let turn := (List.range 5).map fun k => (l.rotation + k) % 5
    match turn.find? fun i => match l.intakes[i]? with | some x => !x.ordinary.isEmpty | none => false with
    | some i =>
      match l.intakes[i]? with
      | some x =>
        match x.ordinary with
        | r :: rest => some (r, { l with intakes := l.intakes.setIfInBounds i { x with ordinary := rest, nclk := [] }, rotation := (i + 1) % 5 })
        | [] => none
      | none => none
    | none => none

/-- Does the recorder run? It stands on SCLK alone; in a wipe it waits for service-core RAM, which an instance that start-up holds has
finished (R29, R331, R423). -/
def State.recorderOn (s : State) : Bool := s.pins.rstN && (!s.pins.wiping || s.pins.held)

/-- The fatal report that is written ahead of a drain while the ring has room (R344): of a fatal lane first, else of the ordinary entries. -/
def Log.takeFatal (l : Log) : Option (Report × Log) :=
  if 1024 ≤ l.unread then none
  else if l.intakes.any fun k => !k.fatal.isEmpty then l.next
  else match (List.finRange 5).find? fun i => (l.intakes.get i).ordinary.any (·.sev.fatal) with
    | none => none
    | some i =>
      let k := l.intakes.get i
      (k.ordinary.find? (·.sev.fatal)).map fun r => (r, { l with intakes := l.intakes.set i { k with ordinary := k.ordinary.erase r, nclk := [] } })

def Intake.crowded (k : Intake) : Bool := decide (32 ≤ k.ordinary.length)

/-- Order of a drain: ascending TICK, then key (R336). -/
def Report.before (a b : Report) : Bool :=
  let ka := [a.tick.toNat, a.level.toNat, a.src.toNat, a.cls.toNat, a.sev.code.toNat]
  let kb := [b.tick.toNat, b.level.toNat, b.src.toNat, b.cls.toNat, b.sev.code.toNat]
  decide (ka < kb)

def insertReport (r : Report) : List Report → List Report
  | [] => [r]
  | x :: l => if r.before x then r :: x :: l else x :: insertReport r l

/-- May the recorder leave coalescing mode (R336)? -/
def Log.mayLeave (l : Log) : Bool :=
  !(l.intakes.any fun k => decide (8 < k.ordinary.length)) && decide (l.unread + l.table.length < 960)

/-- One step of a drain (R336): the recorder leaves coalescing mode when it may, writes the first table entry to the ring as a COAL record
and frees it; with the last entry the mode ends. A fatal report goes ahead of it (R344). An intake with 32 entries makes a drain pause, and the
mode continues; so does a ring that has no room for the entry, where fatal reports have gone ahead (R334). -/
def State.drain (s : State) : State :=
  if !s.recorderOn || !s.log.coal || s.log.flush.isSome then s
  else match s.log.takeFatal with
  | some (r, l) => ({ s with log := l } : State).ringWrite r false
  | none =>
  if s.log.intakes.any Intake.crowded then { s with log := { s.log with draining := false } }
  else if !s.log.draining && !s.log.mayLeave then s
  else match s.log.table.foldr insertReport [] with
    | [] => { s with log := { s.log with coal := false, draining := false } }
    | r :: rest =>
      if (if r.sev.fatal then 1024 else 960) ≤ s.log.unread then { s with log := { s.log with draining := false } } else
      let s := s.ringWrite r true
      { s with log := { s.log with table := rest, coal := !rest.isEmpty, draining := !rest.isEmpty } }

/-! ### Flush (R342, R343) -/

def bytes32 (w : BitVec 256) : List Byte := bytesOf 32 w.toNat

/-- The bytes of one line of the flush image; the last line is the trailer of 12 bytes. -/
def State.flushLine (s : State) (f : Flush) : List Byte :=
  let slots (n : Nat) (g : Nat → BitVec 256) : List Byte := (List.range 8).flatMap fun k => bytes32 (g (8 * n + k))
  if f.line = 0 then
    bytesOf 8 f.tick.toNat ++ b32 f.head.toNat ++ b32 f.tail.toNat ++ b32 f.lost.toNat ++ b32 f.steps.toNat ++ b8 s.pins.instanceId.toNat
      ++ List.replicate 231 (0 : Byte)
  else if f.line < flushTableLine then slots (f.line - 1) fun n => ((s.log.ring.find? (·.1 = n)).map (·.2)).getD 0
  else if f.line + 1 < flushLines then
    slots (f.line - flushTableLine) fun n => match s.log.table[n]? with | some r => s.record r true false | none => 0
  else bytesOf 8 f.tick.toNat ++ b32 s.log.lost.toNat

/-- Writes the next line of the image to its stack at QoS 15 (R342). A write that finds no transaction is left out, since a flush waits on
no MSP. Lanes that it writes hold nothing newer in the operand cache. -/
def State.flushWrite (s : State) (f : Flush) : State :=
  let n := s.log.flushBase.toNat / 256 + f.line
  let bs := s.flushLine f
  let mask := lanesOf n (256 * n) bs.length
  let s := { s with log := { s.log with flush := some { f with line := f.line + 1 } } }
  match s.issueTxn n true 15 with
  | none => s
  | some (t, m, id) =>
    let t : State := { t with mem := t.mem.writeBytes (256 * n) bs }
    let t := t.out (.mspWd m.val id mask (rowOf (t.mem.readBytes (256 * n) 256)))
    { t with lines := t.lines.map fun l => if l.line = n then { l with dirty := l.dirty &&& ~~~mask } else l }

/-- The flush goes on by one line, until its trailer is written. -/
def State.flushNext (s : State) : State :=
  match s.log.flush with
  | some f => if f.line < flushLines then s.flushWrite f else s
  | none => s

/-- A flush begins (R342): coalescing mode, the ring frozen, and the header's values kept. -/
def State.flushBegin (s : State) : State :=
  let s := s.enterCoal
  let l := s.log
  { s with log := { l with draining := false, flush := some ⟨s.clk.gtc, l.head, l.tail, l.lost, s.step.count.setWidth 32, 0⟩ } }

/-! ### The recorder's turns -/

/-- One turn of the recorder: the next report, which waits while a drain is under way unless it is fatal (R336, R344), and the next line of a flush. -/
def State.recorder (s : State) : State :=
  if !s.recorderOn then s
  else
    let s := if s.log.intakes.any Intake.crowded then (let t := s.enterCoal; { t with log := { t.log with draining := false } }) else s
    if s.log.draining then (match s.log.takeFatal with | some (r, l) => ({ s with log := l } : State).ringWrite r false | none => s)
    else match s.log.next with
      | some (r, l) => (({ s with log := l } : State).recordOne r).flushNext
      | none => s.flushNext

/-- A whole flush in one step, as firmware makes one before a life-cycle transition (R342; log entry 48). -/
def State.flushAll (s : State) : State := (List.range flushLines).foldl (fun s _ => s.recorder) s.flushBegin

/-- PRERESET_N falls (R342, R364). -/
def State.noticeFalls (s : State) : State :=
  let was := s.pins.preRstN
  let s := { s with pins := { s.pins with preRstN := false } }
  if was && !s.asleep && s.log.flushEn && s.log.flushBase != 0 then s.flushBegin else s

/-- PRERESET_N rises again without a reset: the recorder resumes under R336 (R342). What the image lacks is not written. -/
def State.noticeRises (s : State) : State :=
  { s with pins := { s.pins with preRstN := true }, log := { s.log with flush := none } }

/-! ### Meanings -/

def execPennantRecordWrite (s : State) : Host.Outcome State Fault Refusal := .next s.recorder
def execCoalesceDrain (s : State) : Host.Outcome State Fault Refusal := .next s.drain
def execPreresetFall (s : State) : Host.Outcome State Fault Refusal := .next s.noticeFalls
def execPreresetRise (s : State) : Host.Outcome State Fault Refusal := .next s.noticeRises

end Sys2Proof.Machine
end

