-- ==== Sys2Proof/Machine/Startup.lean ====
section
/-! DEFINITION. Reset, start-up and wipes (R29, R58, R64, R400-R402), the firmware boot (R346-R348), the CELL_MAP build (R37, R401),
Jack fills and repair (R302-R307), cell power stages (R397, R398), the patrol scrub (R403), and test access (R73). -/

namespace Sys2Proof.Machine

/-! ### Reset (R400) -/

/-- Own bytes whose stack content the model does not keep: dirty lanes of cached lines and, at a reset, lines of writes that their controller
has not answered (R342, R400). -/
def State.staleAddrs (s : State) (reset : Bool) : List Nat :=
  ((s.lines.filter fun l => s.ownPa (l.line * 256)).flatMap fun l =>
      ((List.range 256).filter fun i => l.dirty.getLsbD (i / 32)).map (l.line * 256 + ·))
  ++ if !reset then [] else (List.finRange 6).flatMap fun m => ((s.msps.get m).txns.filter (·.write)).flatMap fun t => (List.range (256 * t.len)).map (t.line * 256 + ·)

/-- The operand cache loses its lines: their dirty lanes read as the stacks hold them, a free value (log entry 32). -/
def State.loseLines (s : State) (reset : Bool) : State :=
  { s with
    mem := (s.staleAddrs reset).foldl (fun m a => m.write a (Config.staleByte s.free a)) s.mem
    free := s.free + 1
    lines := s.lines.filter fun l => !s.ownPa (l.line * 256) }

/-- ORL_RST_N falls (R400): stack contents, the life-cycle fuses and the die serial number are kept, and everything outside the
block: its pins, what it has presented, the commands that wait. -/
def State.resetFalls (s : State) : State :=
  if !s.pins.rstN then s
  else
    let t := s.loseLines true
    let p : Pins := State.reset.pins
    { State.reset with
      pending := s.pending, mem := t.mem, free := t.free, outs := s.outs
      pins := { p with stepping := s.pins.stepping, serial := s.pins.serial, life := s.pins.life, preRstN := s.pins.preRstN } }

/-! ### Reset release (R29, R401) -/

/-- The three checks on the clock tree (R29): ratio, phase, and the grade's maximum. -/
def clockFault (r : Release) : Bool :=
  let a := r.aclkMHz.toNat
  let n := r.nclkMHz.toNat
  let mx := if r.gradeS then 750 else 900
  decide (2 * a < 100 * (n - 2 * a)) || decide (2 * a < 100 * (2 * a - n)) || !r.phaseOk || decide (101 * mx < 100 * a)

/-- Layout Z (R331). -/
def detZ (aclk nclk : Nat) : BitVec 96 := detailOf (b16 aclk ++ b16 nclk)

/-- Requests of clients 136-208 as start-up raises them (R390, R401). -/
def startWants (gradeS : Bool) : Vector Nat 209 :=
  Vector.ofFn fun i : Fin 209 => if i.val < 136 then 0 else if i.val < 204 then 2 else if i.val < 208 then quadLevel gradeS else instLevel gradeS

/-- ORL_RST_N rises (R401): straps and clocks are taken, current is granted, the instance wipe begins. An instance whose clock check fails is
held in that wipe, of which only the part of service-core RAM ends (R29, R423). -/
def State.resetRises (s : State) (r : Release) : State :=
  if s.pins.rstN then s
  else
    let s := { s with
      pins := { s.pins with rstN := true, wiping := true, instanceId := r.id, masterStrap := r.master, gradeS := r.gradeS,
                            aclkMHz := r.aclkMHz, nclkMHz := r.nclkMHz }
      cells := s.cells.map fun c => { c with pwr := .wiping }
      cba := ({ s.cba with want := startWants r.gradeS, left := s.cba.rampStep } : Cba).serveAll (floorF r.gradeS) }
    let s := r.ids.foldl (fun s x => s.recordId x true) s
    if clockFault r then
      let s := { s with pins := { s.pins with held := true, fatal := true } }
      s.report lvlInstance (r.id.setWidth 16) clsClock .instfatal (detZ r.aclkMHz.toNat r.nclkMHz.toNat)
    else s

/-! ### Wipes (R402) -/

/-- Is this physical cell a Jack by its place (R25, R401)? -/
def jackPlace (p : PCell) : Bool := p.val % 17 == 16

/-- A cell fails start-up (R401, R402): it is retired and takes the shutdown path; a Jack records JACKFAIL (R293). -/
def State.startFails (s : State) (p : PCell) (stage : Nat) : State :=
  let s := if jackPlace p then s.jackfail p stage 0xFFFF else s
  (s.modCell p fun c => { c with retired := true, toTest := false }).shutdown p

/-- Engine ports whose start-up word is not valid are fenced, and their cells count as failed (R58). -/
def State.checkIds (s : State) : State :=
  allPorts.foldl (fun s e =>
    if (s.port e).idOk || (s.port e).fenced then s
    else
      let s := s.fenceRetire e 0 2 0
      if jackPlace e.p && !e.sep then s.jackfail e.p 4 0xFFFF else s) s

/-- The wipe of start-up has finished (R401, R402): GTC starts at 0 (R377) and identities are read; with the last of them BIST of the cells
begins (`identsEnd`). -/
def State.startWiped (s : State) (bad : List PCell) : State :=
  let s := { s with
    pins := { s.pins with wiping := false }
    clk := { s.clk with gtc := 0, gtcOn := true }
    outs := s.outs ++ (List.range 6).map fun m => Out.mspIdReq m 0 }
  let s := bad.foldl (fun s p => if (s.cell p).retired then s else s.startFails p 2) s
  let s := (allCells.filter fun p => !(s.cell p).retired).foldl (fun s p => s.modCell p fun c => { c with toTest := true }) s
  s.checkIds

/-- A cell after a wipe (R89, R104, R402): its tiles and RV registers as at reset, no record of a resume held (R124), and no window of
R48 or R102 open. -/
def Cell.wiped (c : Cell) : Cell :=
  { c with
    tiles := Vector.replicate 24 {}
    rv := Vector.replicate 512 0
    rowStart := c.rowStart &&& 0x7FFFFFFF
    erred := []
    wbq := []
    dep := { c.dep with recent := [] }
    sep := { c.sep with recent := [] }
    sepRv := [] }

/-- What an instance wipe covers (R402): tile files, RV registers, operand cache, what the ATUs hold, stash, tables, mailbox buffers, and
service-core RAM with the Pennant ring and the step records. Words that waited for a spare row are verified with the rest. -/
def State.wipe (s : State) : State :=
  let s := s.loseLines false
  { s with
    cells := s.cells.map Cell.wiped
    rt := { desc := [], arms := s.rt.arms, kicks := s.rt.kicks, carried := s.rt.carried, overlap := [], accum := [], seq := s.rt.seq }
    quads := s.quads.map fun q => { q with tlb := [], walks := [] }
    sram := { s.sram with todo := [] }
    stash := { entries := [], peak := 0, uid := s.stash.uid }
    gens := []
    step := { s.step with records := [] }
    log := { s.log with ring := [], head := 0, tail := 0, table := [], coal := false, draining := false, flush := none }
    mbs := s.mbs.map fun m => { m with req := 0, rsp := 0, cur := m.cur.map fun r => { r with req := 0 } } }

/-- The bytes of a response (R352). -/
def rspBits (req : BitVec 2048) (r : Resp) : BitVec 2048 :=
  rowOf (b16 (bf req 0 16) ++ [0x01, 0] ++ b32 (bf req 32 32) ++ b16 r.payload.length ++ b16 r.result.toNat ++ b32 r.detail.toNat ++ r.payload)

def State.modMb (s : State) (n : Nat) (f : Mbox → Mbox) : State :=
  { s with mbs := s.mbs.setIfInBounds n (f ((s.mbs[n]?).getD {})) }

/-- A response is presented (R349, R350): DONE, DROPPED cleared, MB_RSP set. -/
def State.respond (s : State) (n : Nat) (bits : BitVec 2048) : State :=
  ({ s.modMb n (fun m => { m with st := .done, dropped := 0, rsp := bits, cur := none }) with
     fwOrder := s.fwOrder.filter (· ≠ n) } : State).setIrq (8 + n)

/-- A cell with a word that fails the read-back of a later wipe fails as BIST would have it (R397, R402): it is retired and takes the
shutdown path, and its logical cell takes a spare. -/
def State.wipeFails (s : State) (p : PCell) : State :=
  let c := s.cell p
  if c.retired then s
  else
    let s := s.modCell p fun c => { c with logical := none, spare := false, users := s.usersOf p }
    let s := match c.logical with | some l => { s with fills := { s.fills with queue := s.fills.queue ++ [(l, quadOf p)] } } | none => s
    s.startFails p 2

/-- The wipe of a life-cycle transition has finished (R405): the boot ROM answers and waits for a new image. Requests that still
wait keep their mailboxes BUSY. -/
def State.transWiped (s : State) (bad : List PCell) : State :=
  match s.pins.lifeReq with
  | none => s
  | some (n, _, ok) =>
    let req := match s.mbs[n]? with | some m => (match m.cur with | some r => r.req | none => 0) | none => 0
    let s := s.wipe
    let s := { s with
      pins := { s.pins with wiping := false, trans := false, lifeReq := none, boot := 1, bootErr := 0, ready := false, image := [] }
      glob := { s.glob with numrev := 0 } }
    (bad.foldl State.wipeFails s).nextFill.respond n (rspBits req (if ok then ⟨0, 0, []⟩ else ⟨0x0010, 1, []⟩))

/-- Orlith's own clients hold the current they ask for (R401). -/
def Cba.ownServed (c : Cba) : Bool := (List.range' 136 73).all fun n => decide (c.wants n ≤ c.lvl n)

/-- An instance wipe and its read-back have finished (R402); the one of start-up begins once the instance's own clients have their current
(R401). `bad` are cells with a word that fails; `other` says that another structure failed again on its spare row: the instance stops, and
its record can be read from then on (R423). -/
def State.wipeDone (s : State) (bad : List PCell) (other : Bool) : State :=
  if !s.pins.rstN || !s.pins.wiping || s.pins.held || !(s.pins.trans || s.cba.ownServed) then s
  else if other then
    let s := { s with pins := { s.pins with wiping := false, held := true, fatal := true, fwStop := true } }
    s.report lvlInstance (s.pins.instanceId.setWidth 16) clsEcc .instfatal (s.detM 0 0x0A)
  else if s.pins.trans then s.transWiped bad
  else s.startWiped bad

/-! ### Firmware boot and the CELL_MAP build (R37, R346-R348, R401) -/

/-- The largest image: 1,536 KiB. -/
def imageMax : Nat := 1536 * 1024

/-- The boot ROM takes a chunk from MB0 (R346): at its ring, or from a request that was rung before the ROM waited. -/
def State.chunk (s : State) : State :=
  match s.mbs[0]? with
  | none => s
  | some m =>
    if s.asleep || s.pins.boot ≠ 1 || (m.st == .busy && m.cur.isNone) then s
    else
      let req := if m.st = .busy then (match m.cur with | some r => r.req | none => m.req) else m.req
      let off := bf req 0 32
      let len := bf req 32 16
      let last := bf req 48 1 = 1
      if off ≠ s.pins.image.length || len = 0 || decide (224 < len) || decide (imageMax < off + len) then s.respond 0 (rspBits 0 ⟨0x0004, 0, []⟩)
      else
        let s := { s with pins := { s.pins with image := s.pins.image ++ (List.range len).map fun i => rowByte req (32 + i) } }
        if last then
          { s with pins := { s.pins with boot := 2 }, mbs := s.mbs.setIfInBounds 0 { m with st := .busy, rsp := 0, cur := none } }
        else s.respond 0 (rspBits 0 ⟨0, 0, []⟩)

/-- What verification finds wrong (R347, R348): 1 FORMAT, 2 LENGTH, 3 signature. -/
def imageError (img : List Byte) : Nat :=
  if fld img 0 2 ≠ 1 then 1
  else if fld img 4 4 ≠ img.length || decide (img.length < 256) then 2
  else if !Config.sigValid img then 3
  else 0

/-- The first build of CELL_MAP (R401): logical cell 16q + i in P(17q + i); the Jacks that passed are spares, and the logical
cell of a cell that failed takes one in the order of R302. -/
def State.buildMap (s : State) : State :=
  let s := { s with cells := Vector.ofFn fun p : Fin 68 =>
    let c := s.cells.get p
    if c.retired then c
    else if jackPlace p then { c with spare := true }
    else { c with logical := some (BitVec.ofNat 6 (16 * (p.val / 17) + p.val % 17)) } }
  (List.range 64).foldl (fun s l =>
    let lc : LCell := BitVec.ofNat 6 l
    if (s.physOf lc).isSome then s
    else match s.spares ⟨l / 16 % 4, by omega⟩ with
      | p :: _ => s.modCell p fun c => { c with spare := false, logical := some lc }
      | [] => s) s

/-- Firmware finishes start-up once it runs and every cell has passed or failed BIST (R37, R348, R401): map, Geometry Table, HALT,
READY; the spares are parked OFF. After a life-cycle transition the map stands. -/
def State.finishStart (s : State) : State :=
  if s.asleep || s.pins.fatal || s.pins.boot ≠ 4 || s.pins.ready || !s.pkg.settled || s.cells.any (·.toTest) then s
  else
    let first := s.glob.geo.get 0 == 0
    let s := if first then s.buildMap else s
    let s := if first then (allCells.filter fun p => (s.cell p).spare).foldl State.shutdown s else s
    let s := { s with glob := { s.glob with halt := true } }
    let s := if first then s.geoWrite else s.geoRewrite
    { s with pins := { s.pins with ready := true } }

/-- Identity words go to the peers again once firmware runs (R368, R375). -/
def State.sendWords (s : State) : State :=
  (List.finRange 4).foldl (fun s w => if (s.pkg.wq.get w).st == .up then s.out (.wiquin (some w) 0 (s.identityWord w.val)) else s) s

/-- A late instance asks the master to join once its firmware runs (R376). -/
def State.askToJoin (s : State) : State :=
  if s.pkg.settled && !s.pkg.present.getLsbD s.pins.instanceId.toNat then
    s.out (.wiquin (s.wqPort s.pkg.master 0) 8 (s.pins.instanceId.setWidth 64))
  else s

/-- Verification of the image ends (R346-R348). -/
def State.verified (s : State) : State :=
  if s.asleep || s.pins.boot ≠ 2 then s
  else
    let e := imageError s.pins.image
    if e ≠ 0 then
      ({ s with pins := { s.pins with boot := 0xF, bootErr := BitVec.ofNat 4 e } } : State).respond 0 (rspBits 0 ⟨0x0010, 0, []⟩)
    else
      let s := { s with pins := { s.pins with boot := 4 }, glob := { s.glob with numrev := (s.pins.image[2]?).getD 0 } }
      ((s.respond 0 (rspBits 0 ⟨0, 0, []⟩)).sendWords.askToJoin).finishStart

/-! ### Fills (R303, R305) -/

/-- The latest samples of both ports of a cell are valid and equal those of start-up (R58, R307). -/
def State.idsGood (s : State) (p : PCell) (ids : List IdSample) : Bool :=
  [false, true].all fun b =>
    match ids.find? fun x => x.e == ⟨p, b⟩ with
    | some x => idsValid x && x.s3 == (s.port ⟨p, b⟩).idStart
    | none => false

/-- Records the words sampled on a cell (R58). -/
def State.recordIds (s : State) (p : PCell) (ids : List IdSample) : State :=
  (ids.filter fun x => x.e.p == p).foldl (fun s x => s.recordId x false) s

/-- A port of a Jack whose sample is invalid or changed is fenced (R58). -/
def State.fenceIds (s : State) (p : PCell) (ids : List IdSample) : State :=
  [false, true].foldl (fun s b =>
    match ids.find? fun x => x.e == ⟨p, b⟩ with
    | some x => if !idsValid x then s.fence ⟨p, b⟩ 0 2 0 else if x.s3 ≠ (s.port ⟨p, b⟩).idStart then s.fence ⟨p, b⟩ 0 3 0 else s
    | none => s.fence ⟨p, b⟩ 0 2 0) s

def State.setFillStage (s : State) (f : Fill) (n : BitVec 3) : State := { s with fills := { s.fills with cur := some { f with stage := n } } }

/-- The power-up of an OFF cell may end: its WIPING level is granted (R397). -/
def State.granted (s : State) (p : PCell) : Bool := s.enabling p && decide (Pwr.wiping.level ≤ s.cba.lvl (cellClient p))

/-- A Jack whose engines lack CANON at the MAP stage, where DETMODE has been set since its fill began (R278): it stays a spare, and the
logical cell takes another. -/
def State.passOver (s : State) (f : Fill) : State :=
  let s := s.modCell f.p fun c => { c with filling := false, spare := true }
  (({ s with fills := { cur := none, queue := (f.logical, f.home) :: s.fills.queue } } : State).noteSkips [f.p]).nextFill

/-- The MAP stage (R303): CELL_LOGICAL is written; the cell becomes ACTIVE at the replay or at the next launch (R397). -/
def State.mapFill (s : State) (f : Fill) : State :=
  if s.glob.detmode && !(s.cell f.p).canon then s.passOver f else
  let s := s.modCell f.p fun c => { c with logical := some f.logical, filling := false }
  (({ s with fills := { s.fills with cur := none } } : State).geoRewrite).nextFill

/-- Wiped tiles and RV registers of one cell (R402). -/
def State.wipeCell (s : State) (p : PCell) : State := s.modCell p Cell.wiped

/-- Soft repair after BIST (R303, R306-R308): every failing entry of the cell is mapped to a spare row of its bank. The flag says that a
bank has none left. -/
def State.softRepair (s : State) (p : PCell) (rows : List RowTest) : State × Bool :=
  (rows.filter fun r => r.p == p).foldl (fun (a : State × Bool) r => if a.2 then a else a.1.mapRow p r.tile r.row r.failing) (s, false)

/-- A stage of the fill under way ends (R303, R305). -/
def State.fillStage (s : State) (pass : Bool) (ids : List IdSample) (rows : List RowTest) : State :=
  match s.fills.cur with
  | none => s
  | some f =>
    let c := s.cell f.p
    if s.asleep || c.down then s
    else match f.stage.toNat with
      | 1 => if !pass then s.abortFill else if s.granted f.p then (s.setPwr f.p .wiping).setFillStage f 2 else s
      | 2 => if c.pwr ≠ .wiping then s else if pass then ((s.wipeCell f.p).setPwr f.p .bist).setFillStage f 3 else s.abortFill
      | 3 =>
        let x := s.softRepair f.p rows
        if c.pwr ≠ .bist then s else if pass && !x.2 then (x.1.setPwr f.p .ready).setFillStage f 4 else x.1.abortFill
      | 4 =>
        let good := s.idsGood f.p ids
        let s := s.recordIds f.p ids
        if pass && good then s.setFillStage f 5 else (s.fenceIds f.p ids).abortFill
      | _ => if pass then s.mapFill f else s.abortFill

/-! ### Cell power stages (R397, R398, R307) -/

/-- A cell on its enable path fails its wipe or BIST: a cell under repair stays retired (R307), a cell of start-up is retired
(R401), a spare leaves the spares (R293). -/
def State.stageFails (s : State) (p : PCell) (stage : Nat) : State :=
  let c := s.cell p
  if c.toTest then s.startFails p stage
  else if c.repairing then
    ((s.report lvlCell (srcCell p) clsRepairfail .info (detX p stage 0xFFFF)).modCell p fun c => { c with repairing := false, again := false }).shutdown p
  else
    (((s.jackfail p stage 0xFFFF).modCell p fun c => { c with retired := true, spare := false }).shutdown p).geoRewriteBy c.mb

/-- A repaired cell has passed BIST for the second time (R307): with the words of start-up its fences are lifted and it becomes a spare. -/
def State.repairPasses (s : State) (p : PCell) (ids : List IdSample) : State :=
  let good := s.idsGood p ids
  let s := s.recordIds p ids
  if good then
    let lift (q : Port) : Port := { q with fenced := false, viols := [] }
    let s := s.modCell p fun c => { c with repairing := false, again := false, retired := false, spare := true, dep := lift c.dep, sep := lift c.sep }
    (s.geoRewriteBy (s.cell p).mb).report lvlCell (srcCell p) clsRepaired .info (detX p 4 0xFFFF)
  else s.stageFails p 4

/-- The cell is no longer used (R397): no command outstanding, no run, both engine levels zero. -/
def State.drained (s : State) (p : PCell) : Bool :=
  let c := s.cell p
  c.dep.cmds.isEmpty && c.sep.cmds.isEmpty && s.cba.lvl (portClient ⟨p, false⟩) == 0 && s.cba.lvl (portClient ⟨p, true⟩) == 0
    && !(s.running.any fun r => c.users.contains r.seq || (match c.logical with | some l => r.usesCell l | none => false))

/-- The shutdown wipe has ended (R397, R398): OFF, and an enable that waited begins at once. A word that fails read-back fails the
cell (R402). The registers of the cell's power domain (R435) stand at their reset values from then on (log entry 33). -/
def State.reachOff (s : State) (p : PCell) (pass : Bool) : State :=
  let c := s.cell p
  let s := (s.modCell p fun c => { c with down := false, enpend := false, tfFault := 0, rowStart := 0, users := [] }).setPwr p .off
  if pass then (if c.enpend then s.enable p else s)
  else if c.retired then (if c.repairing then (s.modCell p fun c => { c with repairing := false }).report lvlCell (srcCell p) clsRepairfail .info (detX p 2 0xFFFF) else s)
  else ((s.jackfail p 2 0xFFFF).modCell p fun c => { c with retired := true, spare := false }).geoRewriteBy c.mb

/-- BIST of a cell ends with the rows that failed (R303, R306-R308): they are mapped, and one that finds no spare row fails the cell. A
cell under repair then runs BIST again, and fails with any row that does not pass (R307). -/
def State.bistEnds (s : State) (p : PCell) (pass : Bool) (ids : List IdSample) (rows : List RowTest) : State :=
  let c := s.cell p
  if c.again then (if pass && !(rows.any fun r => r.p == p) then (s.setPwr p .ready).repairPasses p ids else s.stageFails p 3)
  else
    let x := s.softRepair p rows
    if !pass || x.2 then x.1.stageFails p 3
    else if c.repairing then x.1.modCell p fun c => { c with again := true }
    else (x.1.setPwr p .ready).modCell p fun c => { c with toTest := false }

/-- A stage of a cell's power path ends. The stages of a fill are `fillStage`. -/
def State.powerStage (s : State) (p : PCell) (pass : Bool) (ids : List IdSample) (rows : List RowTest) : State :=
  let c := s.cell p
  if s.asleep || (c.filling && !c.down) then s
  else match c.pwr with
    | .draining => if s.drained p then (s.modCell p fun c => { c with down := true }).setPwr p .wiping else s
    | .wiping => if c.toTest && !c.down then s else if c.down then (s.wipeCell p).reachOff p pass else if pass then (s.wipeCell p).setPwr p .bist else s.stageFails p 2
    | .off => if s.granted p && pass then s.setPwr p .wiping else s
    | .bist => s.bistEnds p pass ids rows
    | _ => s

/-! ### Patrol scrub (R403) and the checks of other reads (R293) -/

/-- Where a word lies: source level and id, address and structure of layout M (R328, R331), and whether it holds live state. A word of the
overlap or accumulate table that a start check reads is live. The operand cache is `cacheEcc`. -/
def State.scrubPlace (s : State) (w : ScrubWord) : BitVec 4 × BitVec 16 × Nat × Nat × Bool :=
  let inst : BitVec 16 := s.pins.instanceId.setWidth 16
  match w with
  | .cacheLine n =>
    (lvlQuadrant, BitVec.ofNat 16 (sliceQuad (homeSlice (n * 256))).val, 0, 4, match s.lineAt n with | some l => l.held != 0 | none => false)
  | .stash i =>
    match s.stash.entries.find? fun x => x.idx == i with
    | some x => (lvlQuadrant, BitVec.ofNat 16 (x.slice / 2), bf x.loc 0 16 * 32, 5, x.placed && !x.spilled && !x.mark)
    | none => (lvlInstance, inst, 0, 5, false)
  | .route r => (lvlInstance, inst, r.toNat * 4, 6, s.desc r != 0)
  | .gen i => (lvlInstance, inst, i.toNat * 2, 7, (s.gen? i).isSome)
  | .dir i => (lvlInstance, inst, i, 8, s.stash.entries.any fun x => x.idx == i)
  | .claims i => (lvlInstance, inst, i, 9, true)
  | .service i => (lvlInstance, inst, i, 0x0A, true)

/-- Does the patrol read this word? It does so in SERVICE only; the last two are read by their own users at any time (R293, R403). -/
def patrolled (w : ScrubWord) : Bool :=
  match w with
  | .claims _ => false
  | .service _ => false
  | _ => true

/-- An uncorrectable error in live state (R293, R306): service-core RAM stops the instance, anything else voids the step. -/
def State.liveError (s : State) (w : ScrubWord) : State :=
  let (lvl, src, addr, struct, _) := s.scrubPlace w
  match w with
  | .cacheLine n => s.cacheEcc n 2 .uncorr
  | .service _ =>
    if s.pins.fwStop then s
    else (({ s with pins := { s.pins with fwStop := true } } : State).report lvl src clsEcc .instfatal (s.detM addr struct)).instFatal 0x01
  | _ => s.tableUncorr lvl src addr struct

/-- A word is read: a single-bit error is corrected, an uncorrectable one in live state is answered as R293 has it, in anything else the
word is rewritten with zero and no state changes. -/
def State.scrub (s : State) (w : ScrubWord) (ecc : Ecc) : State :=
  if s.asleep || (patrolled w && s.pins.life ≠ .service) then s
  else
    let (lvl, src, addr, struct, live) := s.scrubPlace w
    match ecc with
    | .ok => s
    | .corrected => match w with
      | .cacheLine n => s.cacheEcc n 2 .corrected
      | _ => s.report lvl src clsEcc .corrected (s.detM addr struct)
    | .uncorr => if live then s.liveError w else s

/-! ### Test access (R73, R404) -/

/-- Instructions that the TAP answers in a life-cycle state. -/
def tapAllowed (l : Life) (i : TapInstr) : Bool :=
  match i with
  | .bypass | .idcode | .samplePreload => true
  | _ => l == .blank || l == .test

/-- A TAP instruction is held; IDCODE shifts out its value. One that the life-cycle state does not permit is not answered. -/
def State.tapInstr (s : State) (i : TapInstr) : State :=
  if !tapAllowed s.pins.life i then s
  else
    let s := { s with tap := i }
    if i = .idcode then s.out (.tdo Config.idcode) else s

/-! ### Meanings -/

def execResetRelease (r : Release) (s : State) : Host.Outcome State Fault Refusal := .next (s.resetRises r)
def execResetAssert (s : State) : Host.Outcome State Fault Refusal := .next s.resetFalls
def execInstanceWipeDone (badCells : List PCell) (badOther : Bool) (s : State) : Host.Outcome State Fault Refusal := .next (s.wipeDone badCells badOther)
def execBootImageChunk (s : State) : Host.Outcome State Fault Refusal := .next s.chunk
def execFirmwareVerifyDone (s : State) : Host.Outcome State Fault Refusal := .next s.verified
def execFillStageDone (pass : Bool) (ids : List IdSample) (rows : List RowTest) (s : State) : Host.Outcome State Fault Refusal :=
  .next (s.fillStage pass ids rows).settle
def execCellPowerStageDone (p : PCell) (pass : Bool) (ids : List IdSample) (rows : List RowTest) (s : State) : Host.Outcome State Fault Refusal :=
  .next (s.powerStage p pass ids rows).finishStart.settle
def execPatrolScrub (w : ScrubWord) (ecc : Ecc) (s : State) : Host.Outcome State Fault Refusal := .next (s.scrub w ecc).settle
def execTapInstruction (i : TapInstr) (s : State) : Host.Outcome State Fault Refusal := .next (s.tapInstr i)

end Sys2Proof.Machine
end

