-- ==== Sys2Proof/Machine/Registers.lean ====
section
/-! DEFINITION. The control bus and the register map (R11-R16, R70, R363, R417-R437): host reads with the latches of 64-bit pairs,
host writes, Bunting, the route window, the doorbells and request buffers, GTC_LAUNCH. -/

namespace Sys2Proof.Machine

/-! ### Registers as a host reads them -/

def loW {w : Nat} (x : BitVec w) : Word := x.setWidth 32
def hiW {w : Nat} (x : BitVec w) : Word := w32 (x.toNat / 2 ^ 32)

/-- A word of an array of words behind consecutive offsets, none past its end. -/
def wordAt (l : List Word) (i : Nat) : Option Word := l[i]?

def orlId (s : State) : Word := w32 (0x6400 * 65536 + s.pins.stepping.toNat * 4096 + gradeBits s * 1024 + s.pins.instanceId.toNat)
def orlCtl (s : State) : Word := w32 (bitAt s.glob.halt 1 + bitAt s.glob.detmode 0)
def orlSts (s : State) : Word := w32 (bitAt s.pins.ready 31 + s.pins.bootErr.toNat * 16 + s.pins.boot.toNat)
def orlLife (s : State) : Word := w32 (bitAt s.pins.trans 31 + s.pins.life.code)

/-- Registers at global offsets (R425), as (offset, value). -/
def globalRegs (s : State) : List (Nat × Word) :=
  [(0x00, orlId s), (0x04, s.dclass.setWidth 32), (0x08, orlCtl s), (0x0C, orlSts s), (0x10, orlLife s),
   (0x20, s.glob.irqSts.setWidth 32), (0x24, s.glob.irqEn.setWidth 32), (0x30, s.glob.fmtPolicy),
   (0x40, s.glob.stashCfg), (0x44, loW s.glob.spillBase), (0x48, hiW s.glob.spillBase), (0x4C, s.glob.spillSize),
   (0x50, w32 s.stash.entries.length), (0x54, stashUse s), (0x58, stashSts s), (0x60, s.glob.genCfg), (0x64, genSts s),
   (0x70, s.glob.tmbCfg), (0x74, tmbSts s), (0x78, loW s.tmb.replay), (0x7C, hiW s.tmb.replay),
   (0x80, s.par.mcfg), (0x84, s.par.holders), (0x88, s.par.hcfg), (0x8C, parSts s),
   (0x90, loW s.ckpt.base), (0x94, hiW s.ckpt.base), (0x98, loW s.ckpt.stepArm), (0x9C, hiW s.ckpt.stepArm), (0xA0, ckptSts s),
   (0xC0, wqSts (s.pkg.wq.get 0)), (0xC4, wqSts (s.pkg.wq.get 1)), (0xC8, wqSts (s.pkg.wq.get 2)), (0xCC, wqSts (s.pkg.wq.get 3))]

/-- Registers of the tick and step block (R430), offsets from 0x8000. -/
def tickRegs (s : State) : List (Nat × Word) :=
  [(0x00, loW s.clk.gtc), (0x04, hiW s.clk.gtc), (0x08, loW s.clk.launch), (0x0C, hiW s.clk.launch), (0x10, syncCtl s), (0x14, gtcSkew s),
   (0x20, loW s.step.count), (0x24, hiW s.step.count), (0x28, stepCtl s), (0x30, loW s.glob.seed), (0x34, hiW s.glob.seed),
   (0x38, s.glob.vshard), (0x40, loW s.glob.cursor), (0x44, hiW s.glob.cursor), (0x50, digestCtl s), (0x58, loW s.dig.last), (0x5C, hiW s.dig.last)]

/-- Registers of the Pennant block (R431), offsets from 0x02_0000. -/
def pennantRegs (s : State) : List (Nat × Word) :=
  [(0x00, s.log.head), (0x04, s.log.tail), (0x08, s.log.lost), (0x0C, pntCtl s), (0x10, loW s.log.flushBase), (0x14, hiW s.log.flushBase)]

/-- CBA_GRANTED, CBA_PEAK and CBA_CLIENT_CAP (R395). -/
def cbaGranted (c : Cba) : Word := w32 (c.orlSum * 65536 + c.total)
def cbaPeak (c : Cba) : Word :=
  w32 (((List.range 209).filter fun n => decide (c.lvl n < c.wants n)).length * 2 ^ 24 + c.peak)
def cbaClient (c : Cba) (n : Nat) : Word := w32 (c.lvl n * 65536 + (if n < 136 then c.capOf n else c.wants n))

def budgetReg (s : State) (o : Nat) : Option Word :=
  if o = 0 then some (s.cba.budget.setWidth 32)
  else if o = 4 then some (s.cba.ramp.setWidth 32)
  else if o = 8 then some (cbaGranted s.cba)
  else if o = 0xC then some (cbaPeak s.cba)
  else if 0x100 ≤ o && o % 4 = 0 && (o - 0x100) / 4 < 209 then some (cbaClient s.cba ((o - 0x100) / 4))
  else none

/-- A mailbox (R349): the response buffer reads zero but in DONE. -/
def mboxReg (m : Mbox) (o : Nat) : Option Word :=
  if o = 0 then some 0
  else if o = 4 then some (mbStatus m)
  else if o = 8 then some (m.classes.setWidth 32)
  else if 0x100 ≤ o && o < 0x200 && o % 4 = 0 then some (m.req.extractLsb' (8 * (o - 0x100)) 32)
  else if 0x200 ≤ o && o < 0x300 && o % 4 = 0 then some (if m.st = .done then m.rsp.extractLsb' (8 * (o - 0x200)) 32 else 0)
  else none

/-- Logical cells that a Bunting offset addresses, and the cell offset (R363): none outside the Bunting windows. -/
def State.buntAt (s : State) (o : Nat) : Option (List PCell × Nat) :=
  let cells (f : Nat → Bool) : List PCell := ((List.range 64).filter f).filterMap fun j => s.physOf (BitVec.ofNat 6 j)
  if 0x400000 ≤ o && o < 0x402000 then some (cells fun _ => true, o - 0x400000)
  else if 0x440000 ≤ o && o < 0x460000 then
    some (cells fun j => match s.glob.bunt[(o - 0x440000) / 0x2000]? with | some m => m.getLsbD j | none => false, (o - 0x440000) % 0x2000)
  else none

/-- OR of a cell register over the addressed cells (R363). -/
def State.buntOr (s : State) (cells : List PCell) (o : Nat) : Word := cells.foldl (fun a p => a ||| (cellReg s p o).getD 0) 0

/-- The register at an offset, none where none lies (R15, R417). -/
def regAt (s : State) (o : Nat) : Option Word :=
  if o < 0x8000 then
    if 0x100 ≤ o && o < 0x200 && o % 4 = 0 then some ((s.glob.geo[(o - 0x100) / 4]?).getD 0)
    else if 0x400 ≤ o && o < 0x480 && o % 8 = 0 then (s.glob.bunt[(o - 0x400) / 8]?).map loW
    else if 0x400 ≤ o && o < 0x480 && o % 8 = 4 then (s.glob.bunt[(o - 0x400) / 8]?).map hiW
    else ((globalRegs s).find? (·.1 = o)).map (·.2)
  else if o < 0x10000 then ((tickRegs s).find? (·.1 = o - 0x8000)).map (·.2)
  else if o < 0x12000 then (s.mbs[(o - 0x10000) / 0x400]?).bind fun m => mboxReg m ((o - 0x10000) % 0x400)
  else if o < 0x20000 then none
  else if o < 0x21000 then ((pennantRegs s).find? (·.1 = o - 0x20000)).map (·.2)
  else if o < 0x29000 then if o % 4 = 0 then some (s.ringWord ((o - 0x21000) / 4)) else none
  else if o < 0x40000 then none
  else if o < 0x40444 then budgetReg s (o - 0x40000)
  else if o < 0x80000 then none
  else if h : o < 0xA0000 then quadReg s ⟨(o - 0x80000) / 0x8000, by omega⟩ ((o - 0x80000) % 0x8000)
  else if o < 0x100000 then none
  else if h : o < 0x188000 then cellReg s ⟨(o - 0x100000) / 0x2000, by omega⟩ ((o - 0x100000) % 0x2000)
  else if o < 0x600000 then
    match s.buntAt o with
    | some (cells, c) => if (cellReg s 0 c).isSome then some (s.buntOr cells c) else none
    | none => none
  else if o < 0x800000 then
    if o % 4 = 0 then some ((s.desc (BitVec.ofNat 14 ((o - 0x600000) / 128))).extractLsb' (8 * (o % 128)) 32) else none
  else none

/-- During an instance wipe every register reads its reset value and the windows read zero (R423); the Pennant registers and
ORL_STS answer, and so does the record window of an instance that the clock check holds (R29). -/
def wipeView (s : State) : State :=
  let p : Pins := State.reset.pins
  { State.reset with
    pins := { p with stepping := s.pins.stepping, serial := s.pins.serial, life := s.pins.life, preRstN := s.pins.preRstN, instanceId := s.pins.instanceId,
                     gradeS := s.pins.gradeS, boot := s.pins.boot, bootErr := s.pins.bootErr }
    log := { s.log with ring := if s.pins.held then s.log.ring else [] } }

def State.regRead (s : State) (o : Nat) : Option Word := regAt (if s.pins.wiping then wipeView s else s) o

/-- _LO offsets of the 64-bit pairs (R16, R419): of the register blocks; the Bunting windows have no latch. -/
def isPairLo (o : Nat) : Bool :=
  [0x44, 0x78, 0x90, 0x98, 0x13C, 0x8000, 0x8008, 0x8020, 0x8030, 0x8040, 0x8058, 0x20010].contains o
  || (decide (0x400 ≤ o) && decide (o < 0x480) && o % 8 == 0)
  || (decide (0x80000 ≤ o) && decide (o < 0xA0000) && o % 0x8000 == 0x18)
  || (decide (0x100000 ≤ o) && decide (o < 0x188000) && decide (0x100 ≤ o % 0x2000) && decide (o % 0x2000 < 0x1C0) && o % 8 == 0)

/-! ### Answers of the control bus -/

/-- DECERR with its Pennant (R14, R15). -/
def State.decerr (s : State) (off : BitVec 24) (write : Bool) : State :=
  (s.report lvlControl 0 0x0C .info (detB off write)).out (.cb 0 true)

def State.cbOk (s : State) (v : Word) : State := s.out (.cb v false)

def setLatch (l : List (Nat × Word)) (o : Nat) (w : Word) : List (Nat × Word) := (o, w) :: l.filter (·.1 ≠ o)

/-- A host read (R14-R16, R418, R419): its one side effect is the latch of a pair. -/
def State.hostRead (s : State) (off : BitVec 24) (be : BitVec 4) : State :=
  let o := off.toNat
  if !s.pins.rstN then s
  else if be ≠ 0xF || o % 4 ≠ 0 then s.decerr off false
  else match s.regRead o with
    | none => s.decerr off false
    | some v =>
      if isPairLo o then
        ({ s with glob := { s.glob with latches := setLatch s.glob.latches o ((s.regRead (o + 4)).getD 0) } } : State).cbOk v
      else if 4 ≤ o && isPairLo (o - 4) then
        match s.glob.latches.find? (·.1 = o - 4) with
        | some x => ({ s with glob := { s.glob with latches := s.glob.latches.filter (·.1 ≠ o - 4) } } : State).cbOk x.2
        | none => s.cbOk v
      else s.cbOk v

/-! ### Host writes (R361) -/

/-- A write of a host-writable register: nothing answers in reset, and a wipe drops it (R423). -/
def State.busWrite (s : State) (f : State → State) : State :=
  if !s.pins.rstN then s else if s.pins.wiping then s.cbOk 0 else f s

/-- ORL_IRQ_STS, W1C (R341). -/
def State.irqClear (s : State) (v : Word) : State :=
  ({ s with glob := { s.glob with irqSts := s.glob.irqSts &&& ~~~(v.setWidth 16) } } : State).cbOk 0

/-- ORL_IRQ_EN (R341). -/
def State.irqEnable (s : State) (v : Word) : State := ({ s with glob := { s.glob with irqEn := v.setWidth 16 } } : State).cbOk 0

/-- GTC_LAUNCH_LO: the half is held until _HI is written (R16, R419). A write to a non-master's GTC_LAUNCH has no effect (R379). -/
def State.launchLo (s : State) (v : Word) : State :=
  (if s.isMaster then ({ s with clk := { s.clk with launchLo := v } } : State) else s).cbOk 0

/-- GTC_LAUNCH_HI applies the 64 bits (R16, R283): 0 disarms, a tick still ahead arms, a passed one records LAUNCHLATE. The master
copies the value into every instance (R379). LAUNCHLATE is recorded at the write, while a job runs too, where the launch itself has no effect
before a pause: R283 says both (DESIGN CHOICE, log entry 50). -/
def State.launchHi (s : State) (v : Word) : State :=
  if !s.isMaster then s.cbOk 0
  else
    let t : Tick := v ++ s.clk.launchLo
    let ahead := decide (s.clk.gtc.toNat < t.toNat)
    let s := ({ s with clk := { s.clk.setLaunch with launch := t, armed := ahead } } : State).out (.wiquin none 4 t)
    let s := if t = 0 || ahead then s
      else s.report lvlInstance (s.pins.instanceId.setWidth 16) clsLaunchlate .info (s.detC 0xFFFF)
    s.cbOk 0

/-- A run of the route is running or held (R181, R422). -/
def State.routeTaken (s : State) (r : RouteId) : Bool :=
  s.takenRoutes.contains r

/-- A word of a descriptor (R181): dropped with DECERR while the route has a run running or held. -/
def State.routeWrite (s : State) (r : RouteId) (word : BitVec 5) (v : Word) : State :=
  let off : BitVec 24 := BitVec.ofNat 24 (0x600000 + r.toNat * 128 + word.toNat * 4)
  if s.routeTaken r then s.decerr off true
  else
    let sh := 32 * word.toNat
    let mask : Desc := (0xFFFFFFFF : Desc) <<< sh
    let d : Desc := (s.desc r &&& ~~~mask) ||| ((v.setWidth 1024) <<< sh)
    let rest := s.rt.desc.filter fun x => x.1 != r
    ({ s with rt := { s.rt with desc := if d = 0 then rest else (r, d) :: rest } } : State).cbOk 0

/-- A word of a request buffer (R349, R350): writable in IDLE and DONE. -/
def State.requestWrite (s : State) (n : Fin 8) (word : BitVec 6) (v : Word) : State :=
  let m := s.mbs.get n
  if m.st = .busy then s.decerr (BitVec.ofNat 24 (0x10100 + n.val * 0x400 + word.toNat * 4)) true
  else
    let sh := 32 * word.toNat
    let mask : BitVec 2048 := (0xFFFFFFFF : BitVec 2048) <<< sh
    ({ s with mbs := s.mbs.set n { m with req := (m.req &&& ~~~mask) ||| ((v.setWidth 2048) <<< sh) } } : State).cbOk 0

/-- RING (R350): a mailbox takes its request, or counts the ring while BUSY; while the boot ROM waits, MB0 delivers a chunk
(R346). -/
def State.ring (s : State) (n : Fin 8) : State :=
  let m := s.mbs.get n
  if n.val = 0 && s.pins.boot == 1 then s.chunk
  else if m.st = .busy then { s with mbs := s.mbs.set n { m with dropped := BitVec.ofNat 8 (satTo 0xFF (m.dropped.toNat + 1)) } }
  else { s with mbs := s.mbs.set n { m with st := .busy, rsp := 0, cur := some { req := m.req } }, fwOrder := s.fwOrder ++ [n.val] }

/-- ACK (R350): discards a presented response. -/
def State.ack (s : State) (n : Fin 8) : State :=
  let m := s.mbs.get n
  if m.st = .done then { s with mbs := s.mbs.set n { m with st := .idle, rsp := 0, cur := none } } else s

/-- A write of MB_DOORBELL; ACK and RING together discard and submit, as RING alone does in DONE. -/
def State.doorbell (s : State) (n : Fin 8) (v : Word) : State :=
  let s := if v.getLsbD 1 then s.ack n else s
  (if v.getLsbD 0 then s.ring n else s).cbOk 0

/-- W1C of TF_FAULT (R98): clearing VALID clears every field. A cell that is OFF, WIPING or BIST drops the write (R70). -/
def Cell.clearFault (c : Cell) (v : Word) : Cell :=
  if !c.pwr.answers then c
  else if v.getLsbD 31 then { c with tfFault := 0 }
  else if v.getLsbD 30 then { c with tfFault := c.tfFault &&& ~~~0x40000000 }
  else c

def State.faultClear (s : State) (p : PCell) (v : Word) : State := (s.modCell p fun c => c.clearFault v).cbOk 0

/-- A write at a Bunting offset (R363, R420): TF_FAULT takes it in every addressed cell; any other register draws one DECERR. -/
def State.buntWrite (s : State) (off : BitVec 24) (v : Word) : State :=
  match s.buntAt off.toNat with
  | some (cells, o) => if o = 0x18 then (cells.foldl (fun s p => s.modCell p fun c => c.clearFault v) s).cbOk 0 else s.decerr off true
  | none => s.decerr off true

/-- Windows whose writes a wipe drops with OK (R423): mailbox buffers, the record window, RV windows, the route window; and the
registers that the host may write. -/
def wipeDrops (o : Nat) : Bool :=
  o == 0x20 || o == 0x24 || o == 0x8008 || o == 0x800C
  || (decide (0x10000 ≤ o) && decide (o < 0x12000) && (o % 0x400 == 0 || (decide (0x100 ≤ o % 0x400) && decide (o % 0x400 < 0x300))))
  || (decide (0x21000 ≤ o) && decide (o < 0x29000))
  || (decide (0x100000 ≤ o) && decide (o < 0x188000) && (o % 0x2000 == 0x18 || (decide (0x400 ≤ o % 0x2000) && decide (o % 0x2000 < 0xC00))))
  || o == 0x400018 || (decide (0x440000 ≤ o) && decide (o < 0x460000) && (o - 0x440000) % 0x2000 == 0x18)
  || (decide (0x600000 ≤ o) && decide (o < 0x800000))

/-- A host write (R12-R16, R361, R420): the register that the offset names decides. A write to a register that R15 does not let the host
write draws DECERR whatever the power state of its cell; R70 drops only the writes that a powered cell would take (DESIGN CHOICE, log
entry 86). -/
def State.hostWrite (s : State) (off : BitVec 24) (be : BitVec 4) (v : Word) : State :=
  let o := off.toNat
  if !s.pins.rstN then s
  else if be ≠ 0xF || o % 4 ≠ 0 then s.decerr off true
  else if s.pins.wiping then (if wipeDrops o then s.cbOk 0 else s.decerr off true)
  else if o = 0x20 then s.irqClear v
  else if o = 0x24 then s.irqEnable v
  else if o = 0x8008 then s.launchLo v
  else if o = 0x800C then s.launchHi v
  else if h : 0x10000 ≤ o ∧ o < 0x12000 then
    let n : Fin 8 := ⟨(o - 0x10000) / 0x400, by omega⟩
    let x := o % 0x400
    if x = 0 then s.doorbell n v
    else if 0x100 ≤ x && x < 0x200 then s.requestWrite n (BitVec.ofNat 6 ((x - 0x100) / 4)) v
    else s.decerr off true
  else if h : 0x100000 ≤ o ∧ o < 0x188000 then
    if o % 0x2000 = 0x18 then s.faultClear ⟨(o - 0x100000) / 0x2000, by omega⟩ v else s.decerr off true
  else if 0x600000 ≤ o && o < 0x800000 then s.routeWrite (BitVec.ofNat 14 ((o - 0x600000) / 128)) (BitVec.ofNat 5 (o % 128 / 4)) v
  else s.buntWrite off v

/-! ### Meanings -/

def execMbRing (n : Fin 8) (s : State) : Host.Outcome State Fault Refusal := .next (s.busWrite fun s => s.doorbell n 1)
def execMbAck (n : Fin 8) (s : State) : Host.Outcome State Fault Refusal := .next (s.busWrite fun s => s.doorbell n 2)
def execMbRequestWrite (n : Fin 8) (word : BitVec 6) (val : Word) (s : State) : Host.Outcome State Fault Refusal :=
  .next (s.busWrite fun s => s.requestWrite n word val)
def execRouteWindowWrite (route : RouteId) (word : BitVec 5) (val : Word) (s : State) : Host.Outcome State Fault Refusal :=
  .next (s.busWrite fun s => s.routeWrite route word val)
def execGtcLaunchHiWrite (val : Word) (s : State) : Host.Outcome State Fault Refusal := .next (s.busWrite fun s => s.launchHi val)
def execIrqStsW1c (val : Word) (s : State) : Host.Outcome State Fault Refusal := .next (s.busWrite fun s => s.irqClear val)
def execIrqEnWrite (val : Word) (s : State) : Host.Outcome State Fault Refusal := .next (s.busWrite fun s => s.irqEnable val)
def execTfFaultClear (p : PCell) (val : Word) (s : State) : Host.Outcome State Fault Refusal := .next (s.busWrite fun s => s.faultClear p val)
def execBuntingWrite (off : BitVec 24) (be : BitVec 4) (val : Word) (s : State) : Host.Outcome State Fault Refusal := .next (s.hostWrite off be val)
def execBuntingRead (off : BitVec 24) (s : State) : Host.Outcome State Fault Refusal := .next (s.hostRead off 0xF)
def execPairLoReadLatch (off : BitVec 24) (s : State) : Host.Outcome State Fault Refusal := .next (s.hostRead off 0xF)
def execPairHiRead (off : BitVec 24) (s : State) : Host.Outcome State Fault Refusal := .next (s.hostRead off 0xF)
def execRegisterWrite (off : BitVec 24) (be : BitVec 4) (val : Word) (s : State) : Host.Outcome State Fault Refusal := .next (s.hostWrite off be val)
def execHostReadDecerr (off : BitVec 24) (be : BitVec 4) (s : State) : Host.Outcome State Fault Refusal := .next (s.hostRead off be)

end Sys2Proof.Machine
end

