-- ==== Sys2Proof/Machine/Mailbox.lean ====
section
/-! DEFINITION. The Trisia protocol (R349-R357, R364): requests, the checks that every command has in common, the order of commands,
results and responses. A command that must wait is begun again at a later step with the same request. -/

namespace Sys2Proof.Machine

/-! ### Results (R353) -/

def resOk : BitVec 16 := 0x0000
def resBadhdr : BitVec 16 := 0x0001
def resBadop : BitVec 16 := 0x0002
def resBadlen : BitVec 16 := 0x0003
def resBadfield : BitVec 16 := 0x0004
def resDenied : BitVec 16 := 0x0005
def resNotmaster : BitVec 16 := 0x0006
def resState : BitVec 16 := 0x0007
def resBusy : BitVec 16 := 0x0008
def resRange : BitVec 16 := 0x0009
def resLate : BitVec 16 := 0x000A
def resFull : BitVec 16 := 0x000B
def resMismatch : BitVec 16 := 0x000C
def resGenwait : BitVec 16 := 0x000D
def resDetrefused : BitVec 16 := 0x000E
def resVmismatch : BitVec 16 := 0x000F
def resCheck : BitVec 16 := 0x0010
def resFault : BitVec 16 := 0x0011
def resLosses : BitVec 16 := 0x0012
def resParstale : BitVec 16 := 0x0013
def resAborted : BitVec 16 := 0x0014

/-- A response without payload. -/
def answer (code : BitVec 16) (detail : Nat := 0) : Resp := ⟨code, w32 detail, []⟩

/-- OK with a payload. -/
def answerBytes (bs : List Byte) : Resp := ⟨resOk, 0, bs⟩

/-- What a command makes of its request: the state, its response (none: it is not done yet), what the response waits for. -/
abbrev Act := State × Option Resp × Wait

def ends (s : State) (r : Resp) : Act := (s, some r, .none)
def endsOk (s : State) : Act := ends s (answer resOk)
def goesOn (s : State) : Act := (s, none, .none)

/-! ### Commands (R354, R355, R357) -/

/-- A row of R357: class bit, scope P, payload length, and the fields of the payload as (byte, bytes). -/
structure CmdRow where
  cls    : Nat
  pkg    : Bool
  len    : Nat
  fields : List (Nat × Nat)
  deriving DecidableEq, Repr

def clsQ : Nat := 0
def clsJ : Nat := 1
def clsR : Nat := 2
def clsM : Nat := 3
def clsA : Nat := 4

/-- Fields of the JOB_CONFIGURE payload (R358). -/
def jobFields : List (Nat × Nat) :=
  [(0, 8), (8, 8), (16, 4), (20, 4), (24, 4), (28, 4), (32, 4), (36, 4), (40, 8), (48, 8), (56, 4), (60, 8), (68, 8), (76, 2), (80, 4), (84, 4),
   (88, 4), (92, 1), (96, 8)]

/-- The commands by opcode (R357). A payload is as long as the fields its row lists. -/
def cmdRow (op : Nat) : Option CmdRow :=
  match op with
  | 0x0001 => some ⟨clsQ, false, 0, []⟩
  | 0x0002 => some ⟨clsQ, false, 3, [(0, 1), (1, 1), (2, 1)]⟩
  | 0x0003 => some ⟨clsQ, false, 0, []⟩
  | 0x0004 => some ⟨clsQ, true, 8, [(0, 6), (6, 1), (7, 1)]⟩
  | 0x0005 => some ⟨clsQ, false, 3, [(0, 2), (2, 1)]⟩
  | 0x0006 => some ⟨clsQ, false, 3, [(0, 2), (2, 1)]⟩
  | 0x0007 => some ⟨clsQ, false, 10, [(0, 8), (8, 2)]⟩
  | 0x0100 => some ⟨clsJ, true, 240, jobFields⟩
  | 0x0101 => some ⟨clsJ, false, 16, [(0, 8), (8, 2), (10, 2), (12, 4)]⟩
  | 0x0102 => some ⟨clsJ, false, 2, [(0, 2)]⟩
  | 0x0103 => some ⟨clsJ, false, 16, [(0, 2), (8, 8)]⟩
  | 0x0104 => some ⟨clsJ, false, 72, [(0, 2), (2, 2), (8, 64)]⟩
  | 0x0105 => some ⟨clsJ, false, 0, []⟩
  | 0x0106 => some ⟨clsJ, true, 8, [(0, 8)]⟩
  | 0x0107 => some ⟨clsJ, true, 1, [(0, 1)]⟩
  | 0x0108 => some ⟨clsJ, true, 1, [(0, 1)]⟩
  | 0x0109 => some ⟨clsJ, true, 0, []⟩
  | 0x010A => some ⟨clsJ, true, 72, [(0, 64), (64, 8)]⟩
  | 0x010B => some ⟨clsJ, true, 96, [(0, 6), (8, 8), (16, 4), (24, 8), (32, 64)]⟩
  | 0x010C => some ⟨clsJ, true, 4, [(0, 4)]⟩
  | 0x010D => some ⟨clsJ, true, 16, [(0, 8), (8, 8)]⟩
  | 0x010E => some ⟨clsJ, false, 16, [(0, 8), (8, 8)]⟩
  | 0x010F => some ⟨clsJ, false, 8, [(0, 8)]⟩
  | 0x0110 => some ⟨clsJ, false, 16, [(0, 1), (8, 8)]⟩
  | 0x0111 => some ⟨clsJ, false, 20, [(0, 1), (8, 8), (16, 4)]⟩
  | 0x0112 => some ⟨clsJ, false, 16, [(0, 1), (8, 8)]⟩
  | 0x0200 => some ⟨clsR, true, 12, [(0, 4), (4, 4), (8, 4)]⟩
  | 0x0201 => some ⟨clsR, true, 0, []⟩
  | 0x0202 => some ⟨clsR, true, 5, [(0, 1), (1, 1), (2, 1), (3, 1), (4, 1)]⟩
  | 0x0203 => some ⟨clsR, true, 40, [(0, 8), (8, 8), (16, 2), (20, 4), (24, 8), (32, 4), (36, 4)]⟩
  | 0x0204 => some ⟨clsR, true, 0, []⟩
  | 0x0205 => some ⟨clsR, true, 15, [(0, 8), (8, 6), (14, 1)]⟩
  | 0x0206 => some ⟨clsR, false, 1, [(0, 1)]⟩
  | 0x0300 => some ⟨clsM, false, 5, [(0, 4), (4, 1)]⟩
  | 0x0301 => some ⟨clsM, false, 16, [(0, 1), (8, 8)]⟩
  | 0x0302 => some ⟨clsM, false, 240, [(0, 8), (8, 2), (16, 224)]⟩
  | 0x0303 => some ⟨clsM, false, 40, [(0, 8), (8, 8), (16, 8), (24, 1), (28, 4), (32, 4), (36, 4)]⟩
  | 0x0304 => some ⟨clsM, false, 16, [(0, 4), (4, 4), (8, 1), (12, 4)]⟩
  | 0x0305 => some ⟨clsM, false, 2, [(0, 1), (1, 1)]⟩
  | 0x0306 => some ⟨clsM, true, 4, [(0, 4)]⟩
  | 0x0400 => some ⟨clsA, false, 1, [(0, 1)]⟩
  | 0x0401 => some ⟨clsA, false, 2, [(0, 1), (1, 1)]⟩
  | 0x0402 => some ⟨clsA, false, 24, [(0, 1), (1, 1), (8, 8), (16, 8)]⟩
  | _ => none

/-! ### Requests (R351) -/

abbrev Req := BitVec 2048

def reqOp (r : Req) : Nat := bf r 0 16

/-- Field of the payload: byte and bytes. -/
def pf (r : Req) (o n : Nat) : Nat := bf r (8 * (16 + o)) (8 * n)

/-- Bytes of the payload. -/
def payBytes (r : Req) (o n : Nat) : List Byte := (List.range n).map fun i => rowByte r (16 + o + i)

/-- VERSION, FLAGS, the reserved header bytes and the limit of LENGTH. -/
def headerBad (r : Req) : Bool := bf r 16 8 != 1 || bf r 24 8 != 0 || bf r 80 48 != 0 || decide (240 < bf r 64 16)

/-- The first payload byte that is not zero and that no field covers. -/
def reservedByte (k : CmdRow) (r : Req) : Option Nat :=
  (List.range k.len).find? fun i => rowByte r (16 + i) != 0 && !(k.fields.any fun f => decide (f.1 ≤ i) && decide (i < f.1 + f.2))

/-- The refusals that every command has in common (R353-R355), in this order (log entry 34). -/
def State.refusal (s : State) (n : Fin 8) (r : Req) : Option Resp :=
  if headerBad r then some (answer resBadhdr)
  else match cmdRow (reqOp r) with
    | none => some (answer resBadop)
    | some k =>
      if !((s.mbs.get n).classes.getLsbD k.cls) then some (answer resDenied)
      else if (k.cls = clsJ || k.cls = clsR) && s.pins.life != .service then some (answer resState 3)
      else if k.pkg && !s.isMaster then some (answer resNotmaster)
      else if bf r 64 16 ≠ k.len then some (answer resBadlen)
      else (reservedByte k r).map fun i => answer resBadfield i

/-! ### Order (R355) -/

/-- Commands of classes J, R and A, but for MB_GRANT, keep their order. -/
def ordered (op : Nat) : Bool :=
  op != 0x0401 && (match cmdRow op with | some k => k.cls == clsJ || k.cls == clsR || k.cls == clsA | none => false)

/-- Opcode of the request that a mailbox has taken. -/
def State.mbOp (s : State) (n : Nat) : Option Nat := (s.mbs[n]?).bind fun m => m.cur.map fun r => reqOp r.req

/-- Every ordered command that was rung earlier has responded. -/
def State.itsTurn (s : State) (n : Fin 8) (op : Nat) : Bool :=
  !ordered op || (s.fwOrder.takeWhile (· != n.val)).all fun m => match s.mbOp m with | some o => !ordered o | none => true

/-- Firmware runs and executes commands (R348, R356), until an error of service-core RAM stops it (R364). -/
def State.firmwareRuns (s : State) : Bool := s.pins.ready && !s.asleep && !s.pins.fwStop

/-! ### Execution -/

def State.setCur (s : State) (n : Fin 8) (r : MReq) : State := { s with mbs := s.mbs.set n { s.mbs.get n with cur := some r } }

/-- May a command start? None does while PRERESET_N is low (R364), but for an acknowledgement during a flush (R344). -/
def State.mayStart (s : State) (n : Fin 8) (op : Nat) : Bool :=
  (s.pins.preRstN || (op == 0x0300 && s.log.flush.isSome)) && s.itsTurn n op

/-- Lines that a command has asked for in all: a wait for further ones adds to those before it. -/
def Wait.plus (old new : Wait) : Wait :=
  match old, new with
  | .fill a, .fill b => .fill (a ++ b)
  | _, w => w

/-- A command of scope P. -/
def isPkgOp (op : Nat) : Bool := pkgOps.contains op

/-- What a command has made of its request is recorded. With its response, lines of other instances that it asked for have been used, and a
P command that is done here goes to every joined instance (R354). -/
def State.acted (n : Fin 8) (r : MReq) (y : Act) : State :=
  let s := y.1.setCur n { r with started := true, resp := y.2.1, wait := r.wait.plus y.2.2 }
  match y.2.1 with
  | none => s
  | some x =>
    let s := match r.wait with | .fill ls => { s with net := { s.net with away := s.net.away.filter fun l => !ls.contains l } } | _ => s
    if x.result = resOk && isPkgOp (reqOp r.req) && s.leadsPackage then s.out (.share r.req) else s

/-- Firmware executes the request of a mailbox if its opcode is one of `mine`, with the meaning `act`. A command that has begun
is not checked again. -/
def State.firmware (s : State) (n : Fin 8) (mine : Nat → Bool) (act : Req → State → Act) : State :=
  match (s.mbs.get n).cur with
  | none => s
  | some r =>
    if !s.firmwareRuns || !mine (reqOp r.req) || r.resp.isSome then s
    else if r.started then State.acted n r (act r.req s)
    else if !s.mayStart n (reqOp r.req) then s
    else match s.refusal n r.req with
      | some x => s.setCur n { r with started := true, resp := some x }
      | none => State.acted n r (act r.req s)

/-- A command with one opcode. -/
def State.trisia (s : State) (n : Fin 8) (op : Nat) (act : Req → State → Act) : State := s.firmware n (fun o => o == op) act

/-- A joined instance that is not the master applies a P command that the master shares (R354). The master has checked the request, and it
goes on once the instance says what came of it (log entry 6). A command that waits for lines is applied when they have come. -/
def State.applies (s : State) (op : Nat) (q : Req) (act : Req → State → Act) : State :=
  if !s.firmwareRuns || !s.pins.preRstN || !s.pkg.settled || s.isMaster || !s.pkg.present.getLsbD s.pins.instanceId.toNat || reqOp q != op then s
  else
    let y := act q s
    match y.2.1 with
    | none => y.1
    | some x => y.1.out (.shareDone (BitVec.ofNat 16 op) x.result)

/-- A command of scope P, of a mailbox or of the master. -/
def State.package (s : State) (n : Caller) (op : Nat) (act : Req → State → Act) : State :=
  match n with
  | .mailbox n => s.trisia n op act
  | .master q => s.applies op q act

/-- Has what a response waits for come about? A kick that is taken answers at once unless a void drops it first (R364). -/
def State.waitOver (s : State) (w : Wait) : Bool :=
  match w with
  | .none => true
  | .kick _ => true
  | .fill _ => true
  | .flush ls => !((List.finRange 6).any fun m => (s.msps.get m).txns.any fun t => t.write && ls.contains t.line)
  | .rows l => l.all fun x =>
      match (s.port x.1).find x.2.1 with
      | none => true
      | some c => match c.ls with
        | none => true
        | some p => decide (x.2.2.1 < p.next) || !p.segs.contains (x.2.2.1, x.2.2.2)

/-- The instance that a command has lost: one that the master has treated as lost while it ran (R372), or one that does not answer. -/
def State.lostOf (s : State) (r : MReq) (lost : Option (BitVec 3)) : Option (BitVec 3) :=
  match r.lost with
  | some i => some i
  | none => lost.filter fun i => s.others.contains i.toNat

/-- What a response carries when it is written: INFO the GTC of that moment (R357); a package command that has lost an instance ends with
ABORTED and names it (R353, R354). -/
def State.lastWord (s : State) (r : Req) (x : Resp) (lost : Option (BitVec 3)) : Resp :=
  match lost with
  | some i => if x.result = resOk && isPkgOp (reqOp r) then answer resAborted i.toNat else x
  | none => if reqOp r = 0x0001 && x.result = resOk then { x with payload := x.payload.take 8 ++ bytesOf 8 s.clk.gtc.toNat } else x

/-- The response of a mailbox is written (R350, R352). `lost` names an instance that became unreachable during the command. -/
def State.mbRespond (s : State) (n : Fin 8) (lost : Option (BitVec 3)) : State :=
  match (s.mbs.get n).cur with
  | none => s
  | some r =>
    match r.resp with
    | none => s
    | some x => if s.firmwareRuns && s.waitOver r.wait then s.respond n.val (rspBits r.req (s.lastWord r.req x (s.lostOf r lost))) else s

/-! ### Job memory as firmware reaches it (R345) -/

/-- Local addresses below the usable capacity that no stack holds, as (first, end): the ends of the last granules where the capacity of a
stack is no multiple of a granule (R62, R165). -/
def State.holes (s : State) : List (Nat × Nat) :=
  let m := s.mspSet.length
  let g := s.stackCap / 4096 * m
  if s.stackCap % 4096 = 0 then [] else (List.range m).map fun k => ((g + k) * 4096 + s.stackCap % 4096, (g + k + 1) * 4096)

/-- Every byte lies in memory of one present instance. -/
def State.inMem (s : State) (pa n : Nat) : Bool :=
  n != 0 && !s.isDefault pa && !s.isDefault (pa + n - 1) && paOwner pa == paOwner (pa + n - 1)
    && !(s.ownPa pa && s.holes.any fun h => decide (h.1 < paLocal pa + n) && decide (paLocal pa < h.2))

/-- Asks for the lines of pieces at QoS 15; the command goes on once they are there, or fails with them (R63, R353), at once where a line
lies at a fenced port (R75). -/
def State.awaits (s : State) (ps : List (Nat × Nat)) : Act :=
  let t := s.fetchPieces ps svcIni
  let ls := ps.flatMap fun x => (linesOf x.1 x.2).filter fun l => !s.lineReady l x.1 x.2
  if ls.any fun l => (s.fencedAt l).isSome && s.ownPa (l * 256) then ends t (answer resFault 0x0E)
  else (t, none, .fill (ps.flatMap fun x => linesOf x.1 x.2))

/-- Reads pieces of memory once their lines are there, asking for them at QoS 15. -/
def State.fwRead (s : State) (ps : List (Nat × Nat)) (k : State → Act) : Act :=
  if s.piecesReady ps then k s else s.awaits ps

/-- The walks of quadrant 0's ATU for the pages at these addresses, with their table entries at QoS 15 (R116, log entry 35). -/
def State.fwWalk (s : State) (vas : List Nat) (k : State → Act) : Act :=
  match s.walkMiss 0 (pagesOf vas) with
  | some pa => s.awaits [(pa, 8)]
  | none => k (s.cacheLeaves 0 (pagesOf vas))

/-! ### Meanings -/

def execMbResponse (n : Fin 8) (lost : Option (BitVec 3)) (s : State) : Host.Outcome State Fault Refusal := .next (s.mbRespond n lost)

/-- An opcode that R357 does not list (R351, R353). -/
def execReservedTrisiaOpcode (n : Fin 8) (s : State) : Host.Outcome State Fault Refusal :=
  .next (s.firmware n (fun o => (cmdRow o).isNone) fun _ s => ends s (answer resBadop))

end Sys2Proof.Machine
end

