-- ==== Sys2Proof/Machine/RunEnd.lean ====
section
/-! DEFINITION. The end of runs (R157, R191, R192, R214, R228, R272, R287, R313), and the meanings of the commands about routes,
address translation, memory-side ports, the network, the stash and generations. -/

namespace Sys2Proof.Machine

/-! ### Ends -/

/-- The Pennant of values that a format could not hold (R157). -/
def State.noteRanged (s : State) (q : QuadNo) (r : Run) : State :=
  if r.ranged = 0 then s else s.reportN lvlRoute (srcRoute q r.route) clsFmtrange .info r.ranged (detN r.route)

/-- A run has moved everything: what is left of its destination bytes is folded, and it ends with OK, or with DECERR when a
line of it met the default target (R191, R192, R287). FMTRANGE is recorded here alone: R157 speaks of a route that completes, so a run that
stops with a fault records none, whatever it has counted, and one that ends with DECERR has moved everything (DESIGN CHOICE, log entry 107). -/
def State.finishRun (s : State) (q : QuadNo) (r : Run) : State :=
  let s := if r.tail.isEmpty then s else s.fold (r.route.setWidth 16) r.tail
  let s := s.noteRanged q r
  match r.decerr with
  | some d => s.endRun q r .decerr d
  | none => s.endRun q r .ok 0

/-- A stop that waited for the windows before it (R224, R228). -/
def State.stopRun (s : State) (q : QuadNo) (r : Run) (code : Code) (detail : Word) (ix : Option (Nat × Word)) : State :=
  match ix with
  | some (pos, v) => (s.report lvlRoute (srcRoute q r.route) code.byte .info (detI r.route pos v)).endRun q r code detail false
  | none => s.endRun q r code detail

/-- Has a run moved everything? -/
def State.moved (s : State) (r : Run) : Bool :=
  let k := dKind r.desc
  if k = kSCATTER then decide (winCount r.desc ≤ r.nextWin) && r.indexedDone
  else if k = kPARITY then s.parityDone r
  else if k = kPUT || k = kGET then false
  else decide (unitCount r.desc ≤ r.next)

/-- A PARITY_DELTA run that ends with OK covers its tensor for the step (R316). -/
def State.noteParity (s : State) (r : Run) : State :=
  if dKind r.desc = kPARITY && r.decerr.isNone then { s with par := { s.par with okIdx := epGenIdx (srcWord r.desc) :: s.par.okIdx } } else s

/-- The end of the running run of a route. -/
def State.runEnd (s : State) (route : RouteId) : State :=
  match s.runOf route with
  | none => s
  | some (q, r) =>
    match r.stop with
    | some (code, detail, ix) => if r.indexedDone then s.stopRun q r code detail ix else s
    | none => if s.moved r then (s.noteParity r).finishRun q r else s

/-! ### Lines -/

/-- A line of a run has come: a unit, a merge block or a parity message by the run's kind. -/
def State.lineCome (s : State) (route : RouteId) (unit : Nat) (rows : List RowEcc) (ecc : Ecc) : State :=
  match s.runOf route with
  | none => s
  | some (q, r) =>
    if dKind r.desc = kMERGE then s.mergeBlock q r unit ecc
    else if dKind r.desc = kPARITY then s.parityUnit q r unit ecc
    else s.lineArrives route unit rows ecc

/-- A line of a run faults in translation or decodes to the default target (R192). -/
def State.lineBad (s : State) (route : RouteId) (unit : UnitRead) : State :=
  match s.runOf route with
  | none => s
  | some (q, r) =>
    if dKind r.desc = kMERGE then
      if (s.firstFault q (s.blockVas r.desc unit.unit)).isSome then s.mergeBlock q r unit.unit unit.ecc.line else s
    else if dKind r.desc = kPARITY then s.parityUnit q r unit.unit unit.ecc.line
    else s.lineFaults route unit.unit unit.ecc

/-- Does the command of a tag store? -/
def State.tagStores (s : State) (e : EPort) (tag : Byte) : Bool := match (s.port e).find tag with | some c => c.op == opTSTORE | none => false

/-- A walk of the ATU completes for a row, a line or another initiator (R113-R116). -/
def State.walkDone (s : State) (w : Who) (ecc : Ecc) : State :=
  match w with
  | .row e tag row => s.rowWalk e tag row.toNat (s.tagStores e tag) ecc
  | .line route va _ =>
    match s.runOf route with
    | none => s
    | some (q, r) =>
      let reads := s.walkReads q (pagesOf [va.toNat])
      let w := s.walkedFor q r.seq [va.toNat] (r.ini q)
      if !w.2 || reads.isEmpty then w.1
      else if ecc = .uncorr then (s.walkEcc reads r.qos ecc).runUncorr q r.seq
      else w.1.walkEcc reads r.qos ecc
  | .other => s

/-- The default target answers (R175, R176, R192). What another instance's capacity is does not stand in this one's state, so the answer to
an address of another owner is taken as it comes (log entry 9). -/
def State.defaultDone (s : State) (q : QuadNo) (port : BitVec 5) (addr : PAddr) (write : Bool) (w : Who) : State :=
  if s.asleep || !(s.isDefault addr.toNat || !s.ownPa addr.toNat) then s
  else match w with
    | .row e tag row =>
      let store := s.tagStores e tag
      (match s.lsRow e tag row.toNat store with
       | none => s
       | some x =>
        let walk := x.2.segs.all fun y => y.1 != row.toNat
        (s.defaultAnswer (quadOf e.p) addr (whoPort w walk port) (store && !walk)).rowDefault e tag row.toNat store addr.toNat)
    | .line route va wr => s.lineDefault q route addr.toNat va.toNat wr
    | .other => s.defaultAnswer q addr port write

/-! ### The stream prefetcher (R198, R209) -/

/-- What a prefetcher walks: its elements in destination order from the first that the run has not read, their number, the bits of one in
all planes, the length of an innermost run whose scale bytes are read, and where its source lies as (virtual address, bytes). -/
structure PfView where
  first  : Nat
  total  : Nat
  bits   : Nat
  scaled : Option Nat
  source : Nat → List (Nat × Nat)

/-- At most so many source bytes hold n elements (R198): of each innermost run the scale bytes of a block that it begins or ends within count
in full. -/
def PfView.bytes (v : PfView) (n : Nat) : Nat :=
  ceilDiv (n * v.bits) 8 + (match v.scaled with | some k => n / 32 + 2 * (n / k + 2) | none => 0)

/-- Bits of an element in the planes that a run reads, and whether its scale is read. -/
def Run.srcBits (r : Run) : Nat := fmtBits r.sv.fmt * (planesOf r.sv.fmt - r.mode.lowPlane)
def Run.srcScaled (r : Run) : Bool := readsScale r.mode r.sv.fmt

/-- Source lines of one message of a PARITY_DELTA are those of both slots (R313). -/
def parityPf (g : Gen) (r : Run) : PfView :=
  { first := min (31 * r.next) g.plen.toNat, total := g.plen.toNat, bits := 4096, scaled := none
    source := fun j => [(vaOf (g.base true) (256 * j : Nat), 256), (vaOf (g.base false) (256 * j : Nat), 256)] }

/-- Local partials that a REDUCE_MERGE has still to read: its source is XSP, so no prefetcher walks them (R198, R270). -/
def State.mergeView (s : State) (r : Run) : PfView :=
  let d := r.desc
  let total := (List.range (mergeBlocks d)).foldl (fun a b => a + blockLen d b) 0
  ⟨if r.phase = 0 then min (1024 * r.blks.length) total else total, total, 32 * 2 ^ s.localLevel, none,
    fun e => (List.range (2 ^ s.localLevel)).map fun v => (partialVa d v e, 4)⟩

/-- The view of a run's prefetcher; a GATHER's walks the index tensor only. None where the source is neither MEM nor GEN. -/
def State.pfView (s : State) (r : Run) : Option PfView :=
  let d := r.desc
  let k := dKind d
  let n := dcnt d 0
  let bytes (l : List Nat) : List (Nat × Nat) := l.map fun a => (a, 1)
  if k = kPARITY then (s.parityGen r).map fun g => parityPf g r
  else if r.sv.rb ≠ 0 then none
  else if k = kGATHER then
    some ⟨min (256 * r.nextWin) (posCount d), posCount d, 8 * idxBytes d, none, fun e => [(idxVa d e, idxBytes d)]⟩
  else if k = kSCATTER then
    let w := ((List.range (winCount d)).takeWhile r.sent).length
    some ⟨min (256 * w) (posCount d) * n, posCount d * n, r.srcBits, none, fun e => bytes (elBytes r.sv 0 false (scatterSrc d (e / n)) (e % n))⟩
  else if movesUnits k then
    some ⟨r.next * n, unitCount d * n, r.srcBits, if r.srcScaled then some n else none, fun e => bytes (((r.needs (e / n) (e % n)).filter fun x => !x.2).map (·.1))⟩
  else none

/-- The prefetcher asks for the source lines of its next elements, at most 256 bytes of source, while it stays within its depth. A line that
would fault or decodes to the default target is skipped; a table entry that a walk needs is asked for first (R116, R166). -/
def State.prefetch (s : State) (route : RouteId) : State :=
  match s.runOf route with
  | none => s
  | some (q, r) =>
    match s.pfView r with
    | none => s
    | some v =>
      let lo := max v.first r.pf
      let hi := min v.total (lo + max 1 (2048 / v.bits))
      if dPfdepth r.desc = 0 || decide (hi ≤ lo) || decide (dPfdepth r.desc * 4096 < v.bytes (hi - v.first)) then s
      else
        let src := (List.range' lo (hi - lo)).flatMap v.source
        let w := s.walked q (src.map (·.1)) (engineIni q 9)
        if !w.2 then w.1
        else
          let ps := src.filterMap fun x => match w.1.xlate q x.1 false with | .pa a => if w.1.isDefault a then none else some (a, x.2) | _ => none
          (w.1.fetchPieces ps (engineIni q 9)).putRun q { r with pf := hi }

/-! ### Memory-side failures with no step in progress (R63, R115, R192, R294) -/

/-- Do these pieces, or the table entries of the walks for these addresses, lie in a line? -/
def State.meetsLine (s : State) (q : QuadNo) (vas : List Nat) (line : Nat) : Bool :=
  (vas.any fun a => match s.xlate q a false with | .pa p => p / 256 == line | _ => false)
    || (s.walkReads q (pagesOf vas)).any fun p => p / 256 == line

/-- Does a command wait for a line: for a row of a TLOAD, the walk of its next row, or the spilled entry of a STASHGET? -/
def State.cmdWaits (s : State) (e : EPort) (c : Cmd) (line : Nat) : Bool :=
  (match c.ls with
    | some p =>
      let n := match s.cfgOf e.p c.tileNo with | some k => k.bytes | none => 0
      let row := p.start + p.segs.length
      (!p.store && p.segs.any fun x => decide (p.next ≤ x.1) && !(p.held.any fun h => h.1 == x.1) && x.2.any fun y => (linesOf y.1 y.2).contains line)
        || (decide (row < p.n) && (s.walkReads (quadOf e.p) (pagePieces (p.rowVa row) n)).any fun a => a / 256 == line)
    | none => false)
  || (match c.stash.bind s.entry? with
    | some x => c.op == opSTASHGET && x.spilled && (s.spillPiece x).any fun y => (linesOf y.1 y.2).contains line
    | none => false)

/-- Addresses that a run has still to read. -/
def State.runVas (s : State) (r : Run) : List Nat :=
  let d := r.desc
  let k := dKind d
  let idx := if k = kGATHER || k = kSCATTER then (idxNeeds d r.nextWin).map (·.1) else []
  idx ++
    (if movesUnits k then ((List.range (unitCount d)).filter r.awaits).flatMap fun u => ((r.unitNeeds u).filter fun x => !x.2).map (·.1)
    else match if k = kMERGE then some (s.mergeView r) else s.pfView r with
      | some v => (List.range' v.first (v.total - v.first)).flatMap fun e => (v.source e).map (·.1)
      | none => [])
    ++ (r.wins.flatMap fun x => x.pending.flatMap fun y => (List.range y.2.length).map fun c => vaOf r.dv.base ((y.1 : Int) * dstStride d 1 + (4 * c : Nat)))

/-- Does a run wait for a line? -/
def State.runWaits (s : State) (q : QuadNo) (r : Run) (line : Nat) : Bool :=
  r.code.isNone && (s.meetsLine q (s.runVas r) line
    || (match r.stash.bind s.entry? with | some x => x.spilled && (s.spillPiece x).any fun y => (linesOf y.1 y.2).contains line | none => false))

/-- A line could not be read while no step was in progress: what waits for it completes or ends with UNCORR. -/
def State.failWaits (s : State) (line : Nat) : State :=
  let s := allPorts.foldl (fun s e => ((s.port e).cmds.filter fun c => s.cmdWaits e c line).foldl (fun s c => s.failUncorr e c.tag) s) s
  allQuads.foldl (fun s q => ((s.quad q).runs.filter fun r => s.runWaits q r line).foldl (fun s r => s.runUncorr q r.seq) s) s

/-- After an event on a memory-side port: reads named by these ids, or every one if the event fenced the port, that are outstanding no
longer have failed. A step in progress has been voided for them (R294). Misses that waited for the port go out (R174). -/
def State.afterMsp (t s : State) (m : Fin 6) (ids : List (BitVec 12)) : State :=
  let fenced := (t.msps.get m).fenced && !(s.msps.get m).fenced
  let lost := (s.msps.get m).txns.filter fun x =>
    !x.write && (fenced || ids.contains x.id) && !((t.msps.get m).txns.any fun y => y.id == x.id)
  (if s.step.running then t else (lost.map (·.line)).foldl State.failWaits t).missesGo m

/-- Ids that a sector's status fails: an uncorrectable or reserved one (R63, R74). -/
def failsId (id : BitVec 12) (status : BitVec 2) : List (BitVec 12) := if 2 ≤ status.toNat then [id] else []

/-- Are the memory-side ports still? The wipe of a life-cycle transition leaves what is on its way there (R342, R405). -/
def State.mspOff (s : State) : Bool := s.asleep && !(s.pins.rstN && s.pins.trans)

/-! ### Meanings -/

def execAtuWalkComplete (w : Who) (ecc : Ecc) (s : State) : Host.Outcome State Fault Refusal := .next (s.walkDone w ecc).settle
def execLoadRowArrival (e : EPort) (tag : Byte) (row : RowNo) (ecc : Ecc) (s : State) : Host.Outcome State Fault Refusal :=
  .next (s.loadRow e tag row.toNat ecc).settle
def execStoreRowWritten (e : EPort) (tag : Byte) (row : RowNo) (piece : Nat) (ecc : Ecc) (s : State) :
    Host.Outcome State Fault Refusal := .next (s.storeRow e tag row piece ecc).settle
def execArmedTickKick (now : Tick) (route : RouteId) (s : State) : Host.Outcome State Fault Refusal := .next ((s.atTick now).tickKick route)
def execRouteRunStart (q : QuadNo) (s : State) : Host.Outcome State Fault Refusal := .next (s.runStart q).settle
def execRouteLineArrival (route : RouteId) (unit : Nat) (ecc : UnitEcc) (s : State) : Host.Outcome State Fault Refusal :=
  .next (s.lineCome route unit ecc.rows ecc.line).settle
def execRouteLineFault (route : RouteId) (unit : UnitRead) (s : State) : Host.Outcome State Fault Refusal := .next (s.lineBad route unit).settle
def execRouteRunEnd (route : RouteId) (s : State) : Host.Outcome State Fault Refusal := .next (s.runEnd route).settle
def execStreamPrefetch (route : RouteId) (s : State) : Host.Outcome State Fault Refusal := .next (s.prefetch route)
def execIndexWindow (route : RouteId) (ecc : Ecc) (s : State) : Host.Outcome State Fault Refusal := .next (s.indexWindow route ecc).settle
def execWindowFoldDone (route : RouteId) (w : Nat) (rows : List RowEcc) (ecc : Ecc) (s : State) : Host.Outcome State Fault Refusal :=
  .next (s.foldDone route w rows ecc).settle
def execScatterPartialApply (route : RouteId) (w row : Nat) (ecc : Ecc) (s : State) : Host.Outcome State Fault Refusal :=
  .next (s.applyPartial route w row ecc).settle
def execPacketGrant (target nclk : Nat) (arrivals : List Packet) (credits : List VChan) (s : State) : Host.Outcome State Fault Refusal :=
  .next (if s.asleep then s else (s.grant target nclk arrivals credits).settle)
def execDefaultTargetAnswer (q : QuadNo) (port : BitVec 5) (addr : PAddr) (write : Bool) (w : Who) (s : State) : Host.Outcome State Fault Refusal :=
  .next (s.defaultDone q port addr write w).settle
def execFlitCrcFail (l : Link) (replayed : Bool) (reach : BitVec 8) (s : State) : Host.Outcome State Fault Refusal :=
  .next (if s.asleep then s else (s.flitFail l replayed reach).settle)
def execLinkFail (l : Link) (reach : BitVec 8) (s : State) : Host.Outcome State Fault Refusal :=
  .next (if s.asleep then s else (s.linkDown l reach).settle)
def execMspReadSector (m : Fin 6) (id : BitVec 12) (seq : BitVec 4) (status : BitVec 2) (data : Row) (s : State) : Host.Outcome State Fault Refusal :=
  .next (if s.mspOff then s else ((s.mspRead m id seq status data).afterMsp s m (failsId id status)).settle)
def execMspWriteResponse (m : Fin 6) (id : BitVec 12) (status : BitVec 2) (s : State) : Host.Outcome State Fault Refusal :=
  .next (if s.mspOff then s else ((s.mspWritten m id status).afterMsp s m []).settle)
def execMspTimeout (m : Fin 6) (id : BitVec 12) (now : Tick) (s : State) : Host.Outcome State Fault Refusal :=
  .next ((s.mspLate m id now).afterMsp s m [id]).settle
def execMspIdAck (m : Fin 6) (data : Word) (s : State) : Host.Outcome State Fault Refusal := .next (if s.asleep then s else ((s.mspIdent m data).afterMsp s m []).settle)
def execMspIdTimeout (m : Fin 6) (s : State) : Host.Outcome State Fault Refusal := .next (s.mspNoIdent m)
def execStashSpaceFreed (w : StashWho) (s : State) : Host.Outcome State Fault Refusal := .next (s.spaceFreed w).settle
def execStashTimeout (w : StashWho) (now : Tick) (s : State) : Host.Outcome State Fault Refusal := .next ((s.atTick now).stashTimeout w)
def execStashSpill (w : StashWho) (s : State) : Host.Outcome State Fault Refusal := .next (s.stashSpill w).settle
def execStashRefill (q : QuadNo) (s : State) : Host.Outcome State Fault Refusal := .next (s.stashRefill q)
def execStashRowTransfer (w : StashWho) (ecc : List RowEcc) (s : State) : Host.Outcome State Fault Refusal :=
  .next ((match w with | .port e tag => s.portTransfer e tag ecc | .run route => s.runTransfer route ecc).settle)
def execGenwaitRelease (route : RouteId) (s : State) : Host.Outcome State Fault Refusal := .next (s.genRelease route)
def execGenTimeout (route : RouteId) (now : Tick) (s : State) : Host.Outcome State Fault Refusal := .next ((s.atTick now).genLate route)

end Sys2Proof.Machine
end

