-- ==== Sys2Proof/Machine/TrisiaQuery.lean ====
section
/-! DEFINITION. The Trisia queries and the memory accesses of the host (R357): INFO, IDENT_READ, CELLMAP_READ, STEPREC_READ,
STASHDIR_READ, GENTAB_READ, MEM_READ, MEM_WRITE. -/

namespace Sys2Proof.Machine

/-- INFO; GTC comes in when the response is written (`State.lastWord`). -/
def State.info (s : State) (_ : Req) : Act :=
  ends s (answerBytes (b16 s.dclass.toNat ++ b8 s.pins.instanceId.toNat ++ b8 s.isMaster.toNat ++ b32 (Config.fwBuild s.pins.image).toNat
    ++ List.replicate 8 0))

/-- IDENT_READ: samples of an engine, identity words of a stack, the identity word of an instance. -/
def State.identRead (s : State) (r : Req) : Act :=
  let i := pf r 1 1
  let p := pf r 2 1
  match pf r 0 1 with
  | 1 =>
    if h : i < 68 then
      if 1 < p then ends s (answer resBadfield 2)
      else
        let e := s.port ⟨⟨i, h⟩, p == 1⟩
        ends s (answerBytes (bytesOf 8 e.idStart.toNat ++ bytesOf 8 e.idNow.toNat))
    else ends s (answer resBadfield 1)
  | 2 =>
    if h : i < 6 then
      let m := s.msps.get ⟨i, h⟩
      if m.capGb = 0 then ends s (answer resRange) else ends s (answerBytes (m.ident.flatMap fun w => b32 w.toNat))
    else ends s (answer resBadfield 1)
  | 3 =>
    if h : i < 8 then
      if i = s.pins.instanceId.toNat then ends s (answerBytes (bytesOf 8 (s.identityWord 0).toNat))
      else match s.pkg.words.get ⟨i, h⟩ with
        | some w => ends s (answerBytes (bytesOf 8 w.toNat))
        | none => ends s (answer resRange)
    else ends s (answer resBadfield 1)
  | _ => ends s (answer resBadfield 0)

/-- 16 bits of a physical cell in the answer of CELLMAP_READ. -/
def mapWord (c : Cell) : Nat :=
  bitAt c.logical.isSome 15 + bitAt c.spare 14 + bitAt c.retired 13 + bitAt c.filling 12 + (match c.logical with | some l => l.toNat | none => 0)

/-- CELLMAP_READ. -/
def State.cellmapRead (s : State) (_ : Req) : Act :=
  ends s (answerBytes ((allCells.flatMap fun p => b16 (mapWord (s.cell p))) ++ b32 (s.glob.geo.get 0).toNat))

/-- STEPREC_READ: records from a step downward; those no longer kept are left out. -/
def State.steprecRead (s : State) (r : Req) : Act :=
  let n := pf r 6 1
  if n = 0 || decide (3 < n) then ends s (answer resBadfield 6)
  else if 1 < pf r 7 1 then ends s (answer resBadfield 7)
  else
    let first : Option (BitVec 48) := if pf r 7 1 = 1 then s.step.records.head?.map (·.step) else some (BitVec.ofNat 48 (pf r 0 6))
    match first with
    | none => ends s (answer resRange)
    | some st =>
      if s.step.records.any fun x => x.step == st then
        ends s (answerBytes (((List.range n).filterMap fun i => s.step.records.find? fun x => x.step == st - BitVec.ofNat 48 i).flatMap StepRec.bytes))
      else ends s (answer resRange)

/-- STASHDIR_READ: directory entries, zero where unused. -/
def State.stashdirRead (s : State) (r : Req) : Act :=
  let first := pf r 0 2
  let n := pf r 2 1
  if n = 0 || decide (14 < n) then ends s (answer resBadfield 2)
  else if 65536 < first + n then ends s (answer resRange)
  else
    ends s (answerBytes ((List.range n).flatMap fun i =>
      match s.stash.entries.find? fun x => x.idx == first + i with | some x => bytesOf 16 x.word.toNat | none => List.replicate 16 0))

/-- GENTAB_READ. -/
def State.gentabRead (s : State) (r : Req) : Act :=
  let first := pf r 0 2
  let n := pf r 2 1
  if n = 0 || decide (3 < n) then ends s (answer resBadfield 2)
  else if 4096 < first + n then ends s (answer resRange)
  else
    ends s (answerBytes ((List.range n).flatMap fun i =>
      match s.gens.find? fun g => g.idx.toNat == first + i with | some g => s.genBytes g | none => List.replicate 64 0))

/-- Address and length of MEM_READ and MEM_WRITE, or their refusal. -/
def State.memArgs (s : State) (r : Req) : (Nat × Nat) ⊕ Resp :=
  let a := pf r 0 8
  let n := pf r 8 2
  if a % 32 ≠ 0 then .inr (answer resBadfield 0)
  else if n = 0 || decide (224 < n) || n % 32 != 0 then .inr (answer resBadfield 8)
  else if !s.inMem a n then .inr (answer resRange)
  else .inl (a, n)

/-- MEM_READ; an uncorrectable error voids the step (R34). -/
def State.fwMemRead (s : State) (ecc : Ecc) (r : Req) : Act :=
  match s.memArgs r with
  | .inr x => ends s x
  | .inl (a, n) =>
    s.fwRead [(a, n)] fun s =>
      let t := s.cacheEcc (a / 256) 15 ecc
      if ecc = .uncorr then ends t (answer resFault 0x0E) else ends t (answerBytes (s.readMem a n))

/-- MEM_WRITE. -/
def State.fwMemWrite (s : State) (ecc : Ecc) (r : Req) : Act :=
  match s.memArgs r with
  | .inr x => ends s x
  | .inl (a, n) =>
    let t := s.cacheEcc (a / 256) 15 ecc
    if ecc = .uncorr then ends t (answer resFault 0x0E) else endsOk (t.writeMem a (payBytes r 16 n))

/-! ### Meanings -/

def execInfo (n : Fin 8) (s : State) : Host.Outcome State Fault Refusal := .next (s.trisia n 0x0001 fun r s => s.info r)
def execIdentRead (n : Fin 8) (s : State) : Host.Outcome State Fault Refusal := .next (s.trisia n 0x0002 fun r s => s.identRead r)
def execCellmapRead (n : Fin 8) (s : State) : Host.Outcome State Fault Refusal := .next (s.trisia n 0x0003 fun r s => s.cellmapRead r)
def execSteprecRead (n : Fin 8) (s : State) : Host.Outcome State Fault Refusal := .next (s.trisia n 0x0004 fun r s => s.steprecRead r)
def execStashdirRead (n : Fin 8) (s : State) : Host.Outcome State Fault Refusal := .next (s.trisia n 0x0005 fun r s => s.stashdirRead r)
def execGentabRead (n : Fin 8) (s : State) : Host.Outcome State Fault Refusal := .next (s.trisia n 0x0006 fun r s => s.gentabRead r)
def execMemRead (n : Fin 8) (ecc : Ecc) (s : State) : Host.Outcome State Fault Refusal := .next (s.trisia n 0x0007 fun r s => s.fwMemRead ecc r).settle
def execMemWrite (n : Fin 8) (ecc : Ecc) (s : State) : Host.Outcome State Fault Refusal := .next (s.trisia n 0x0302 fun r s => s.fwMemWrite ecc r).settle

end Sys2Proof.Machine
end

