-- ==== Sys2Proof/Machine/TrisiaJob.lean ====
section
/-! DEFINITION. The Trisia job commands (R357): JOB_CONFIGURE with its checks and values (R358), routes, generations, the stash,
step control, translation, the operand cache, preemption, Bunting groups. -/

namespace Sys2Proof.Machine

/-! ### JOB_CONFIGURE (R358) -/

/-- Reserved bits of register values by payload byte. -/
def jobMasks : List (Nat × Nat) := [(20, 0xFFC0FC00), (24, 0xFC), (28, 0xFFFF)]

/-- Alignments of address fields by payload byte. -/
def jobAligns : List (Nat × Nat) := [(0, 4096), (40, 65536), (48, 65536), (60, 256), (68, 32)]

/-- A VSHARD_CFG value that R267 refuses. -/
def vshardBad (v : Nat) : Bool :=
  let vl := v % 32
  let nl := v / 256 % 32
  v &&& 0x60E0 != 0 || v / 2 ^ 15 % 2 == 0 || decide (vl < 6) || decide (16 < vl) || decide (vl < nl) || decide (15 < nl) || decide (2 ^ nl ≤ v / 65536)

/-- A field of zero selects its default. -/
def orDefault (x d : Nat) : Nat := if x = 0 then d else x

/-- Local regions of the block, as (local address, bytes). -/
def jobRegions (bs : List Byte) : List (Nat × Nat) :=
  [(fld bs 40 8, min 0x01000000 (fld bs 36 4) * 65536), (fld bs 48 8, fld bs 56 4 * 65536)]

/-- Tables that the block names, as (address, bytes). -/
def jobTables (bs : List Byte) : List (Nat × Nat) := [(fld bs 60 8, if fld bs 60 8 = 0 then 0 else 8192), (fld bs 68 8, 2 * fld bs 76 2)]

/-- The checks of R358 on the 240 bytes of a block; `v` is the VSHARD_CFG value, which stands at payload byte `vo`. -/
def State.jobCheck (s : State) (bs : List Byte) (v vo : Nat) : Option Resp :=
  let bad (o : Nat) : Option Resp := some (answer resBadfield o)
  if vshardBad v then bad vo
  else match jobMasks.find? fun x => fld bs x.1 4 &&& x.2 != 0 with
    | some x => bad x.1
    | none =>
      if fld bs 24 4 % 4 = 3 then bad 24
      else match jobAligns.find? fun x => fld bs x.1 8 % x.2 != 0 with
        | some x => bad x.1
        | none =>
          if 2 ^ 52 ≤ fld bs 0 8 then bad 0
          else if 2 ^ 48 ≤ fld bs 40 8 then bad 40
          else if 2 ^ 48 ≤ fld bs 48 8 then bad 48
          else if 4096 < fld bs 76 2 then bad 76
          else if orDefault (fld bs 84 4) 50000 ≤ 2 * orDefault (fld bs 80 4) 5000 then bad 84
          else if orDefault (fld bs 92 1) 9 < 6 || decide (12 < orDefault (fld bs 92 1) 9) then bad 92
          else match (List.range 4).find? fun i => orDefault (fld bs (97 + 2 * i) 1) 20 < 10 || decide (30 < orDefault (fld bs (97 + 2 * i) 1) 20) with
            | some i => bad (97 + 2 * i)
            | none =>
              let own := s.pins.instanceId.toNat * 2 ^ 48
              if ((jobRegions bs).any fun x => x.2 != 0 && !s.inMem (own + x.1) x.2) || ((jobTables bs).any fun x => x.2 != 0 && !s.inMem x.1 x.2) then
                some (answer resRange)
              else none

/-- Valid words of a recompute map (R248). -/
def validWords (w : Nat → Nat) : List (Nat × BitVec 14) :=
  (List.range 4096).filterMap fun l => if w l / 2 ^ 15 = 1 then some (l, BitVec.ofNat 14 (w l)) else none

/-- The configuration that a block gives, its tables read from memory (R68, R248, R358). -/
def State.jobOf (s : State) (bs : List Byte) (v : Nat) : JobCfg :=
  let map := fld bs 60 8
  { ptRoot := BitVec.ofNat 52 (fld bs 0 8)
    seed := BitVec.ofNat 64 (fld bs 8 8)
    vshard := w32 v
    fmtPolicy := w32 (fld bs 20 4)
    stashCfg := w32 (fld bs 24 4)
    genCfg := w32 (fld bs 28 4)
    tmbCfg := w32 (fld bs 32 4)
    spillSize := w32 (fld bs 36 4)
    spillLocal := BitVec.ofNat 48 (fld bs 40 8)
    mergeLocal := BitVec.ofNat 48 (fld bs 48 8)
    mergeSize := w32 (fld bs 56 4)
    recompute := if map = 0 then [] else validWords fun l => natOf (s.readMem (map + 2 * l) 2)
    hbList := (List.range (fld bs 76 2)).map fun i => BitVec.ofNat 16 (natOf (s.readMem (fld bs 68 8 + 2 * i) 2))
    hbPeriod := orDefault (fld bs 80 4) 5000 * 1000
    hbTimeout := orDefault (fld bs 84 4) 50000 * 1000
    mspTimeout := orDefault (fld bs 88 4) 100000
    netPeriod := BitVec.ofNat 4 (orDefault (fld bs 92 1) 9)
    fence := (List.range 4).map fun i => (orDefault (fld bs (96 + 2 * i) 1) 16, orDefault (fld bs (97 + 2 * i) 1) 20) }

/-- Pieces of memory that the tables of a block take. -/
def jobPieces (bs : List Byte) : List (Nat × Nat) := (jobTables bs).filter fun x => x.2 != 0

def State.jobConfigure (s : State) (r : Req) : Act :=
  let bs := payBytes r 0 240
  let v := fld bs 16 4
  if !s.glob.halt then ends s (answer resState 1)
  else match s.jobCheck bs v 16 with
    | some x => ends s x
    | none =>
      s.fwRead (jobPieces bs) fun s =>
        let c := s.jobOf bs v
        endsOk (if s.step.running then { s with job := { s.job with defJob := some c } } else s.applyJob c)

/-! ### Routes (R181, R187-R189, R207) -/

/-- A descriptor of the route table; a descriptor of zeros is not listed. -/
def State.setDesc (s : State) (i : RouteId) (d : Desc) : State :=
  let rest := s.rt.desc.filter fun x => x.1 != i
  { s with rt := { s.rt with desc := if d = 0 then rest else (i, d) :: rest } }

/-- Sets descriptors from `first` on from the bytes of a route binary, or to zero. -/
def State.setDescs (s : State) (first count : Nat) (bs : List Byte) : State :=
  (List.range count).foldl (fun s i => s.setDesc (BitVec.ofNat 14 (first + i)) (BitVec.ofNat 1024 (fld bs (128 * i) 128))) s

/-- A route of a range has a run running or held: the lowest id. -/
def State.busyRoute (s : State) (first count : Nat) : Option Nat :=
  ((s.takenRoutes.map (·.toNat)).filter fun i => decide (first ≤ i) && decide (i < first + count)).foldl
    (fun a i => match a with | some j => some (min i j) | none => some i) none

def State.routeLoad (s : State) (r : Req) : Act :=
  let a := pf r 0 8
  let first := pf r 8 2
  let n := pf r 10 2
  if a % 256 ≠ 0 then ends s (answer resBadfield 0)
  else if n = 0 || decide (16384 < n) then ends s (answer resBadfield 10)
  else if 16384 < first + n then ends s (answer resRange)
  else if !s.inMem a (128 * n) then ends s (answer resRange)
  else match s.busyRoute first n with
    | some i => ends s (answer resBusy i)
    | none =>
      s.fwRead [(a, 128 * n)] fun s =>
        let bs := s.readMem a (128 * n)
        if (crc32c bs).toNat = pf r 12 4 then endsOk (s.setDescs first n bs)
        else ends (s.setDescs first n []) (answer resCheck)

/-- ROUTE_KICK. The kick is taken only while HALT and every stop are clear; it answers once it is taken. -/
def State.routeKick (s : State) (n : Fin 8) (r : Req) : Act :=
  let i := pf r 0 2
  if 0x4000 ≤ i then ends s (answer resBadfield 0)
  else if s.glob.halt || s.step.stop || s.stopped then (s, none, .kick 0)
  else
    let route : RouteId := BitVec.ofNat 14 i
    match s.takeKick (.service n.val) route with
    | some x => (x.1, some (answer resOk), .kick x.2)
    | none => ends (s.badKick route (kickEngine (.service n.val) route)) (answer resFault 0x0B)

/-- Ticks that may be armed (R187). -/
def armCap : Nat := 256

def State.routeArm (s : State) (r : Req) : Act :=
  let i := pf r 0 2
  let t := pf r 8 8
  let route : RouteId := BitVec.ofNat 14 i
  if 0x4000 ≤ i then ends s (answer resBadfield 0)
  else if t = 0 then
    ends { s with rt := { s.rt with arms := s.rt.arms.filter fun a => a.1 != route } }
      (answer resOk (s.rt.arms.filter fun a => a.1 == route).length)
  else if t ≤ s.clk.gtc.toNat then ends s (answer resLate)
  else if armCap ≤ s.rt.arms.length then ends s (answer resFull)
  else endsOk { s with rt := { s.rt with arms := s.rt.arms ++ [(route, BitVec.ofNat 64 t)] } }

/-! ### Generations (R250, R251, R310) -/

/-- A generation-table entry from its 64 bytes. -/
def genOf (idx : BitVec 12) (vshard : BitVec 16) (bs : List Byte) : Gen :=
  let w := fld bs 54 2
  let q := fld bs 56 4
  { idx := idx, vshard := vshard, baseA := BitVec.ofNat 48 (fld bs 0 6), baseB := BitVec.ofNat 48 (fld bs 6 6)
    offO := w32 (fld bs 12 4), offN := w32 (fld bs 16 4), offT := w32 (fld bs 20 4)
    genA := BitVec.ofNat 16 (fld bs 24 2), genB := BitVec.ofNat 16 (fld bs 26 2)
    fmtM := BitVec.ofNat 5 (fld bs 28 1), fmtO := BitVec.ofNat 5 (fld bs 29 1), fmtN := BitVec.ofNat 5 (fld bs 30 1), fmtT := BitVec.ofNat 5 (fld bs 31 1)
    nPs := w32 (fld bs 32 4), tPs := w32 (fld bs 36 4), nSo := w32 (fld bs 40 4), tSo := w32 (fld bs 44 4)
    frozen := w / 2 ^ 14 % 2 = 1, live := w / 2 ^ 13 % 2 = 1
    st := match w / 2 ^ 10 % 8 with | 1 => .genwait | 2 => .writing | 3 => .ready | _ => .steady
    ckpt := w / 2 ^ 9 % 2 = 1, drained := w / 2 ^ 8 % 2 = 1, parts := BitVec.ofNat 4 w
    prot := q / 2 ^ 31 = 1, piOff := BitVec.ofNat 31 q, plen := w32 (fld bs 60 4) }

/-- Is VALID set in the 64 bytes of an entry? -/
def entryValid (bs : List Byte) : Bool := fld bs 54 2 / 2 ^ 15 == 1

/-- A field of an entry that R251, R310 or R357 refuses: its byte within the entry. -/
def entryBad (bs : List Byte) : Option Nat :=
  let g := genOf 0 0 bs
  if fld bs 48 3 ≠ 0 then some 48
  else if fld bs 51 3 ≠ 0 then some 51
  else if fld bs 54 2 % 2 ^ 13 ≠ 0 then some 54
  else match (List.range 4).find? fun i => !fmtDefined (BitVec.ofNat 5 (fld bs (28 + i) 1)) || decide (32 ≤ fld bs (28 + i) 1) with
    | some i => some (28 + i)
    | none =>
      if g.baseA.toNat % 65536 ≠ 0 then some 0
      else if !g.frozen && g.baseB.toNat % 65536 != 0 then some 6
      else if g.offN.toNat ≤ g.offO.toNat then some 12
      else if g.offT.toNat ≤ g.offN.toNat then some 16
      else if g.plen.toNat < g.offT.toNat + 1 then some 60
      else if !g.frozen && g.otherCtr != g.liveCtr - 1 then some (if g.live then 24 else 26)
      else none

/-- Ranges of the parity image meet (R310). -/
def Gen.overlaps (a b : Gen) : Bool :=
  decide (a.piOff.toNat < b.piOff.toNat + b.plen.toNat) && decide (b.piOff.toNat < a.piOff.toNat + a.plen.toNat)

/-- Entries in ascending index. -/
def insertGen (g : Gen) : List Gen → List Gen
  | [] => [g]
  | x :: l => if g.idx.toNat ≤ x.idx.toNat then g :: x :: l else x :: insertGen g l

def State.genRegister (s : State) (r : Req) : Act :=
  let i := pf r 0 2
  let bs := payBytes r 8 64
  let idx : BitVec 12 := BitVec.ofNat 12 i
  let rest := s.gens.filter fun g => g.idx != idx
  if !s.glob.halt then ends s (answer resState 1)
  else if 4096 ≤ i then ends s (answer resBadfield 0)
  else if (match s.gen? idx with | some g => s.refs idx g.genA != 0 || s.refs idx g.genB != 0 | none => false) then ends s (answer resGenwait)
  else if !entryValid bs then endsOk { s with gens := rest }
  else match entryBad bs with
    | some o => ends s (answer resBadfield (8 + o))
    | none =>
      let g := genOf idx (BitVec.ofNat 16 (pf r 2 2)) bs
      let g := if g.frozen then { g with live := false } else g
      match rest.find? g.overlaps with
      | some x => ends s (answer resRange x.idx.toNat)
      | none => endsOk { s with gens := insertGen g rest }

/-! ### The stash -/

/-- Puts that wait under SPILL (R246). -/
def State.waitingPuts (s : State) : Nat :=
  (allPorts.flatMap fun e => (s.port e).cmds.filter fun c => c.op == opSTASHPUT && c.waitSince.isSome).length
    + (s.running.filter fun r => dKind r.desc == kPUT && r.waitSince.isSome).length

def State.fwStashAbort (s : State) (_ : Req) : Act := ends s.stashAbort (answer resOk s.waitingPuts)

/-! ### Step control (R262, R282, R284, R292, R357) -/

def State.cursorSet (s : State) (r : Req) : Act := endsOk { s with job := { s.job with defCursor := some (BitVec.ofNat 64 (pf r 0 8)) } }

/-- DET_SET (R262): at the next boundary while a step runs, else at once. A value that a step deferred stays deferred when a later one is
taken at once in the hold that followed it: the launch boundary applies it, and so the older of the two holds (DESIGN CHOICE, log entry 84). -/
def State.detSet (s : State) (r : Req) : Act :=
  let b := pf r 0 1 = 1
  if 1 < pf r 0 1 then ends s (answer resBadfield 0)
  else if b && !s.detAllowed then ends s (answer resDetrefused)
  else endsOk (if s.step.running then { s with job := { s.job with defDet := some b } } else s.applyDet b)

def State.haltSet (s : State) (r : Req) : Act :=
  let b := pf r 0 1 = 1
  if 1 < pf r 0 1 then ends s (answer resBadfield 0)
  else if !b && (s.step.paused || s.tmb.hold) then ends s (answer resState 2)
  else endsOk { s with glob := { s.glob with halt := b } }

def State.fwPause (s : State) (_ : Req) : Act := endsOk { s with step := { s.step with pausePend := true } }

/-- DIGEST_CONFIGURE (R291). The next exchange is due at the next multiple of the new period (R289). -/
def State.digestConfigure (s : State) (r : Req) : Act :=
  let v := pf r 0 4
  let p := v / 256 % 32
  if v &&& 0xE0E0 ≠ 0 || decide (p < 10) || decide (30 < p) then ends s (answer resBadfield 0)
  else endsOk { s with dig := { s.dig with
      peer := BitVec.ofNat 16 (v / 65536), mismatch := false, loss := false, period := BitVec.ofNat 5 p, grain := BitVec.ofNat 3 (v / 4)
      action := v / 2 % 2 = 1, en := v % 2 = 1, exch := s.clk.gtc } }

/-! ### Translation, operand cache, preemption (R116, R118, R119) -/

/-- Does a leaf's page meet [va, va + n)? A length of 0 names everything. -/
def Leaf.meets (l : Leaf) (va n : Nat) : Bool := n == 0 || (decide (l.va < va + n) && decide (va < l.va + l.size))

/-- Does the range of a walk cache's pointer meet it? -/
def Walk.meets (w : Walk) (va n : Nat) : Bool :=
  n == 0 || (decide (w.page * levelSize w.level < va + n) && decide (va < (w.page + 1) * levelSize w.level))

/-- Rows already translated in [va, va + n) and not yet moved. -/
def State.rowsIn (s : State) (va n : Nat) : List (EPort × Byte × Nat × List (Nat × Nat)) :=
  allPorts.flatMap fun e => (s.port e).cmds.flatMap fun c =>
    match c.ls with
    | none => []
    | some p =>
      let len := match s.cfgOf e.p c.tileNo with | some k => k.bytes | none => 0
      (p.segs.filter fun x => decide (p.next ≤ x.1) && (n == 0 || (decide (p.rowVa x.1 < va + n) && decide (va < p.rowVa x.1 + len)))).map
        fun x => (e, c.tag, x.1, x.2)

def State.xlateInvalidate (s : State) (r : Req) : Act :=
  let va := pf r 0 8
  let n := pf r 8 8
  if va % 65536 ≠ 0 then ends s (answer resBadfield 0)
  else ({ s with quads := s.quads.map fun q => { q with tlb := q.tlb.filter fun l => !l.meets va n, walks := q.walks.filter fun w => !w.meets va n } }, some (answer resOk), .rows (s.rowsIn va n))

/-- Own lines of the operand cache whose local addresses lie in [a, a + n); a length of 0 names the whole cache. -/
def State.linesIn (s : State) (a n : Nat) : List Line :=
  s.lines.filter fun l => s.ownPa (l.line * 256)
    && (n == 0 || (decide (paLocal (l.line * 256) < a + n) && decide (a < paLocal (l.line * 256) + 256)))

/-- Lines of a list with a write outstanding at their stack. -/
def State.writingBack (s : State) : List Nat :=
  (List.finRange 6).flatMap fun m => ((s.msps.get m).txns.filter (·.write)).map (·.line)

/-- CACHE_FLUSH: dirty lines are written back at QoS 15 as transaction ids allow; it answers once every one is written, or fails with a
write at a fenced port (R75, log entry 71). -/
def State.cacheFlush (s : State) (r : Req) : Act :=
  let a := pf r 0 8
  let n := pf r 8 8
  if a % 4096 ≠ 0 then ends s (answer resBadfield 0)
  else
    let t := (s.linesIn a n).foldl (fun s l => s.writeBackLine l 15) s
    let left := t.linesIn a n
    if (s.linesIn a n).any fun l => l.dirty != 0 && (s.fencedAt l.line).isSome then ends t (answer resFault 0x0E)
    else if left.any fun l => l.dirty != 0 then (t, none, .flush t.writingBack)
    else (t, some (answer resOk), .flush (t.writingBack.filter fun x => left.any fun l => l.line == x))

def State.fwPreempt (s : State) (r : Req) : Act :=
  let m := pf r 0 8
  let cells := allCells.filter fun p => match (s.cell p).logical with | some l => m / 2 ^ l.toNat % 2 == 1 | none => false
  endsOk (cells.foldl State.preemptCell s)

/-! ### Bunting groups (R363) -/

def State.buntGroup (s : State) (r : Req) : Act :=
  let g := pf r 0 1
  let m : BitVec 64 := BitVec.ofNat 64 (pf r 8 8)
  if 15 < g then ends s (answer resBadfield 0)
  else endsOk (if s.glob.halt then { s with glob := { s.glob with bunt := s.glob.bunt.setIfInBounds g m } }
    else { s with job := { s.job with defBunt := s.job.defBunt ++ [(g, m)] } })

/-! ### Meanings -/

def execJobConfigure (n : Caller) (s : State) : Host.Outcome State Fault Refusal := .next (s.package n 0x0100 fun r s => s.jobConfigure r)
def execRouteLoad (n : Fin 8) (s : State) : Host.Outcome State Fault Refusal := .next (s.trisia n 0x0101 fun r s => s.routeLoad r)
def execRouteKick (n : Fin 8) (s : State) : Host.Outcome State Fault Refusal := .next (s.trisia n 0x0102 fun r s => s.routeKick n r)
def execRouteArm (n : Fin 8) (s : State) : Host.Outcome State Fault Refusal := .next (s.trisia n 0x0103 fun r s => s.routeArm r)
def execGenRegister (n : Fin 8) (s : State) : Host.Outcome State Fault Refusal := .next (s.trisia n 0x0104 fun r s => s.genRegister r)
def execStashAbort (n : Fin 8) (s : State) : Host.Outcome State Fault Refusal := .next (s.trisia n 0x0105 fun r s => s.fwStashAbort r).settle
def execCursorSet (n : Caller) (s : State) : Host.Outcome State Fault Refusal := .next (s.package n 0x0106 fun r s => s.cursorSet r)
def execDetSet (n : Caller) (s : State) : Host.Outcome State Fault Refusal := .next (s.package n 0x0107 fun r s => s.detSet r).settle
def execHaltSet (n : Caller) (s : State) : Host.Outcome State Fault Refusal := .next (s.package n 0x0108 fun r s => s.haltSet r).settle
def execPause (n : Caller) (s : State) : Host.Outcome State Fault Refusal := .next (s.package n 0x0109 fun r s => s.fwPause r)
def execDigestConfigure (n : Caller) (s : State) : Host.Outcome State Fault Refusal := .next (s.package n 0x010C fun r s => s.digestConfigure r)
def execXlateInvalidate (n : Caller) (s : State) : Host.Outcome State Fault Refusal := .next (s.package n 0x010D fun r s => s.xlateInvalidate r)
def execCacheFlush (n : Fin 8) (s : State) : Host.Outcome State Fault Refusal := .next (s.trisia n 0x010E fun r s => s.cacheFlush r)
def execPreempt (n : Fin 8) (s : State) : Host.Outcome State Fault Refusal := .next (s.trisia n 0x010F fun r s => s.fwPreempt r).settle
def execBuntGroup (n : Fin 8) (s : State) : Host.Outcome State Fault Refusal := .next (s.trisia n 0x0110 fun r s => s.buntGroup r)

end Sys2Proof.Machine
end

