-- ==== Sys2Proof/Machine/TrisiaImage.lean ====
section
/-! DEFINITION. The Trisia commands that read and write images: SNAPSHOT_EXPORT (R285, R359), RESUME (R286, R360), CTX_SAVE and
CTX_RESTORE (R105-R108), IMAGE_LOAD (R144). Firmware reaches virtual addresses through the ATU of quadrant 0 (log entry 35). -/

namespace Sys2Proof.Machine

/-! ### Virtual ranges -/

/-- Cuts [va, va + n) at 64 KiB boundaries. -/
def cutPages (va n : Nat) : List (Nat × Nat) :=
  if n = 0 then []
  else (List.range ((va + n - 1) / 65536 - va / 65536 + 1)).map fun k =>
    let lo := max va ((va / 65536 + k) * 65536)
    (vaOf lo 0, min (va + n) ((va / 65536 + k + 1) * 65536) - lo)

/-- Physical pieces of virtual ranges, or the fault code of the first one that cannot be reached. -/
def State.reach (s : State) (write : Bool) (rs : List (Nat × Nat)) : List (Nat × Nat) ⊕ Code :=
  let x := s.xlateAll 0 write (rs.flatMap fun r => cutPages r.1 r.2)
  match x.2 with
  | some (_, .fault c) => .inr c
  | some (_, .decerr _) => .inr .decerr
  | _ => if x.1.any fun p => s.isDefault p.1 || s.isDefault (p.1 + p.2 - 1) then .inr .decerr else .inl x.1

/-- A command that cannot reach its virtual ranges fails with the code; the default target's answer is recorded, with the port of the ATU
(R175, R353). -/
def State.unreached (s : State) (write : Bool) (rs : List (Nat × Nat)) (c : Code) : Act :=
  let vas := (rs.flatMap fun r => cutPages r.1 r.2).flatMap fun x => [x.1, x.1 + x.2 - 1]
  ends (if c = .decerr then s.noteDefaults 0 vas write else s) (answer resFault c.byte.toNat)

/-- Bytes at a virtual address. -/
def State.vbytes (s : State) (va n : Nat) : List Byte := (List.range n).map fun (i : Nat) => s.vbyte 0 (vaOf va i)

def zeros (n : Nat) : List Byte := List.replicate n 0
def padTo256 (bs : List Byte) : List Byte := bs ++ zeros (ceilDiv bs.length 256 * 256 - bs.length)

/-- An image with the four bytes at `o` replaced by its CRC-32C, computed with them taken as zero. -/
def sealAt (o : Nat) (bs : List Byte) : List Byte := bs.take o ++ b32 (crc32c bs).toNat ++ bs.drop (o + 4)

/-- The CRC-32C at `o` of an image is right. -/
def sealedAt (o : Nat) (bs : List Byte) : Bool := (crc32c (bs.take o ++ zeros 4 ++ bs.drop (o + 4))).toNat == fld bs o 4

/-! ### Snapshot images (R359) -/

/-- Virtual ranges of a tensor's slots. -/
def Gen.slots (g : Gen) : List (Nat × Nat) :=
  (g.baseA.toNat, g.plen.toNat * 256) :: (if g.frozen then [] else [(g.baseB.toNat, g.plen.toNat * 256)])

/-- First addresses of the pages of the slots of tensors. -/
def slotPages (l : List Gen) : List Nat := (l.flatMap Gen.slots).flatMap fun r => (cutPages r.1 r.2).map (·.1)

/-- Tensors in ascending VSHARD, then index. -/
def insertShard (g : Gen) : List Gen → List Gen
  | [] => [g]
  | x :: l => if decide (g.vshard.toNat < x.vshard.toNat) || (g.vshard == x.vshard && decide (g.idx.toNat ≤ x.idx.toNat)) then g :: x :: l else x :: insertShard g l

/-- A tensor section. -/
def State.section (s : State) (g : Gen) : List Byte :=
  b16 g.idx.toNat ++ b16 g.vshard.toNat ++ b32 (1 + g.slots.length * g.plen.toNat) ++ zeros 8 ++ s.genBytes g ++ zeros 176
    ++ g.slots.flatMap fun x => s.vbytes x.1 x.2

/-- Stash entries in directory order. -/
def insertEntry (x : SEntry) : List SEntry → List SEntry
  | [] => [x]
  | y :: l => if x.idx ≤ y.idx then x :: y :: l else y :: insertEntry x l

/-- A stash entry of an image. -/
def savedEntry (x : SEntry) : List Byte :=
  padTo256 (bytesOf 16 (SEntry.word { x with loc := 0 }).toNat ++ zeros 240 ++ x.bytesOf x.rows)

/-- Where the rows of spilled entries lie. -/
def State.spilledPieces (s : State) : List (Nat × Nat) :=
  (s.stash.entries.filter fun x => !x.retired && x.spilled && !x.mark && x.vrows != 0).flatMap s.spillPiece

/-- The recompute map as the 8,192 bytes of R248. -/
def State.mapBytes (s : State) : List Byte :=
  (List.range 4096).flatMap fun l => b16 (match s.job.recompute.find? fun x => x.1 == l with | some x => 0x8000 + x.2.toNat | none => 0)

/-- The image of this instance. -/
def State.snapshot (s : State) : List Byte :=
  let es := ((s.stash.entries.filter fun x => !x.retired).foldr insertEntry []).map fun x => savedEntry { x with rows := s.entryRows x }
  let ts := (s.gens.foldr insertShard []).map s.section
  let tl := (ts.map List.length).sum
  let len := 8448 + tl + (es.map List.length).sum
  let rec0 := match s.step.records with | r :: _ => r.bytes | [] => zeros 64
  sealAt 104 (rec0 ++ bytesOf 8 s.glob.seed.toNat ++ b32 s.glob.vshard.toNat ++ b32 s.glob.fmtPolicy.toNat ++ b32 s.glob.stashCfg.toNat
    ++ b8 s.pins.instanceId.toNat ++ zeros 3 ++ bytesOf 8 len ++ b32 33 ++ b32 ((8448 + tl) / 256) ++ zeros 4 ++ b32 ts.length ++ b32 es.length
    ++ zeros 140 ++ s.mapBytes ++ ts.flatten ++ es.flatten)

/-- Image bases of a request at payload byte `o`. -/
def imageBase (r : Req) (o i : Nat) : Nat := pf r (o + 8 * i) 8

/-- Lengths in the answer: this instance's image, and what the others have written (log entry 6). -/
def State.lengths (s : State) (r : Req) (own : Nat) : List Byte :=
  (List.range 8).flatMap fun i =>
    bytesOf 8 (if imageBase r 0 i = 0 then 0 else if i = s.pins.instanceId.toNat then own else (Config.peerLength i).toNat)

def State.snapshotExport (s : State) (r : Req) : Act :=
  let me := s.pins.instanceId.toNat
  let base := imageBase r 0 me
  if !s.step.paused then ends s (answer resState 2)
  else match (List.range 8).find? fun i => imageBase r 0 i % 256 != 0 with
    | some i => ends s (answer resBadfield (8 * i))
    | none =>
      if (List.range 8).any fun i => imageBase r 0 i != 0 && (paOwner (imageBase r 0 i) != i || s.isDefault (imageBase r 0 i)) then ends s (answer resRange)
      else if base = 0 then ends s (answerBytes (s.lengths r 0))
      else
        s.fwWalk (slotPages s.gens) fun s => match s.reach false (s.gens.flatMap Gen.slots) with
        | .inr c => s.unreached false (s.gens.flatMap Gen.slots) c
        | .inl ps =>
          s.fwRead (ps ++ s.spilledPieces) fun s =>
            let img := s.snapshot
            if pf r 64 8 < img.length || !s.inMem base img.length then ends s ⟨resRange, 0, s.lengths r img.length⟩
            else ends (s.writeMem base img) (answerBytes (s.lengths r img.length))

/-! ### RESUME (R286, R360) -/

/-- A step record from its 64 bytes. -/
def recOf (bs : List Byte) : StepRec :=
  let f := fld bs 38 1
  { step := BitVec.ofNat 48 (fld bs 0 6), dclass := BitVec.ofNat 16 (fld bs 6 2), cursor := BitVec.ofNat 64 (fld bs 8 8)
    opened := BitVec.ofNat 64 (fld bs 16 8), closed := BitVec.ofNat 64 (fld bs 24 8), ndet := fld bs 32 4, voids := BitVec.ofNat 16 (fld bs 36 2)
    det := f % 2 = 1, canon := f / 2 % 2 = 1, loss := f / 4 % 2 = 1, diverged := f / 8 % 2 = 1, peer := f / 16 % 2 = 1
    vshard := w32 (fld bs 40 4), digest := BitVec.ofNat 64 (fld bs 48 8) }

/-- A tensor section in memory: its address and its entry; none where no section of R359 lies. -/
def State.sectionAt (s : State) (pa : Nat) : Option (Nat × Gen) :=
  let bs := s.readMem pa 256
  let e := (bs.drop 16).take 64
  let g := genOf (BitVec.ofNat 12 (fld bs 0 2)) (BitVec.ofNat 16 (fld bs 2 2)) e
  if entryValid e && fld bs 4 4 == 1 + g.slots.length * g.plen.toNat && s.inMem pa (256 * fld bs 4 4) then some (pa, g) else none

/-- Bytes of a section. -/
def Gen.sectionLen (g : Gen) : Nat := 256 * (1 + g.slots.length * g.plen.toNat)

/-- Consecutive sections that meet a condition, and the head that has still to be read, if one is missing. -/
def State.sections (s : State) (ok : Gen → Bool) : Nat → Nat → List (Nat × Gen) × Option Nat
  | 0, _ => ([], none)
  | fuel + 1, pa =>
    if !s.piecesReady [(pa, 256)] then ([], some pa)
    else match s.sectionAt pa with
      | none => ([], none)
      | some x => if ok x.2 then (let y := s.sections ok fuel (pa + x.2.sectionLen); (x :: y.1, y.2)) else ([], none)

/-- Virtual shards that chip `c` of VSHARD_CFG `v` owns (R268). -/
def ownShards (v : Nat) : List Nat :=
  let k := 2 ^ (v % 32 - v / 256 % 32)
  List.range' (v / 65536 * k) k

/-- The sections that a resume reads: its own image's, or the shards now owned and the replicated tensors (R360). -/
def State.resumeSections (s : State) (base count map v : Nat) (moved : Bool) : List (Nat × Gen) × List (Nat × Nat) :=
  let own := s.sections (fun _ => true) count (base + 8448)
  if !moved then (own.1, own.2.toList.map fun a => (a, 256))
  else
    let words := (ownShards v).map fun sh => (map + (8 * sh + s.pins.instanceId.toNat) * 8, 8)
    if !s.piecesReady words then ([], words)
    else
      let each := (ownShards v).map fun sh =>
        let a := natOf (s.readMem (map + (8 * sh + s.pins.instanceId.toNat) * 8) 8)
        if a = 0 then ([], none) else s.sections (fun g => g.vshard.toNat == sh) 4096 a
      ((own.1.filter fun x => x.2.vshard == 0xFFFF) ++ each.flatMap (·.1), ((own.2 :: each.map (·.2)).filterMap id).map fun a => (a, 256))

/-- A saved stash entry from its bytes: the entry and its length in the image. -/
def entryOf (bs : List Byte) : SEntry × Nat :=
  let w := fld bs 0 2
  let c : TileCfg := ⟨fld bs 10 1 / 128 = 1, BitVec.ofNat 5 (fld bs 11 1), BitVec.ofNat 3 (fld bs 11 1 / 32), BitVec.ofNat 7 (fld bs 10 1)⟩
  let n := fld bs 9 1
  let mark := w / 2 ^ 13 % 2 = 1
  ({ idx := 0, uid := 0, cell := BitVec.ofNat 6 (fld bs 8 1), slot := BitVec.ofNat 9 w, layer := BitVec.ofNat 12 (fld bs 2 2),
     part := BitVec.ofNat 4 (fld bs 2 2 / 4096), spilled := w / 2 ^ 14 % 2 = 1, mark := mark,
     gen := if w / 2 ^ 12 % 2 = 1 then some (BitVec.ofNat 12 (fld bs 4 2), BitVec.ofNat 16 (fld bs 6 2)) else none,
     retired := false, isNew := false, cfg := c, vrows := n, loc := 0,
     rows := if mark then [] else ((List.range n).map fun i => rowOf ((bs.drop (256 + i * c.bytes)).take c.bytes)),
     placed := mark, put := true, getting := false },
   256 + (if mark then 0 else ceilDiv (n * c.bytes) 256 * 256))

/-- The stash entries of an image. -/
def entriesOf : Nat → List Byte → List SEntry
  | 0, _ => []
  | n + 1, bs => let x := entryOf bs; x.1 :: entriesOf n (bs.drop x.2)

/-- A restored entry lies in the spill region, at a place that is free there; one that finds none keeps its rows and waits for a place
(log entry 20). -/
def State.installSpilled (s : State) (e : SEntry) : State :=
  match pickOf (s.spillPlaces e.size) (Config.spillPlace s.free).toNat with
  | none => s.modEntry e.uid fun y => { y with spilled := false, placed := false }
  | some o =>
    let e' : SEntry := { e with spilled := true, placed := true, loc := BitVec.ofNat 32 o }
    let t := { s.modEntry e.uid fun y => { y with spilled := true, placed := true, loc := BitVec.ofNat 32 o, rows := [] } with free := s.free + 1 }
    t.writeMem (t.spillPa e') (e'.bytesOf e.rows)

/-- Installs a saved entry at a free directory index (log entry 20): a spilled entry stays spilled, another takes its place in a
home slice or is spilled. -/
def State.installEntry (s : State) (x : SEntry) : State :=
  let idx := nthFree (s.stash.entries.map (·.idx)) (Config.dirPick s.free % (dirSize - s.stash.entries.length))
  let e := { x with idx := idx, uid := s.stash.uid }
  let s := { s with free := s.free + 1, stash := { s.stash with entries := s.stash.entries ++ [{ e with spilled := false }], uid := s.stash.uid + 1 } }
  let q := s.homeQuad e.cell
  if e.mark then s
  else if !e.spilled && s.fits q e.size then s.placeEntry q e.uid
  else s.installSpilled e

/-- Writes the slots of a section. -/
def State.restoreTensor (s : State) (x : Nat × Gen) : State :=
  (x.2.slots.foldl (fun (a : State × Nat) v => (a.1.vwriteAll 0 v.1 (a.1.readMem a.2 v.2) (engineIni 0 15), a.2 + v.2)) (s, x.1 + 256)).1

/-- Restores an image (R286): registers, map, tensors, stash; the step stands at the boundary that opened it. -/
def State.restoreImage (s : State) (img : List Byte) (secs : List (Nat × Gen)) (v : Nat) (step : BitVec 48) : State :=
  let s := secs.foldl State.restoreTensor s
  let rc := recOf img
  let map := (img.drop 256).take 8192
  let s := { s with
    glob := { s.glob with seed := BitVec.ofNat 64 (fld img 64 8), vshard := w32 v &&& 0xFFFF9F1F, fmtPolicy := w32 (fld img 76 4) &&& 0x003F03FF,
                          stashCfg := w32 (fld img 80 4) &&& 0xFFFFFF03,
                          cursor := rc.cursor }
    job := { s.job with recompute := validWords (fun l => fld map (2 * l) 2), launched := false }
    gens := secs.foldl (fun l x => insertGen x.2 l) []
    stash := { entries := [], peak := 0, uid := s.stash.uid }
    step := { s.step with count := step, running := false, resumed := true, ndet := 0, records := (rc :: s.step.records).take 256 }
    tmb := { s.tmb with voids := rc.voids } }
  let s := (entriesOf (fld img 112 4) (img.drop (256 * fld img 100 4))).foldl State.installEntry s
  { s with stash := { s.stash with peak := s.stash.entries.length } }

/-- The Pennant of a resume whose step or cursor differs (R286). -/
def State.mismatch (s : State) : State := s.report lvlInstance (s.pins.instanceId.setWidth 16) clsResumeMismatch .info (s.detC 0xFFFF)

/-- No index is restored twice. -/
def distinctIdx (secs : List (Nat × Gen)) : Bool := decide ((secs.map fun x => x.2.idx).Nodup)

/-- The checks of R360 after the image has been read whole. -/
def State.resumeWith (s : State) (r : Req) (base : Nat) (img : List Byte) : Act :=
  let old := fld img 72 4
  let new := pf r 16 4
  let v := orDefault new old
  let moved := v / 256 % 32 ≠ old / 256 % 32 || v / 65536 != old / 65536
  if !sealedAt 104 img then ends s (answer resCheck s.pins.instanceId.toNat)
  else if pf r 0 6 ≠ fld img 0 6 || pf r 8 8 ≠ fld img 8 8 then ends s.mismatch (answer resMismatch)
  else if v % 32 ≠ old % 32 then ends s (answer resVmismatch)
  else if moved && fld img 112 4 != 0 then ends s (answer resState 5)
  else
    let x := s.resumeSections base (fld img 108 4) (pf r 24 8) v moved
    if !x.2.isEmpty then s.awaits x.2
    else if !distinctIdx x.1 then ends s (answer resBadfield 0)
    else
      s.fwRead (x.1.map fun y => (y.1, y.2.sectionLen)) fun s => s.fwWalk (slotPages (x.1.map (·.2))) fun s =>
        match s.reach true (x.1.flatMap fun y => y.2.slots) with
        | .inr c => s.unreached true (x.1.flatMap fun y => y.2.slots) c
        | .inl _ => endsOk (s.restoreImage img x.1 v (BitVec.ofNat 48 (pf r 0 6)))

def State.fwResume (s : State) (r : Req) : Act :=
  let me := s.pins.instanceId.toNat
  let base := imageBase r 32 me
  let bad := answer resCheck me
  if !s.glob.halt then ends s (answer resState 1)
  else if pf r 16 4 ≠ 0 && vshardBad (pf r 16 4) then ends s (answer resBadfield 16)
  else if !s.inMem base 8448 then ends s bad
  else
    s.fwRead [(base, 8448)] fun s =>
      let len := natOf (s.readMem (base + 88) 8)
      if len < 8448 || !s.inMem base len then ends s bad
      else s.fwRead [(base, len)] fun s => s.resumeWith r base (s.readMem base len)

/-! ### CTX_SAVE and CTX_RESTORE (R105-R108) -/

/-- No outstanding command on either port and no tile busy. -/
def State.cellIdle (s : State) (p : PCell) : Bool :=
  (s.cell p).dep.cmds.isEmpty && (s.cell p).sep.cmds.isEmpty
    && (List.range 24).all fun t => !(s.busyW p (BitVec.ofNat 5 t)) && !(s.busyR p (BitVec.ofNat 5 t))

/-- Rows of a tile in a save image. -/
def savedRows (t : Tile) : List Byte :=
  match t.cfg with
  | some c => if t.inUse then (List.range t.valid).flatMap fun i => rowBytes (t.rowAt i) c.bytes else []
  | none => []

/-- The save image of a cell (R106). Bytes 24-25 name its package logical cell, 0xFFFF where it serves none, as a spare: R106 gives no value
there (DESIGN CHOICE, log entry 40). -/
def State.ctxImage (s : State) (p : PCell) : List Byte :=
  let c := s.cell p
  let rows := (List.finRange 24).flatMap fun t => savedRows (c.tiles.get t)
  let cfgs := (List.finRange 24).flatMap fun t => b32 (tcfgLo (c.tiles.get t)).toNat ++ b32 ((c.tiles.get t).valid * 65536)
  sealAt 12 (b16 1 ++ zeros 2 ++ b32 (tfInuse c).toNat ++ b32 (2304 + rows.length) ++ zeros 4 ++ bytesOf 8 s.step.count.toNat
    ++ b16 (s.pkgLogical p).toNat ++ zeros 38 ++ cfgs ++ c.rv.toList.flatMap (fun w => b32 w.toNat) ++ rows)

/-- The rows that a save reads: those below VALIDROWS of every tile in use whose row-written bit is set (R87, R106). -/
def State.savedReads (s : State) (p : PCell) : List (TileNo × RowNo) :=
  (List.finRange 24).flatMap fun i =>
    let t := (s.cell p).tiles.get i
    if t.cfg.isSome && t.inUse then t.moveRows.map fun r => (BitVec.ofNat 5 i.val, r) else []

/-- CTX_SAVE; an uncorrectable error of a row that it reads voids the step and fails it (R34, R97, R353). HALT is looked at again each time
that a command waits for the cell to be idle: one that finds it clear answers STATE, and so does CTX_RESTORE (DESIGN CHOICE, log entry 98). -/
def State.ctxSave (s : State) (ecc : List RowEcc) (r : Req) : Act :=
  let a := pf r 8 8
  if h : pf r 0 1 < 68 then
    let p : PCell := ⟨pf r 0 1, h⟩
    if !s.glob.halt then ends s (answer resState 1)
    else if a % 256 ≠ 0 then ends s (answer resBadfield 8)
    else if !s.cellIdle p then goesOn s
    else
      let img := s.ctxImage p
      if pf r 16 4 < img.length || !s.inMem a img.length then ends s (answer resRange img.length)
      else
        let y := readRows (s.savedReads p) (fun x => eccAt ecc x.1 x.2) (fun s x e => s.rowEcc p x.1 x.2 e) s
        if y.2 then ends y.1 (answer resFault 0x0E) else ends (y.1.writeMem a img) (answer resOk img.length)
  else ends s (answer resBadfield 0)

/-- Configuration of tile i in a save image, none when it is not configured. -/
def savedCfg (img : List Byte) (i : Nat) : Option TileCfg :=
  let w := fld img (64 + 8 * i) 4
  if w / 2 ^ 31 = 1 then some ⟨w / 2 ^ 24 % 2 = 1, BitVec.ofNat 5 (w / 65536), BitVec.ofNat 3 (w / 256), BitVec.ofNat 7 w⟩ else none

/-- VALIDROWS and use of tile i in a save image. -/
def savedValid (img : List Byte) (i : Nat) : Nat := fld img (64 + 8 * i + 6) 1
def savedUse (img : List Byte) (i : Nat) : Bool := fld img 4 4 / 2 ^ i % 2 == 1

/-- Tiles in use with their rows and ROWBYTES. -/
def savedTiles (img : List Byte) : List (Nat × Nat × Nat) :=
  (List.range 24).filterMap fun i =>
    if savedUse img i then some (i, savedValid img i, match savedCfg img i with | some c => c.bytes | none => 0) else none

/-- The header check (R108); a tile in use that the image does not configure fails it. -/
def headerGood (img : List Byte) : Bool :=
  fld img 0 2 == 1 && fld img 8 4 == 2304 + ((savedTiles img).map fun x => x.2.1 * x.2.2).sum
    && (List.range 24).all fun i => !savedUse img i || (savedCfg img i).isSome

/-- Releases every tile, then writes the configurations and RV0-RV3 of an image. -/
def Cell.restoreHead (c : Cell) (img : List Byte) : Cell :=
  let c := (List.range 24).foldl (fun c i => c.releaseTile (BitVec.ofNat 5 i)) c
  { c with
    tiles := Vector.ofFn fun i : Fin 24 => { c.tiles.get i with cfg := savedCfg img i.val }
    rv := Vector.ofFn fun i : Fin 512 => w32 (fld img (256 + 4 * i.val) 4) }

/-- Writes the rows of an image under R86. -/
def Cell.restoreRows (c : Cell) (img : List Byte) : Cell :=
  ((savedTiles img).foldl (fun (a : Cell × Nat) x =>
    ((List.range x.2.1).foldl (fun c i =>
        let t : TileNo := BitVec.ofNat 5 x.1
        ((c.modTile t fun t => t.writeRow i (rowOf ((img.drop (a.2 + i * x.2.2)).take x.2.2))).forget t).cancelBack t fun r => r.toNat == i) a.1,
      a.2 + x.2.1 * x.2.2)) (c, 2304)).1

/-- A CRC that fails leaves every tile released and RV0-RV3 at +0.0. -/
def Cell.restoreFails (c : Cell) (img : List Byte) : Cell := { c.restoreHead img with rv := Vector.replicate 512 0 }

def State.ctxRestore (s : State) (r : Req) : Act :=
  let a := pf r 8 8
  if h : pf r 0 1 < 68 then
    let p : PCell := ⟨pf r 0 1, h⟩
    let c := s.cell p
    if !s.glob.halt then ends s (answer resState 1)
    else if c.logical.isNone && !c.spare then ends s (answer resState 6)
    else if a % 256 ≠ 0 then ends s (answer resBadfield 8)
    else if !s.inMem a 2304 then ends s (answer resRange)
    else if !s.cellIdle p then goesOn s
    else
      s.fwRead [(a, 2304)] fun s =>
        let head := s.readMem a 2304
        let len := fld head 8 4
        if !headerGood head then ends s (answer resCheck 1)
        else if !s.inMem a len then ends s (answer resRange)
        else s.fwRead [(a, len)] fun s =>
          let img := s.readMem a len
          if sealedAt 12 img then endsOk (s.modCell p fun c => (c.restoreHead img).restoreRows img)
          else ends (s.modCell p fun c => c.restoreFails img) (answer resCheck 2)
  else ends s (answer resBadfield 0)

/-! ### IMAGE_LOAD (R139, R142, R144) -/

/-- An address with a signed offset. -/
def offAddr (a off : Nat) : Nat := ((a : Int) + signed 32 off).toNat

/-- Pieces of an NP4 tensor of n elements, and of a BP4 tensor: planes 3 to 0, each with its scale array last. -/
def np4Pieces (a soff n : Nat) : List (Nat × Nat) := [(a, n / 2), (offAddr a soff, n / 32)]
def bp4Pieces (a soff stride n : Nat) : List (Nat × Nat) :=
  ((List.range 4).map fun k => (a + k * stride, n / 8)) ++ [(offAddr a soff, n / 32)]

/-- Element i of an NP4 byte string, and of four planes (plane 3 first). -/
def np4El (bs : List Byte) (i : Nat) : Nat := ((bs[i / 2]?).getD 0).toNat / 16 ^ (i % 2) % 16
def bp4El (planes : List (List Byte)) (i : Nat) : Nat :=
  (List.range 4).foldl (fun a k => a + ((((planes[k]?).getD [])[i / 8]?).getD 0).toNat / 2 ^ (i % 8) % 2 * 2 ^ (3 - k)) 0

/-- Plane p of n elements. -/
def planeBytes (el : Nat → Nat) (n p : Nat) : List Byte :=
  (List.range (n / 8)).map fun j => BitVec.ofNat 8 ((List.range 8).foldl (fun a i => a + el (8 * j + i) / 2 ^ p % 2 * 2 ^ i) 0)

/-- Arrays of the destination from those of the source. -/
def imageConvert (mode n : Nat) (src : List (List Byte)) : List (List Byte) :=
  match mode with
  | 1 => ((List.range 4).map fun k => planeBytes (np4El (src.headD [])) n (3 - k)) ++ src.drop 1
  | 2 => ((List.range (n / 2)).map fun i => BitVec.ofNat 8 (bp4El src (2 * i) + 16 * bp4El src (2 * i + 1))) :: src.drop 4
  | _ => src

def State.imageLoad (s : State) (r : Req) : Act :=
  let n := pf r 16 8
  let mode := pf r 24 1
  let stride := pf r 28 4
  let side (bp : Bool) (a soff : Nat) : List (Nat × Nat) := if bp then bp4Pieces a soff stride n else np4Pieces a soff n
  let src := side (mode == 2) (pf r 0 8) (pf r 32 4)
  let dst := side (mode == 1) (pf r 8 8) (pf r 36 4)
  if !s.glob.halt then ends s (answer resState 1)
  else if n % 256 ≠ 0 then ends s (answer resBadfield 16)
  else if 2 < mode then ends s (answer resBadfield 24)
  else if mode ≠ 0 && stride % 32 != 0 then ends s (answer resBadfield 28)
  else if n = 0 then endsOk s
  else if (src ++ dst).any fun x => !s.inMem x.1 x.2 then ends s (answer resRange)
  else
    s.fwRead src fun s =>
      let out := imageConvert mode n (src.map fun x => s.readMem x.1 x.2)
      endsOk ((dst.zip out).foldl (fun s x => s.writeMem x.1.1 x.2) s)

/-! ### Meanings -/

def execSnapshotExport (n : Caller) (s : State) : Host.Outcome State Fault Refusal := .next (s.package n 0x010A fun r s => s.snapshotExport r)
def execResume (n : Caller) (s : State) : Host.Outcome State Fault Refusal := .next (s.package n 0x010B fun r s => s.fwResume r)
def execCtxSave (n : Fin 8) (ecc : List RowEcc) (s : State) : Host.Outcome State Fault Refusal :=
  .next (s.trisia n 0x0111 fun r s => s.ctxSave ecc r).settle
def execCtxRestore (n : Fin 8) (s : State) : Host.Outcome State Fault Refusal := .next (s.trisia n 0x0112 fun r s => s.ctxRestore r)
def execImageLoad (n : Fin 8) (s : State) : Host.Outcome State Fault Refusal := .next (s.trisia n 0x0303 fun r s => s.imageLoad r)

end Sys2Proof.Machine
end

