-- ==== Sys2Proof/Machine/TrisiaAdmin.lean ====
section
/-! DEFINITION. The Trisia commands of recovery (R299, R307, R309-R323, R324), maintenance (R339, R340, R391, R394, R395, R398, R379) and
administration (R342, R349, R405). -/

namespace Sys2Proof.Machine

/-! ### Parity (R309, R316, R318, R320, R323) -/

/-- Reserved bits, a group of fewer than two members, an index outside it, or parity for a chip's own group: the payload byte. -/
def parityBad (m h : Nat) : Option Nat :=
  let en (x : Nat) : Bool := x / 2 ^ 31 == 1
  let dm1 (x : Nat) : Nat := x / 2 ^ 16 % 32
  if m &&& 0x20E00000 ≠ 0 then some 0
  else if h &&& 0x3FE00000 ≠ 0 then some 8
  else if en m && (dm1 m == 0 || decide (dm1 m < m / 2 ^ 24 % 32)) then some 0
  else if en h && dm1 h == 0 then some 8
  else if en m && en h && m % 65536 == h % 65536 then some 8
  else none

/-- PARITY_CONFIGURE. `agree` says that the protection digests exchanged with the other members are equal. -/
def State.parityConfigure (s : State) (agree : Bool) (r : Req) : Act :=
  match parityBad (pf r 0 4) (pf r 8 4) with
  | some o => ends s (answer resBadfield o)
  | none =>
    if !agree then ends s (answer resCheck)
    else endsOk { s with par := { s.par with mcfg := w32 (pf r 0 4), holders := w32 (pf r 4 4), hcfg := w32 (pf r 8 4), stale := true, chips := [], mirrorIn := [], mirrorAt := [] } }

/-- PARITY_RESYNC responds at start; a chip that is in no group has nothing to work. -/
def State.parityResync (s : State) (_ : Req) : Act :=
  endsOk (if s.par.member || s.par.holder then s.startRebuild 0 [] 0 s.par.two else s)

/-- More losses than shares: a rebuild that runs on this side of the chip stops (R323). -/
def State.stopRebuild (s : State) (role : Nat) : State :=
  if role = 1 || role = 4 then s.setRebuild none s.par.memReb else s.setRebuild s.par.rebuild none

/-- PARITY_REBUILD. LOST counts the lost chips of the group; those that are not holders are members, named by their indices.
`stale` says that PAR_STS.STALE was set on a lost member, `two` that the group which this chip holds a share of has two shares; a member
knows that of its own group (R318). -/
def State.parityRebuild (s : State) (stale two : Bool) (r : Req) : Act :=
  let role := pf r 0 1
  let lost := pf r 1 1
  let h := pf r 4 1
  let two := if role = 1 || role = 4 then two else s.par.two
  let members := ([pf r 2 1, pf r 3 1].take (lost - (h % 2 + h / 2 % 2)))
  if role = 0 || decide (4 < role) then ends s (answer resBadfield 0)
  else if lost = 0 || decide (2 < lost) then ends s (answer resBadfield 1)
  else if 3 < h || decide (lost < h % 2 + h / 2 % 2) then ends s (answer resBadfield 4)
  else if members.any fun i => decide (31 < i) then ends s (answer resBadfield (if 31 < pf r 2 1 then 2 else 3))
  else if !members.Nodup then ends s (answer resBadfield 3)
  else if lost = 2 && !two then ends (s.stopRebuild role) (answer resLosses)
  else if stale then ends s (answer resParstale)
  else endsOk (s.startRebuild (BitVec.ofNat 8 role) members (BitVec.ofNat 2 h) two)

/-! ### Joining and leaving recovery (R299, R320) -/

/-- The first byte of a block that R358 reserves and that is not zero. -/
def blockReserved (bs : List Byte) : Option Nat :=
  (List.range 240).find? fun i => (bs[i]?).getD 0 != 0 && !(jobFields.any fun f => decide (f.1 ≤ i) && decide (i < f.1 + f.2))

/-- Bytes of a copy of the generation table. -/
def tableBytes : Nat := 262144

/-- The registered entries of a copied table (R250); its VSHARD is not part of it (log entry 36). -/
def gensOf (bs : List Byte) : List Gen :=
  (List.range 4096).filterMap fun i =>
    let e := (bs.drop (64 * i)).take 64
    if entryValid e then some (genOf (BitVec.ofNat 12 i) (Config.joinVshard i) e) else none

/-- The joining chip takes its configuration, routes and table once everything has been read. -/
def State.joinWith (s : State) (r : Req) (bs : List Byte) (v : Nat) : Act :=
  let routes := s.readMem (pf r 8 8) (128 * pf r 16 2)
  let table := s.readMem (pf r 24 8) tableBytes
  if (crc32c routes).toNat ≠ pf r 20 4 then ends s (answer resCheck 1)
  else if (crc32c table).toNat ≠ pf r 32 4 then ends s (answer resCheck 2)
  else
    let s := s.applyJob (s.jobOf bs v)
    endsOk { s.setDescs 0 (pf r 16 2) routes with gens := gensOf table }

def State.recoveryJoin (s : State) (r : Req) : Act :=
  let blk := pf r 0 8
  let n := pf r 16 2
  let v := pf r 36 4
  if !s.glob.halt then ends s (answer resState 1)
  else if s.job.present then ends s (answer resState 4)
  else if n = 0 || decide (16384 < n) then ends s (answer resBadfield 16)
  else if !s.inMem blk 240 || !s.inMem (pf r 8 8) (128 * n) || !s.inMem (pf r 24 8) tableBytes then ends s (answer resRange)
  else
    s.fwRead [(blk, 240)] fun s =>
      let bs := s.readMem blk 240
      match blockReserved bs with
      | some o => ends s (answer resBadfield o)
      | none =>
        match s.jobCheck bs v 36 with
        | some x => ends s x
        | none => s.fwRead (jobPieces bs ++ [(pf r 8 8, 128 * n), (pf r 24 8, tableBytes)]) fun s => s.joinWith r bs v

/-- RECOVERY_RESUME: HOLD clears, and the next launch begins the step again. -/
def State.recoveryResume (s : State) (_ : Req) : Act :=
  if !s.tmb.hold then ends s (answer resState)
  else endsOk { s with tmb := { s.tmb with hold := false, holdReq := false }, step := { s.step with resumed := true } }

/-! ### Checkpoints and repair (R307, R324) -/

/-- The boundary into a step has been taken: an earlier step, or the one whose record is open. -/
def State.boundaryPast (s : State) (step : Nat) : Bool :=
  decide (step < s.step.count.toNat) || (step == s.step.count.toNat && s.step.records.any fun x => x.step == s.step.count)

def State.ckptArm (s : State) (r : Req) : Act :=
  let base := pf r 0 8
  let step := pf r 8 6
  let f := pf r 14 1
  if 1 < f then ends s (answer resBadfield 14)
  else if f = 1 then endsOk { s with ckpt := { s.ckpt with armed := false } }
  else if base % 65536 ≠ 0 || decide (2 ^ 48 ≤ base) then ends s (answer resBadfield 0)
  else if s.boundaryPast step then ends s (answer resLate)
  else endsOk { s with ckpt := { s.ckpt with base := BitVec.ofNat 48 base, stepArm := BitVec.ofNat 48 step, armed := true } }

/-- CELL_REPAIR responds at start; the cell runs its enable path (R303, R307). -/
def State.cellRepair (s : State) (n : Fin 8) (r : Req) : Act :=
  if h : pf r 0 1 < 68 then
    let p : PCell := ⟨pf r 0 1, h⟩
    if !(s.cell p).retired then ends s (answer resState 6)
    else endsOk ((s.modCell p fun c => { c with repairing := true, again := false, mb := some n.val }).enable p)
  else ends s (answer resBadfield 0)

/-! ### The log (R339, R340) -/

def State.pennantAck (s : State) (r : Req) : Act :=
  let t : Word := w32 (pf r 0 4)
  if 1 < pf r 4 1 then ends s (answer resBadfield 4)
  else if s.log.unread < (t - s.log.tail).toNat then ends s (answer resRange)
  else endsOk { s with log := { s.log with tail := t, lost := if pf r 4 1 = 1 then 0 else s.log.lost } }

/-- Bytes of the flush region (R343). -/
def flushBytes : Nat := 65536

def State.logConfigure (s : State) (r : Req) : Act :=
  let b := pf r 8 8
  if 1 < pf r 0 1 then ends s (answer resBadfield 0)
  else if b % 65536 ≠ 0 then ends s (answer resBadfield 8)
  else if b ≠ 0 && !(s.ownPa b && s.inMem b flushBytes) then ends s (answer resRange)
  else endsOk { s with log := { s.log with flushEn := pf r 0 1 = 1, flushBase := BitVec.ofNat 52 b } }

/-! ### Current and cell power (R391-R398) -/

def State.powerConfigure (s : State) (r : Req) : Act :=
  let budget := pf r 0 4
  let ramp := pf r 4 4
  let client := pf r 8 1
  let cap := pf r 12 4
  if 4096 ≤ budget then ends s (answer resBadfield 0)
  else if 4096 ≤ ramp then ends s (answer resBadfield 4)
  else if client ≠ 0xFF && decide (136 ≤ client) then ends s (answer resBadfield 8)
  else if client ≠ 0xFF && decide (4096 ≤ cap) then ends s (answer resBadfield 12)
  else if budget < floorF s.pins.gradeS then ends s (answer resRange)
  else
    let caps := if client = 0xFF then s.cba.cap else s.cba.cap.setIfInBounds client (BitVec.ofNat 12 cap)
    endsOk ({ s with cba := { s.cba with budget := BitVec.ofNat 12 budget, ramp := BitVec.ofNat 12 ramp, cap := caps } } : State).serve

/-- CELL_POWER (R398): spares alone. -/
def State.cellPower (s : State) (n : Fin 8) (r : Req) : Act :=
  if h : pf r 0 1 < 68 then
    let p : PCell := ⟨pf r 0 1, h⟩
    let c := s.cell p
    if 1 < pf r 1 1 then ends s (answer resBadfield 1)
    else if c.logical.isSome || c.retired || c.filling then ends s (answer resState 6)
    else
      let s := s.modCell p fun c => { c with mb := some n.val }
      endsOk (if pf r 1 1 = 1 then s.enable p else s.shutdown p)
  else ends s (answer resBadfield 0)

/-! ### The tick (R379, R381, R384) -/

def State.tickConfigure (s : State) (r : Req) : Act :=
  let v := pf r 0 4
  let us : BitVec 24 := BitVec.ofNat 24 (v / 256)
  if v &&& 0xF2 ≠ 0 then ends s (answer resBadfield 0)
  else
    let en : Bool := v % 2 = 1
    let source : Bool := v / 4 % 2 = 1
    let s := { s with clk := { s.clk with en := en, source := source, load := v / 8 % 2 = 1 } }
    let s := if !en || source then { s with clk := { s.clk with skew := .free, slew := 0, good := 0 } } else s
    if us = s.clk.stepUs then endsOk { s with job := { s.job with defStepUs := none } }
    else if s.step.running then endsOk { s with job := { s.job with defStepUs := some us } }
    else endsOk { s with clk := { s.clk with stepUs := us } }

/-! ### Administration (R342, R349, R357, R405) -/

def lifeOf (n : Nat) : Option Life :=
  match n with
  | 0 => some .blank
  | 1 => some .test
  | 2 => some .provisioned
  | 3 => some .service
  | 4 => some .returned
  | _ => none

/-- The transitions of R405. -/
def lifeNext (a b : Life) : Bool :=
  match a, b with
  | .blank, .test => true
  | .test, .provisioned => true
  | .provisioned, .service => true
  | .returned, _ => false
  | _, .returned => true
  | _, _ => false

/-- LIFECYCLE_SET (R405, R406): the transition begins with the flush of the log; when the command goes on the fuse group is blown, with
`fuseOk` as its verification finds it, and the instance wipe begins. The boot ROM answers after the wipe (`State.transWiped`). -/
def State.lifecycleSet (s : State) (n : Fin 8) (fuseOk : Bool) (r : Req) : Act :=
  match lifeOf (pf r 0 1) with
  | none => ends s (answer resBadfield 0)
  | some t =>
    if s.pins.trans then
      goesOn { s with pins := { s.pins with life := if fuseOk then t else s.pins.life, wiping := true, lifeReq := some (n.val, t, fuseOk) } }
    else if !lifeNext s.pins.life t then ends s (answer resState 3)
    else if s.pins.life = .service && s.job.present then ends s (answer resState 4)
    else
      let s := if s.log.flushBase = 0 then s else s.flushAll
      goesOn { s with pins := { s.pins with trans := true } }

/-- MB_GRANT gives classes to another mailbox. -/
def State.mbGrant (s : State) (r : Req) : Act :=
  let m := pf r 0 1
  if m = 0 || decide (7 < m) then ends s (answer resBadfield 0)
  else if 31 < pf r 1 1 then ends s (answer resBadfield 1)
  else endsOk (s.modMb m fun x => { x with classes := BitVec.ofNat 5 (pf r 1 1) })

/-- TEST_RUN; `failing` counts the failing rows or mismatched bytes. The loopback reads its image from memory (R144). -/
def State.testRun (s : State) (failing : Word) (r : Req) : Act :=
  let k := pf r 0 1
  if s.pins.life ≠ .blank && s.pins.life ≠ .test then ends s (answer resState 3)
  else if k = 0 || decide (2 < k) then ends s (answer resBadfield 0)
  else if k = 1 && decide (68 ≤ pf r 1 1) then ends s (answer resBadfield 1)
  else if k = 2 && !s.inMem (pf r 8 8) (pf r 16 8) then ends s (answer resRange)
  else if k = 2 then s.fwRead [(pf r 8 8, pf r 16 8)] fun s => ends s (answer resOk failing.toNat)
  else ends s (answer resOk failing.toNat)

/-! ### Meanings -/

def execParityConfigure (n : Caller) (agree : Bool) (s : State) : Host.Outcome State Fault Refusal :=
  .next (s.package n 0x0200 fun r s => s.parityConfigure agree r)
def execParityResync (n : Caller) (s : State) : Host.Outcome State Fault Refusal := .next (s.package n 0x0201 fun r s => s.parityResync r)
def execParityRebuild (n : Caller) (lostStale two : Bool) (s : State) : Host.Outcome State Fault Refusal :=
  .next (s.package n 0x0202 fun r s => s.parityRebuild lostStale two r)
def execRecoveryJoin (n : Caller) (s : State) : Host.Outcome State Fault Refusal := .next (s.package n 0x0203 fun r s => s.recoveryJoin r)
def execRecoveryResume (n : Caller) (s : State) : Host.Outcome State Fault Refusal := .next (s.package n 0x0204 fun r s => s.recoveryResume r)
def execCkptArm (n : Caller) (s : State) : Host.Outcome State Fault Refusal := .next (s.package n 0x0205 fun r s => s.ckptArm r)
def execCellRepair (n : Fin 8) (s : State) : Host.Outcome State Fault Refusal := .next (s.trisia n 0x0206 fun r s => s.cellRepair n r)
def execPennantAck (n : Fin 8) (s : State) : Host.Outcome State Fault Refusal := .next (s.trisia n 0x0300 fun r s => s.pennantAck r)
def execLogConfigure (n : Fin 8) (s : State) : Host.Outcome State Fault Refusal := .next (s.trisia n 0x0301 fun r s => s.logConfigure r)
def execPowerConfigure (n : Fin 8) (s : State) : Host.Outcome State Fault Refusal := .next (s.trisia n 0x0304 fun r s => s.powerConfigure r)
def execCellPower (n : Fin 8) (s : State) : Host.Outcome State Fault Refusal := .next (s.trisia n 0x0305 fun r s => s.cellPower n r)
def execTickConfigure (n : Caller) (s : State) : Host.Outcome State Fault Refusal := .next (s.package n 0x0306 fun r s => s.tickConfigure r)
def execLifecycleSet (n : Fin 8) (fuseOk : Bool) (s : State) : Host.Outcome State Fault Refusal :=
  .next (s.trisia n 0x0400 fun r s => s.lifecycleSet n fuseOk r)
def execMbGrant (n : Fin 8) (s : State) : Host.Outcome State Fault Refusal := .next (s.trisia n 0x0401 fun r s => s.mbGrant r)
def execTestRun (n : Fin 8) (failing : BitVec 32) (s : State) : Host.Outcome State Fault Refusal := .next (s.trisia n 0x0402 fun r s => s.testRun failing r)

end Sys2Proof.Machine
end

