-- ==== Sys2Proof/Machine/Dispatch.lean ====
section
/-! DEFINITION. One arm per command, each one call of its meaning. -/

namespace Sys2Proof.Machine

def exec (i : Instr) (s : State) : Host.Outcome State Fault Refusal :=
  match i with
  | .tcfg e tag arg => Sys2Proof.Machine.execTcfg e tag arg s
  | .tload e tag arg => Sys2Proof.Machine.execTload e tag arg s
  | .tstore e tag arg => Sys2Proof.Machine.execTstore e tag arg s
  | .tzero e tag arg => Sys2Proof.Machine.execTzero e tag arg s
  | .tmove e tag arg ecc => Sys2Proof.Machine.execTmove e tag arg ecc s
  | .trelease e tag arg => Sys2Proof.Machine.execTrelease e tag arg s
  | .rkick e tag arg => Sys2Proof.Machine.execRkick e tag arg s
  | .rwait e tag arg => Sys2Proof.Machine.execRwait e tag arg s
  | .rvread e tag arg rvEcc => Sys2Proof.Machine.execRvread e tag arg rvEcc s
  | .stashput e tag arg => Sys2Proof.Machine.execStashput e tag arg s
  | .stashget e tag arg => Sys2Proof.Machine.execStashget e tag arg s
  | .fence e tag arg => Sys2Proof.Machine.execFence e tag arg s
  | .reservedOpcodeBeat e op tag arg => Sys2Proof.Machine.execReservedOpcodeBeat e op tag arg s
  | .commandStart e ecc => Sys2Proof.Machine.execCommandStart e ecc s
  | .operandReadRequest e a b aclk eccA eccB => Sys2Proof.Machine.execOperandReadRequest e a b aclk eccA eccB s
  | .resultWrite e tile row data rctl aclk ecc rvEcc => Sys2Proof.Machine.execResultWrite e tile row data rctl aclk ecc rvEcc s
  | .correctedRowWriteback p tile row => Sys2Proof.Machine.execCorrectedRowWriteback p tile row s
  | .currentGrantRequest e amt aclk => Sys2Proof.Machine.execCurrentGrantRequest e amt aclk s
  | .rampRefill now => Sys2Proof.Machine.execRampRefill now s
  | .epErrReport e v => Sys2Proof.Machine.execEpErrReport e v s
  | .atuWalkComplete w ecc => Sys2Proof.Machine.execAtuWalkComplete w ecc s
  | .loadRowArrival e tag row ecc => Sys2Proof.Machine.execLoadRowArrival e tag row ecc s
  | .storeRowWritten e tag row piece ecc => Sys2Proof.Machine.execStoreRowWritten e tag row piece ecc s
  | .armedTickKick now route => Sys2Proof.Machine.execArmedTickKick now route s
  | .routeRunStart q => Sys2Proof.Machine.execRouteRunStart q s
  | .routeLineArrival route unit ecc => Sys2Proof.Machine.execRouteLineArrival route unit ecc s
  | .routeLineFault route unit => Sys2Proof.Machine.execRouteLineFault route unit s
  | .routeRunEnd route => Sys2Proof.Machine.execRouteRunEnd route s
  | .streamPrefetch route => Sys2Proof.Machine.execStreamPrefetch route s
  | .indexWindow route ecc => Sys2Proof.Machine.execIndexWindow route ecc s
  | .windowFoldDone route w rows ecc => Sys2Proof.Machine.execWindowFoldDone route w rows ecc s
  | .scatterPartialApply route w row ecc => Sys2Proof.Machine.execScatterPartialApply route w row ecc s
  | .packetGrant target nclk arrivals credits => Sys2Proof.Machine.execPacketGrant target nclk arrivals credits s
  | .defaultTargetAnswer q port addr write w => Sys2Proof.Machine.execDefaultTargetAnswer q port addr write w s
  | .flitCrcFail l replayed reach => Sys2Proof.Machine.execFlitCrcFail l replayed reach s
  | .linkFail l reach => Sys2Proof.Machine.execLinkFail l reach s
  | .mspReadSector m id seq status data => Sys2Proof.Machine.execMspReadSector m id seq status data s
  | .mspWriteResponse m id status => Sys2Proof.Machine.execMspWriteResponse m id status s
  | .mspTimeout m id now => Sys2Proof.Machine.execMspTimeout m id now s
  | .mspIdAck m data => Sys2Proof.Machine.execMspIdAck m data s
  | .mspIdTimeout m => Sys2Proof.Machine.execMspIdTimeout m s
  | .gradientPartial x msg => Sys2Proof.Machine.execGradientPartial x msg s
  | .parityDelta x msg => Sys2Proof.Machine.execParityDelta x msg s
  | .rebuildStream x msg fails => Sys2Proof.Machine.execRebuildStream x msg fails s
  | .stepvoid x msg => Sys2Proof.Machine.execStepvoid x msg s
  | .heartbeat x msg => Sys2Proof.Machine.execHeartbeat x msg s
  | .divergenceDigest x msg => Sys2Proof.Machine.execDivergenceDigest x msg s
  | .tickValue x msg => Sys2Proof.Machine.execTickValue x msg s
  | .xspBadMessage x msg => Sys2Proof.Machine.execXspBadMessage x msg s
  | .heartbeatSend now => Sys2Proof.Machine.execHeartbeatSend now s
  | .peerLossTimeout chip now => Sys2Proof.Machine.execPeerLossTimeout chip now s
  | .digestExchange now => Sys2Proof.Machine.execDigestExchange now s
  | .replayAgreementTimeout now => Sys2Proof.Machine.execReplayAgreementTimeout now s
  | .replayTick now => Sys2Proof.Machine.execReplayTick now s
  | .launchTick now ids => Sys2Proof.Machine.execLaunchTick now ids s
  | .stepDueTick now => Sys2Proof.Machine.execStepDueTick now s
  | .boundaryDecided now => Sys2Proof.Machine.execBoundaryDecided now s
  | .boundaryTaken now => Sys2Proof.Machine.execBoundaryTaken now s
  | .stashSpaceFreed w => Sys2Proof.Machine.execStashSpaceFreed w s
  | .stashTimeout w now => Sys2Proof.Machine.execStashTimeout w now s
  | .stashSpill w => Sys2Proof.Machine.execStashSpill w s
  | .stashRefill q => Sys2Proof.Machine.execStashRefill q s
  | .genwaitRelease route => Sys2Proof.Machine.execGenwaitRelease route s
  | .genTimeout route now => Sys2Proof.Machine.execGenTimeout route now s
  | .checkpointDrainDone idx ecc => Sys2Proof.Machine.execCheckpointDrainDone idx ecc s
  | .fillStageDone pass ids rows => Sys2Proof.Machine.execFillStageDone pass ids rows s
  | .cellPowerStageDone p pass ids rows => Sys2Proof.Machine.execCellPowerStageDone p pass ids rows s
  | .patrolScrub w ecc => Sys2Proof.Machine.execPatrolScrub w ecc s
  | .pennantRecordWrite => Sys2Proof.Machine.execPennantRecordWrite s
  | .coalesceDrain => Sys2Proof.Machine.execCoalesceDrain s
  | .preresetFall => Sys2Proof.Machine.execPreresetFall s
  | .preresetRise => Sys2Proof.Machine.execPreresetRise s
  | .resetRelease r => Sys2Proof.Machine.execResetRelease r s
  | .resetAssert => Sys2Proof.Machine.execResetAssert s
  | .instanceWipeDone badCells badOther => Sys2Proof.Machine.execInstanceWipeDone badCells badOther s
  | .wiquinTraining w reversed both w0 w1 w2 w3 => Sys2Proof.Machine.execWiquinTraining w reversed both w0 w1 w2 w3 s
  | .wiquinTrainTimeout w => Sys2Proof.Machine.execWiquinTrainTimeout w s
  | .masterSettlement words reach gtc canon late => Sys2Proof.Machine.execMasterSettlement words reach gtc canon late s
  | .peerIdentityWord word canon => Sys2Proof.Machine.execPeerIdentityWord word canon s
  | .lateJoinRequest id => Sys2Proof.Machine.execLateJoinRequest id s
  | .voidReportToMaster id cause hold notBefore => Sys2Proof.Machine.execVoidReportToMaster id cause hold notBefore s
  | .gtcSyncPulse now => Sys2Proof.Machine.execGtcSyncPulse now s
  | .syncHoldover now => Sys2Proof.Machine.execSyncHoldover now s
  | .timingFlit masterGtc launch clErr load => Sys2Proof.Machine.execTimingFlit masterGtc launch clErr load s
  | .bootImageChunk => Sys2Proof.Machine.execBootImageChunk s
  | .firmwareVerifyDone => Sys2Proof.Machine.execFirmwareVerifyDone s
  | .mbRing n => Sys2Proof.Machine.execMbRing n s
  | .mbAck n => Sys2Proof.Machine.execMbAck n s
  | .mbResponse n lost => Sys2Proof.Machine.execMbResponse n lost s
  | .mbRequestWrite n word val => Sys2Proof.Machine.execMbRequestWrite n word val s
  | .routeWindowWrite route word val => Sys2Proof.Machine.execRouteWindowWrite route word val s
  | .gtcLaunchHiWrite val => Sys2Proof.Machine.execGtcLaunchHiWrite val s
  | .irqStsW1c val => Sys2Proof.Machine.execIrqStsW1c val s
  | .irqEnWrite val => Sys2Proof.Machine.execIrqEnWrite val s
  | .tfFaultClear p val => Sys2Proof.Machine.execTfFaultClear p val s
  | .buntingWrite off be val => Sys2Proof.Machine.execBuntingWrite off be val s
  | .buntingRead off => Sys2Proof.Machine.execBuntingRead off s
  | .pairLoReadLatch off => Sys2Proof.Machine.execPairLoReadLatch off s
  | .registerWrite off be val => Sys2Proof.Machine.execRegisterWrite off be val s
  | .tapInstruction ir => Sys2Proof.Machine.execTapInstruction ir s
  | .info n => Sys2Proof.Machine.execInfo n s
  | .identRead n => Sys2Proof.Machine.execIdentRead n s
  | .cellmapRead n => Sys2Proof.Machine.execCellmapRead n s
  | .steprecRead n => Sys2Proof.Machine.execSteprecRead n s
  | .stashdirRead n => Sys2Proof.Machine.execStashdirRead n s
  | .gentabRead n => Sys2Proof.Machine.execGentabRead n s
  | .memRead n ecc => Sys2Proof.Machine.execMemRead n ecc s
  | .jobConfigure n => Sys2Proof.Machine.execJobConfigure n s
  | .routeLoad n => Sys2Proof.Machine.execRouteLoad n s
  | .routeKick n => Sys2Proof.Machine.execRouteKick n s
  | .routeArm n => Sys2Proof.Machine.execRouteArm n s
  | .genRegister n => Sys2Proof.Machine.execGenRegister n s
  | .stashAbort n => Sys2Proof.Machine.execStashAbort n s
  | .cursorSet n => Sys2Proof.Machine.execCursorSet n s
  | .detSet n => Sys2Proof.Machine.execDetSet n s
  | .haltSet n => Sys2Proof.Machine.execHaltSet n s
  | .pause n => Sys2Proof.Machine.execPause n s
  | .snapshotExport n => Sys2Proof.Machine.execSnapshotExport n s
  | .resume n => Sys2Proof.Machine.execResume n s
  | .digestConfigure n => Sys2Proof.Machine.execDigestConfigure n s
  | .xlateInvalidate n => Sys2Proof.Machine.execXlateInvalidate n s
  | .cacheFlush n => Sys2Proof.Machine.execCacheFlush n s
  | .preempt n => Sys2Proof.Machine.execPreempt n s
  | .buntGroup n => Sys2Proof.Machine.execBuntGroup n s
  | .ctxSave n ecc => Sys2Proof.Machine.execCtxSave n ecc s
  | .ctxRestore n => Sys2Proof.Machine.execCtxRestore n s
  | .parityConfigure n agree => Sys2Proof.Machine.execParityConfigure n agree s
  | .parityResync n => Sys2Proof.Machine.execParityResync n s
  | .parityRebuild n lostStale two => Sys2Proof.Machine.execParityRebuild n lostStale two s
  | .recoveryJoin n => Sys2Proof.Machine.execRecoveryJoin n s
  | .recoveryResume n => Sys2Proof.Machine.execRecoveryResume n s
  | .ckptArm n => Sys2Proof.Machine.execCkptArm n s
  | .cellRepair n => Sys2Proof.Machine.execCellRepair n s
  | .pennantAck n => Sys2Proof.Machine.execPennantAck n s
  | .logConfigure n => Sys2Proof.Machine.execLogConfigure n s
  | .memWrite n ecc => Sys2Proof.Machine.execMemWrite n ecc s
  | .imageLoad n => Sys2Proof.Machine.execImageLoad n s
  | .powerConfigure n => Sys2Proof.Machine.execPowerConfigure n s
  | .cellPower n => Sys2Proof.Machine.execCellPower n s
  | .tickConfigure n => Sys2Proof.Machine.execTickConfigure n s
  | .lifecycleSet n fuseOk => Sys2Proof.Machine.execLifecycleSet n fuseOk s
  | .mbGrant n => Sys2Proof.Machine.execMbGrant n s
  | .testRun n failing => Sys2Proof.Machine.execTestRun n failing s
  | .reservedTrisiaOpcode n => Sys2Proof.Machine.execReservedTrisiaOpcode n s
  | .xspLinkStateChange x up => Sys2Proof.Machine.execXspLinkStateChange x up s
  | .epCgAmtChange e amt => Sys2Proof.Machine.execEpCgAmtChange e amt s
  | .stashRowTransfer w ecc => Sys2Proof.Machine.execStashRowTransfer w ecc s
  | .hostReadDecerr off be => Sys2Proof.Machine.execHostReadDecerr off be s
  | .pairHiRead off => Sys2Proof.Machine.execPairHiRead off s
  | .voidCleanupDone tests => Sys2Proof.Machine.execVoidCleanupDone tests s

end Sys2Proof.Machine
end

