-- ==== Sys2Proof/Safety.lean ====
section
/-! DEFINITION. What counts as a sound state, and the frames and conditions in which the claims are stated. -/

namespace Sys2Proof.Machine

/-- The invariant that every step keeps: memory is in its canonical form. -/
def State.Inv (s : State) : Prop := s.mem.wf = true

/-- `t` differs from `s` at most in the outputs, the cells, the log, the interrupt flags, the Geometry window and the two
package fields that the admission of a late instance changes (R376). -/
structure CellFrame (s t : State) : Prop where
  pending : t.pending = s.pending
  mem     : t.mem = s.mem
  free    : t.free = s.free
  lines   : t.lines = s.lines
  sram    : t.sram = s.sram
  pins    : t.pins = s.pins
  clk     : t.clk = s.clk
  glob    : t.glob = { s.glob with irqSts := t.glob.irqSts, geo := t.glob.geo }
  job     : t.job = s.job
  step    : t.step = s.step
  tmb     : t.tmb = s.tmb
  quads   : t.quads = s.quads
  fills   : t.fills = s.fills
  rt      : t.rt = s.rt
  stash   : t.stash = s.stash
  gens    : t.gens = s.gens
  par     : t.par = s.par
  ckpt    : t.ckpt = s.ckpt
  dig     : t.dig = s.dig
  merge   : t.merge = s.merge
  mbs     : t.mbs = s.mbs
  fwOrder : t.fwOrder = s.fwOrder
  msps    : t.msps = s.msps
  net     : t.net = s.net
  pkg     : t.pkg = { s.pkg with present := t.pkg.present, late := t.pkg.late }
  cba     : t.cba = s.cba
  tap     : t.tap = s.tap

/-! ### Engine ports -/

/-- The port takes this beat (R49, R53): the ready signal is high, the tag is free, no reserved bit is set. -/
def State.takes (s : State) (e : EPort) (op tag : Byte) (arg : BitVec 112) : Prop :=
  s.cmdReady e = true ∧ (s.port e).find tag = none ∧ reservedBitSet op (beatOf op tag arg) = false

/-- The beat is taken by a port with nothing outstanding, and its tiles are free: the command starts at once (R54, R93). -/
def State.startsNow (s : State) (e : EPort) (op tag : Byte) (arg : BitVec 112) : Prop :=
  s.takes e op tag arg ∧ (s.port e).cmds = [] ∧ s.tmb.hold = false ∧ s.conflict e.p { beat := beatOf op tag arg } = false

/-- The step presents this completion first of all that it presents (R51). -/
def State.completes (s t : State) (e : EPort) (op tag : Byte) (code : Code) (detail : Word) : Prop :=
  s.outs ++ [.cpl e (cplWord detail 0 op code tag)] <+: t.outs

/-- The command beats with their opcodes (R49). -/
def commandBeats (e : EPort) (tag : Byte) (arg : BitVec 112) (ecc : List RowEcc) (rvEcc : List (BitVec 7 × Ecc)) : List (Byte × Instr) :=
  [(opTCFG, .tcfg e tag arg), (opTLOAD, .tload e tag arg), (opTSTORE, .tstore e tag arg), (opTZERO, .tzero e tag arg),
   (opTMOVE, .tmove e tag arg ecc), (opTRELEASE, .trelease e tag arg), (opRKICK, .rkick e tag arg), (opRWAIT, .rwait e tag arg),
   (opRVREAD, .rvread e tag arg rvEcc), (opSTASHPUT, .stashput e tag arg), (opSTASHGET, .stashget e tag arg), (opFENCE, .fence e tag arg)]

/-- Within the frame of `CellFrame`: every other cell changes in its ports alone, and in cell `p` the ports, the tiles named,
TF_ROWSTART and the queued write-backs of those tiles alone change. -/
structure TileFrame (s t : State) (p : PCell) (ns : List TileNo) : Prop where
  rest  : CellFrame s t
  other : ∀ q, q ≠ p → t.cell q = { s.cell q with dep := (t.cell q).dep, sep := (t.cell q).sep }
  own   : t.cell p =
    { s.cell p with
      dep := (t.cell p).dep, sep := (t.cell p).sep, tiles := (t.cell p).tiles, rowStart := (t.cell p).rowStart, wbq := (t.cell p).wbq }
  tiles : ∀ n, n ∉ ns → (t.cell p).tile? n = (s.cell p).tile? n
  back  : (∀ x ∈ (t.cell p).wbq, x ∈ (s.cell p).wbq) ∧ ∀ x ∈ (s.cell p).wbq, x.1 ∉ ns → x ∈ (t.cell p).wbq

/-- A failed command: every cell changes in its ports alone, and in cell `p` TF_FAULT alone changes beside them. -/
structure FailFrame (s t : State) (p : PCell) : Prop where
  rest  : CellFrame s t
  other : ∀ q, q ≠ p → t.cell q = { s.cell q with dep := (t.cell q).dep, sep := (t.cell q).sep }
  own   : t.cell p = { s.cell p with dep := (t.cell p).dep, sep := (t.cell p).sep, tfFault := (t.cell p).tfFault }

/-- The code of a TCFG by the checks of R83, in their order. -/
def tcfgCode (s : State) (e : EPort) (n : TileNo) (k : TileCfg) : Code :=
  if ¬ (ownFile e.sep n = true) then .tnotvalid
  else if fmtDefined k.fmt = false ∨ k.fmt = 0x1E then .tfmt
  else if (s.port e).idNow.getLsbD k.fmt.toNat = false then .tfmt
  else if (k.layout = true ∧ ¬ (0x10 ≤ k.fmt.toNat ∧ k.fmt.toNat ≤ 0x17)) ∨ (k.layout = false ∧ 0x10 ≤ k.fmt.toNat ∧ k.fmt.toNat ≤ 0x17) then .tfmt
  else if k.fmt = 0x09 ∧ (32 * (k.rb.toNat + 1)) % 96 ≠ 0 then .tshape
  else if (match (s.cell e.p).tile? n with | some x => x.inUse && x.cfg != some k | none => false) = true then .tshape
  else .ok

/-- An operand of a read request reads as this row (R45, R48, R87): the tile lies in the port's file, is configured and not busy
for write, no write of this row is still in its window, and the row is valid. -/
def State.readsAs (s : State) (e : EPort) (req : BitVec 12) (aclk : Nat) (row : Row) : Prop :=
  ∃ x k, ownFile e.sep (req.extractLsb' 7 5) = true ∧ (s.cell e.p).tile? (req.extractLsb' 7 5) = some x ∧ x.cfg = some k
    ∧ s.busyW e.p (req.extractLsb' 7 5) = false
    ∧ (∀ w ∈ (s.port e).recent, ¬ (w.tile = req.extractLsb' 7 5 ∧ w.row = req.extractLsb' 0 7 ∧ max s.clk.aclk aclk ≤ w.aclk + 1))
    ∧ (req.extractLsb' 0 7).toNat < x.valid ∧ row = rowCut (x.rowAt (req.extractLsb' 0 7).toNat) k.bytes

/-- An operand of a read request has no row to present (R47, R87, R94): its tile is not of the port's file, not configured or busy for write,
or the row is not valid and no write of it is in its window. -/
def State.readsNothing (s : State) (e : EPort) (req : BitVec 12) (aclk : Nat) : Prop :=
  ownFile e.sep (req.extractLsb' 7 5) = false ∨ (s.cell e.p).tile? (req.extractLsb' 7 5) = none
    ∨ ∃ x, (s.cell e.p).tile? (req.extractLsb' 7 5) = some x ∧ (x.cfg = none ∨ s.busyW e.p (req.extractLsb' 7 5) = true
      ∨ ((∀ w ∈ (s.port e).recent, ¬ (w.tile = req.extractLsb' 7 5 ∧ w.row = req.extractLsb' 0 7 ∧ max s.clk.aclk aclk ≤ w.aclk + 1))
          ∧ x.valid ≤ (req.extractLsb' 0 7).toNat))

/-- Status and row of an operand that no error stops (R47): OK with its row, or TNOTVALID. -/
def State.presents (s : State) (e : EPort) (req : BitVec 12) (aclk : Nat) (st : BitVec 2) (row : Row) : Prop :=
  (st = 0 ∧ s.readsAs e req aclk row) ∨ (st = 1 ∧ row = 0 ∧ s.readsNothing e req aclk)

/-- The command that holds a tag of a port, with no FENCE under the same tag (R53). -/
def State.holds (s : State) (e : EPort) (tag : Byte) (c : Cmd) : Prop :=
  (s.port e).find tag = some c ∧ ∀ x ∈ (s.port e).cmds, x.tag = tag → x.op ≠ opFENCE

/-- The running TLOAD or TSTORE under a tag (R109). -/
def State.moving (s : State) (e : EPort) (tag : Byte) (c : Cmd) (p : LsProg) : Prop :=
  s.holds e tag c ∧ c.started = true ∧ c.ls = some p ∧ p.fault = none

/-- A violation now stays below the threshold of the port's fence (R75). -/
def State.tolerates (s : State) (e : EPort) : Prop :=
  (s.port e).fenced = false ∧ (s.recentViols 0 (s.port e).viols).length + 1 < fenceLimit s 0

/-- No memory-side port is fenced (R75). -/
def State.mspsOpen (s : State) : Prop := ∀ m, (s.msps.get m).fenced = false

/-- The state in which the translations kept for a window stand before those of the ATU (R217). -/
def State.kept (s : State) (q : QuadNo) (ls : List Leaf) : State := s.modQuad q fun y => { y with tlb := ls ++ y.tlb }

/-! ### The current budget -/

/-- Grants to engines stay within the budget less Orlith's floor (R391). -/
def State.inPool (s : State) : Prop := s.cba.engineSum ≤ s.cba.budget.toNat - floorF s.pins.gradeS

/-! ### The stash -/

/-- The put stands registered as a new entry with its place, and every older entry of its key is retired (R230, R234). -/
def State.registers (s t : State) (k : Put) : Prop :=
  (∃ y ∈ t.stash.entries, k.keyOf y = true ∧ y.uid = s.stash.uid ∧ y.isNew = true ∧ y.retired = false ∧ y.placed = true ∧ y.spilled = false
      ∧ y.put = false ∧ y.gen = k.gen ∧ y.vrows = (s.putTile k).valid)
    ∧ (∀ z ∈ t.stash.entries, k.keyOf z = true → z.retired = false → z.uid = s.stash.uid)
    ∧ t.stash.entries.length = s.stash.entries.length + 1

/-! ### Messages -/

/-- A good message of a type reaches a station port that is not fenced, for the first time (R67, R74, R412). -/
def State.takesMsg (s : State) (x : Fin 2) (m : XMsg) (type : Byte) : Prop :=
  s.asleep = false ∧ m.type = type ∧ s.msgFault m = none ∧ (s.net.xsps.get x).fenced = false ∧ s.isCopy m = false

/-- No stop or hold is in force while a step is in progress: a trigger voids it (R294). -/
def State.voidable (s : State) : Prop := s.step.running = true ∧ s.tmb.stop = false

/-- The step is voided with this cause (R294, R300). -/
def State.voidedBy (t : State) (cause : Byte) : Prop := t.tmb.stop = true ∧ t.tmb.cause = cause

/-! ### The control bus -/

/-- The bus answers, and writes take effect (R70, R423). -/
def State.busOn (s : State) : Prop := s.pins.rstN = true ∧ s.pins.wiping = false

/-- The offsets that the host may write (R361): doorbells and request buffers, ORL_IRQ_STS and ORL_IRQ_EN, GTC_LAUNCH, the route window, and
TF_FAULT of each cell or through Bunting. -/
def hostWritable (o : Nat) : Bool :=
  o == 0x20 || o == 0x24 || o == 0x8008 || o == 0x800C || (decide (0x600000 ≤ o) && decide (o < 0x800000))
    || (decide (0x10000 ≤ o) && decide (o < 0x12000) && (o % 0x400 == 0 || (decide (0x100 ≤ o % 0x400) && decide (o % 0x400 < 0x200))))
    || (decide (0x100000 ≤ o) && decide (o < 0x188000) && o % 0x2000 == 0x18)
    || o == 0x400018 || (decide (0x440000 ≤ o) && decide (o < 0x460000) && (o - 0x440000) % 0x2000 == 0x18)

/-- A word of a descriptor or of a request. -/
def wordOf {w : Nat} (x : BitVec w) (k : Nat) : Word := x.extractLsb' (32 * k) 32

/-! ### Trisia -/

/-- Firmware may begin the request that a mailbox has taken: nothing has begun it, firmware runs, PRERESET_N is high, it is its
turn (R350, R355, R356, R364). -/
def State.taken (s : State) (n : Fin 8) (op : Nat) (req : Req) : Prop :=
  (s.mbs.get n).cur = some { req := req } ∧ s.firmwareRuns = true ∧ s.pins.preRstN = true ∧ reqOp req = op ∧ s.itsTurn n op = true

/-- And none of the refusals that every command has in common applies (R351, R353-R355). -/
def State.begins (s : State) (n : Fin 8) (op : Nat) (req : Req) : Prop := s.taken n op req ∧ s.refusal n req = none

/-- What leaves with the answer of a command: the word to the other instances, for one of scope P that the master has carried out (R354). -/
def State.shares (s : State) (req : Req) (r : Resp) : List Out :=
  if r.result = resOk && isPkgOp (reqOp req) && s.leadsPackage then [.share req] else []

/-- The mailbox's request has this response (R352). -/
def State.answered (t : State) (n : Fin 8) (req : Req) (r : Resp) : Prop := ∃ w, (t.mbs.get n).cur = some { req := req, started := true, resp := some r, wait := w }

/-- The commands of R357 with their opcodes. -/
def trisiaCommands (n : Fin 8) (ecc : Ecc) (rows : List RowEcc) (b c : Bool) (w : Word) : List (Nat × Instr) :=
  [(0x0001, .info n), (0x0002, .identRead n), (0x0003, .cellmapRead n), (0x0004, .steprecRead n), (0x0005, .stashdirRead n), (0x0006, .gentabRead n),
   (0x0007, .memRead n ecc), (0x0100, .jobConfigure (.mailbox n)), (0x0101, .routeLoad n), (0x0102, .routeKick n), (0x0103, .routeArm n), (0x0104, .genRegister n),
   (0x0105, .stashAbort n), (0x0106, .cursorSet (.mailbox n)), (0x0107, .detSet (.mailbox n)), (0x0108, .haltSet (.mailbox n)), (0x0109, .pause (.mailbox n))]
  ++ [(0x010A, .snapshotExport (.mailbox n)), (0x010B, .resume (.mailbox n)), (0x010C, .digestConfigure (.mailbox n)), (0x010D, .xlateInvalidate (.mailbox n)), (0x010E, .cacheFlush n),
   (0x010F, .preempt n), (0x0110, .buntGroup n), (0x0111, .ctxSave n rows), (0x0112, .ctxRestore n), (0x0200, .parityConfigure (.mailbox n) b), (0x0201, .parityResync (.mailbox n)),
   (0x0202, .parityRebuild (.mailbox n) b c), (0x0203, .recoveryJoin (.mailbox n)), (0x0204, .recoveryResume (.mailbox n)), (0x0205, .ckptArm (.mailbox n)), (0x0206, .cellRepair n)]
  ++ [(0x0300, .pennantAck n), (0x0301, .logConfigure n), (0x0302, .memWrite n ecc), (0x0303, .imageLoad n), (0x0304, .powerConfigure n),
   (0x0305, .cellPower n), (0x0306, .tickConfigure (.mailbox n)), (0x0400, .lifecycleSet n b), (0x0401, .mbGrant n), (0x0402, .testRun n w)]

/-- The commands that can write memory: rows and runs that store, stash rows that spill, drains, the flush of the log, firmware that
writes, stacks that fill lines and resets that lose them. -/
def writesMemory : Instr → Bool
  | .storeRowWritten .. | .routeRunStart .. | .routeLineArrival .. | .routeLineFault .. | .scatterPartialApply .. | .mspReadSector ..
  | .gradientPartial .. | .rebuildStream .. | .launchTick .. | .boundaryTaken .. | .checkpointDrainDone .. | .pennantRecordWrite | .resetAssert
  | .instanceWipeDone .. | .stashput .. | .commandStart .. | .stashSpaceFreed .. | .stashRowTransfer .. | .stashSpill .. | .memWrite ..
  | .snapshotExport .. | .resume .. | .preempt .. | .ctxSave .. | .imageLoad .. | .lifecycleSet .. => true
  | _ => false

end Sys2Proof.Machine
end

