-- ==== Sys2Proof/Certificates/Slice0/Obligations.lean ====
section
/-! DEFINITION. The statements for the provers. -/

open Sys2Proof Sys2Proof.Machine

/-! ### The block as a whole -/

/-- A step takes the command at the front of the queue and is exec of it on the state with the queue's rest. -/
def Obligations.StepRunsFrontCommand : Prop :=
  ∀ (c : Instr) (r : List Instr) (s : State), step { s with pending := c :: r } = exec c { s with pending := r }

/-- With no command waiting one TCLK cycle passes (the model's choice, log entry 4): GTC advances by 10 ticks, by 11 or 9 only
while a correction is outstanding and none was made in the last 99 cycles (R377, R378), and nothing but the clock changes; the master of
more than one instance sends its timing flit when GTC passes a multiple of 2^12 (R377). Before GTC runs nothing changes. -/
def Obligations.IdleStepCountsOneCycle : Prop :=
  ∀ s : State, s.pending = [] →
    (s.clk.gtcOn = true → ∃ t d, step s = .next t ∧ t = { s with clk := t.clk, outs := t.outs }
      ∧ t.clk.gtc = s.clk.gtc + d ∧ (d = 10 ∨ (s.clk.slew ≠ 0 ∧ 99 ≤ s.clk.quiet ∧ (d = 9 ∨ d = 11)))
      ∧ t.outs = s.outs ++ (if s.leadsPackage = true ∧ s.clk.gtc.toNat / 4096 < t.clk.gtc.toNat / 4096 then [.wiquin none 7 t.clk.gtc] else []))
    ∧ (s.clk.gtcOn = false → step s = .next s)

/-- Every command of the table answers a next state, and none touches the commands that wait behind it. -/
def Obligations.EveryCommandCompletes : Prop :=
  ∀ (c : Instr) (s : State), ∃ t, exec c s = .next t ∧ t.pending = s.pending

/-- A step from memory in canonical form answers memory in canonical form, whatever the command.
Rests on log entry 7 (the form is the model's). -/
def Obligations.StepKeepsMemoryForm : Prop :=
  ∀ s t : State, s.Inv → step s = .next t → t.Inv

/-- Memory is in its canonical form in reset. Rests on log entry 7 (the form is the model's). -/
def Obligations.ResetMemoryForm : Prop := State.reset.Inv

/-- The commands that are not among those that store (`writesMemory`) leave every byte of memory as it is. -/
def Obligations.OtherCommandsLeaveMemory : Prop :=
  ∀ (c : Instr) (s t : State), writesMemory c = false → exec c s = .next t → ∀ a, t.mem.read a = s.mem.read a

/-- In reset: no cell has power (R399, R400), no tile is configured or in use (R81), RV0-RV3 are zero, no port is fenced, every mailbox is
IDLE and only mailbox 0 holds every class (R349, R354); STASH_CFG (R242), GEN_CFG (R256), TMB_CFG (R300), ORL_IRQ_EN (R341), STEP_US (R379)
and PAR_STS.STALE (R318) have the values of their tables, which the register map repeats (R425). The spec gives these. That State.reset is the
instance with ORL_RST_N low and its files about to be wiped is the model's choice, log entry 3; so are the empty queue, outputs and
command lists, log entry 1, as is every value that is not named here. -/
def Obligations.ResetState : Prop :=
  State.reset.pins.rstN = false ∧ State.reset.pins.wiping = true ∧ State.reset.pending = [] ∧ State.reset.outs = []
  ∧ (∀ p, (State.reset.cell p).pwr = .off ∧ (State.reset.cell p).logical = none
      ∧ (∀ n x, (State.reset.cell p).tile? n = some x → x.cfg = none ∧ x.inUse = false ∧ x.valid = 0)
      ∧ (∀ i : Fin 512, (State.reset.cell p).rv.get i = 0)
      ∧ (∀ b, ((State.reset.cell p).port b).cmds = [] ∧ ((State.reset.cell p).port b).fenced = false))
  ∧ (∀ n : Fin 8, (State.reset.mbs.get n).st = .idle ∧ (State.reset.mbs.get n).classes = if n = 0 then 0x1F else 0x01)
  ∧ State.reset.glob.stashCfg = 0x03E80400 ∧ State.reset.glob.genCfg = 0x03E80000 ∧ State.reset.glob.tmbCfg = 0x08001388
  ∧ State.reset.glob.irqEn = 0x0018 ∧ State.reset.clk.stepUs = 0x002710 ∧ State.reset.par.stale = true

/-! ### Command beats and tiles -/

/-- A beat that a port takes while an earlier command waits there joins the waiting ones under its tag, and nothing outside the
cells changes; the registers that an RVREAD reads as it is taken are free of uncorrectable errors. -/
def Obligations.TakenBeatWaitsItsTurn : Prop :=
  ∀ (e : EPort) (tag : Byte) (arg : BitVec 112) (ecc : List RowEcc) (rvEcc : List (BitVec 7 × Ecc)) (s : State) (x : Byte × Instr),
    x ∈ commandBeats e tag arg ecc rvEcc → s.takes e x.1 tag arg → (s.port e).waiting ≠ 0 → (∀ y ∈ rvEcc, y.2 ≠ .uncorr) →
    ∃ t c, exec x.2 s = .next t ∧ (t.port e).find tag = some c ∧ c.beat = beatOf x.1 tag arg ∧ c.started = false ∧ CellFrame s t
      ∧ ∀ p, (t.cell p).tiles = (s.cell p).tiles

/-- TCFG checks its fields in the order of R83; one that passes configures the tile with no valid row unless it is in use,
one that fails changes no tile and completes with the code of its first failing check and the tile in DETAIL. -/
def Obligations.TcfgChecksAndConfigures : Prop :=
  ∀ (e : EPort) (tag : Byte) (arg : BitVec 112) (s : State), s.startsNow e opTCFG tag arg →
    let b := beatOf opTCFG tag arg
    let n : TileNo := b.extractLsb' 24 5
    let k : TileCfg := ⟨b.getLsbD 56, b.extractLsb' 48 5, b.extractLsb' 40 3, b.extractLsb' 32 7⟩
    let code := tcfgCode s e n k
    ∃ t, exec (.tcfg e tag arg) s = .next t
      ∧ (code = .ok → s.completes t e opTCFG tag .ok 0 ∧ TileFrame s t e.p [n]
          ∧ ∀ x, (s.cell e.p).tile? n = some x →
              (t.cell e.p).tile? n = some (if x.inUse then x else { x with cfg := some k, valid := 0, written := 0 }))
      ∧ (code ≠ .ok → s.completes t e opTCFG tag code (n.setWidth 32) ∧ FailFrame s t e.p)

/-- TZERO with RELEASE clear (R88, R123): the tile reads as ROWS rows of zeros, in use, its resume record is gone; on a tile that is not
configured it completes with TNOTVALID. TRELEASE, and TZERO with RELEASE set for its one tile: a tile that is configured and in use loses
its row-written bits, its VALIDROWS and its TF_INUSE bit and keeps its configuration; every tile named loses its resume record; TRELEASE
completes with OK in any case. -/
def Obligations.ZeroAndReleaseTiles : Prop :=
  ∀ (e : EPort) (tag : Byte) (arg : BitVec 112) (s : State),
    (s.startsNow e opTZERO tag arg →
      let b := beatOf opTZERO tag arg
      let n : TileNo := b.extractLsb' 24 5
      ∃ t, exec (.tzero e tag arg) s = .next t
        ∧ (∀ x k, b.getLsbD 32 = false → ownFile e.sep n = true → (s.cell e.p).tile? n = some x → x.cfg = some k →
            s.completes t e opTZERO tag .ok 0 ∧ TileFrame s t e.p [n]
            ∧ ∃ y, (t.cell e.p).tile? n = some y ∧ y.cfg = some k ∧ y.inUse = true ∧ y.valid = k.rm1.toNat + 1 ∧ y.written = 0
              ∧ y.resume = none ∧ ∀ r, y.rowAt r = 0)
        ∧ (b.getLsbD 32 = false → (ownFile e.sep n = false ∨ ∀ x, (s.cell e.p).tile? n = some x → x.cfg = none) →
            s.completes t e opTZERO tag .tnotvalid (n.setWidth 32) ∧ FailFrame s t e.p)
        ∧ (∀ x k, b.getLsbD 32 = true → ownFile e.sep n = true → (s.cell e.p).tile? n = some x → x.cfg = some k →
            s.completes t e opTZERO tag .ok 0 ∧ TileFrame s t e.p [n]
            ∧ (t.cell e.p).tile? n = some (if x.inUse = true then { x with written := 0, valid := 0, inUse := false, resume := none }
                else { x with resume := none })))
    ∧ (s.startsNow e opTRELEASE tag arg →
      let m : BitVec 24 := (beatOf opTRELEASE tag arg).extractLsb' 24 24
      ∃ t, exec (.trelease e tag arg) s = .next t ∧ s.completes t e opTRELEASE tag .ok 0 ∧ TileFrame s t e.p (maskTiles m)
        ∧ ∀ n x, (s.cell e.p).tile? n = some x → m.getLsbD n.toNat = true →
            (t.cell e.p).tile? n = some (if x.cfg.isSome ∧ x.inUse = true then { x with written := 0, valid := 0, inUse := false, resume := none }
              else { x with resume := none }))

/-- TMOVE (R90, R91, R97): the first failing check ends it with its code and the tile in DETAIL, and no tile changes. Between two tiles of
one configuration the destination has the source's valid rows, each row reads as the source's, and its rows beyond them have their
row-written bits clear; the source and every other tile are unchanged, and a queued write-back of a row that was overwritten is gone: of
every row below the source's VALIDROWS but one whose row-written bit is clear there, which writes no bank. A tile moved onto itself loses its resume record and nothing else. A row that cannot be corrected voids the step. That a destination is in
use after the move of a source in use that has no row written is the model's choice (log entry 74); R91 does not say it. -/
def Obligations.TmoveCopiesRows : Prop :=
  ∀ (e : EPort) (tag : Byte) (arg : BitVec 112) (ecc : List RowEcc) (s : State), s.startsNow e opTMOVE tag arg →
    let b := beatOf opTMOVE tag arg
    let n : TileNo := b.extractLsb' 24 5
    let m : TileNo := b.extractLsb' 32 5
    let fails (code : Code) (k : TileNo) : Prop := ∃ t, exec (.tmove e tag arg ecc) s = .next t
      ∧ s.completes t e opTMOVE tag code (k.setWidth 32) ∧ FailFrame s t e.p
    ((∀ x k, (s.cell e.p).tile? n = some x → x.cfg = some k → x.inUse = false) → fails .tnotvalid n)
    ∧ ∀ x kx, (s.cell e.p).tile? n = some x → x.cfg = some kx → x.inUse = true →
      ((∀ y k, (s.cell e.p).tile? m = some y → y.cfg ≠ some k) → fails .tnotvalid m)
      ∧ ∀ y ky, (s.cell e.p).tile? m = some y → y.cfg = some ky →
        ((kx.fmt ≠ ky.fmt ∨ kx.layout ≠ ky.layout) → fails .tfmt m)
        ∧ (kx.fmt = ky.fmt → kx.layout = ky.layout →
          ((kx.rb ≠ ky.rb ∨ ky.rm1.toNat + 1 < x.valid) → fails .tshape m)
          ∧ (kx.rb = ky.rb → x.valid ≤ ky.rm1.toNat + 1 →
            (n = m → ∃ t, exec (.tmove e tag arg ecc) s = .next t ∧ s.completes t e opTMOVE tag .ok 0 ∧ TileFrame s t e.p [n]
              ∧ (t.cell e.p).tile? n = some { x with resume := none })
            ∧ (n ≠ m → (∀ r, x.written.getLsbD r.toNat = true → eccAt ecc n r ≠ .uncorr) →
              ∃ t z, exec (.tmove e tag arg ecc) s = .next t ∧ s.completes t e opTMOVE tag .ok 0 ∧ CellFrame s t ∧ (ecc = [] → TileFrame s t e.p [m])
                ∧ (t.cell e.p).tile? m = some z ∧ z.cfg = some ky ∧ z.inUse = true ∧ z.valid = x.valid ∧ z.resume = none
                ∧ (∀ r, r < x.valid → r < 128 → z.rowAt r = x.rowAt r) ∧ (∀ r, x.valid ≤ r → z.written.getLsbD r = false)
                ∧ (∀ k, k ≠ m → (t.cell e.p).tile? k = (s.cell e.p).tile? k)
                ∧ (∀ r : RowNo, r.toNat < x.valid → x.written.getLsbD r.toNat = true → (m, r) ∉ (t.cell e.p).wbq))
            ∧ (∀ r : RowNo, n ≠ m → r.toNat < x.valid → x.written.getLsbD r.toNat = true → eccAt ecc n r = .uncorr → s.step.running = true →
              ∃ t, exec (.tmove e tag arg ecc) s = .next t ∧ t.voidedBy 0x01 ∧ t.mem = s.mem)))

/-- RVREAD (R50, R90, R103): entries 0 to 63 of the register go to row ROW of the tile and entries 64 to 127 to the next, as FP32
elements; a tile that is not configured, of another format, or whose shape does not hold the two rows, ends it with the code of that
check and no tile changes. A register that cannot be corrected voids the step as the beat is taken (R97, R103). -/
def Obligations.RvreadWritesTwoRows : Prop :=
  (∀ (e : EPort) (tag : Byte) (arg : BitVec 112) (s : State), s.startsNow e opRVREAD tag arg →
    let b := beatOf opRVREAD tag arg
    let n : TileNo := b.extractLsb' 32 5
    let row := (b.extractLsb' 40 7).toNat
    let entry (i : Nat) : Word := ((s.cell e.p).rv[(b.extractLsb' 24 2).toNat * 128 + i]?).getD 0
    let fails (code : Code) : Prop := ∃ t, exec (.rvread e tag arg []) s = .next t
      ∧ s.completes t e opRVREAD tag code (n.setWidth 32) ∧ FailFrame s t e.p
    ((ownFile e.sep n = false ∨ ∀ x k, (s.cell e.p).tile? n = some x → x.cfg ≠ some k) → fails .tnotvalid)
    ∧ ∀ x k, ownFile e.sep n = true → (s.cell e.p).tile? n = some x → x.cfg = some k →
      (k.fmt ≠ 0 → fails .tfmt)
      ∧ (k.fmt = 0 → (k.rb ≠ 7 ∨ k.rm1.toNat + 1 < row + 2) → fails .tshape)
      ∧ (k.fmt = 0 → k.rb = 7 → row + 2 ≤ k.rm1.toNat + 1 →
        ∃ t y, exec (.rvread e tag arg []) s = .next t ∧ s.completes t e opRVREAD tag .ok 0 ∧ TileFrame s t e.p [n]
          ∧ (t.cell e.p).tile? n = some y ∧ y.cfg = some k ∧ y.inUse = true ∧ y.valid = max x.valid (row + 2)
          ∧ y.rowAt row = rowOfWords ((List.range 64).map entry)
          ∧ y.rowAt (row + 1) = rowOfWords ((List.range 64).map fun i => entry (64 + i))
          ∧ ∀ r, r ≠ row → r ≠ row + 1 → y.rowAt r = x.rowAt r))
  ∧ (∀ (e : EPort) (tag : Byte) (arg : BitVec 112) (rvEcc : List (BitVec 7 × Ecc)) (i : BitVec 7) (s : State), s.takes e opRVREAD tag arg →
      rvEcc.find? (fun x => x.1 == i) = some (i, .uncorr) → s.step.running = true →
      ∃ t, exec (.rvread e tag arg rvEcc) s = .next t ∧ t.voidedBy 0x01 ∧ t.mem = s.mem)


/-- A FENCE that starts as it is taken names the commands outstanding before it on its port (bit 24), those of the cell's other port (bit
26) and the runs of its port and groups (bit 25 and bits 32 to 47). It completes with OK in that step if that is nothing (R50); else it stays
outstanding under its tag until all of it has ended (R50, R54), and completes in the step in which the last ends: an earlier command or one
of the other port, here the last row of a TLOAD, or a run. When commands start is the model's grain, log entry 11. -/
def Obligations.FenceCompletesWhenNothingIsOwed : Prop :=
  (∀ (e : EPort) (tag : Byte) (arg : BitVec 112) (s : State), s.takes e opFENCE tag arg → (s.port e).waiting = 0 → s.tmb.hold = false →
    (s.port e).cmds.any Cmd.holdsUp = false → s.conflict e.p { beat := beatOf opFENCE tag arg } = false →
    let beat := beatOf opFENCE tag arg
    let before := if beat.getLsbD 24 then (s.port e).cmds.map Cmd.tag else []
    let other := if beat.getLsbD 26 then (s.port ⟨e.p, !e.sep⟩).cmds.map Cmd.tag else []
    let runs := s.fenceRunsOf e { beat := beat }
    (before = [] → other = [] → runs = [] →
      ∃ t, exec (.fence e tag arg) s = .next t ∧ .cpl e (cplWord 0 0 opFENCE .ok tag) ∈ t.outs ∧ (t.port e).find tag = none ∧ CellFrame s t)
    ∧ (before ≠ [] ∨ other ≠ [] ∨ runs ≠ [] → (∀ e' x, x ∈ (s.port e').cmds → x.fenceDone = false) →
      ∃ t c, exec (.fence e tag arg) s = .next t ∧ (t.port e).find tag = some c ∧ c.op = opFENCE ∧ c.started = true
        ∧ c.earlier = before ∧ c.other = other ∧ c.runs = runs ∧ CellFrame s t))
  ∧ (∀ (e : EPort) (s : State) (c : Cmd), (s.port e).find c.tag = some c → c.op = opFENCE → c.started = true →
    (∀ x ∈ (s.port e).cmds, x.tag = c.tag → x = c) →
    let ends (i : Instr) : Prop := ∃ t, exec i s = .next t ∧ .cpl e (cplWord 0 0 opFENCE .ok c.tag) ∈ t.outs ∧ (t.port e).find c.tag = none
    (∀ route q r, s.runOf route = some (q, r) → r.stop = none → s.moved r = true → (movesUnits (dKind r.desc) = true → unitCount r.desc ≤ r.next) →
      c.earlier = [] → c.other = [] → c.runs = [r.seq] → ends (.routeRunEnd route))
    ∧ (∀ b tag (row : RowNo) d p x ps, s.moving ⟨e.p, b⟩ tag d p → p.store = false → p.next = row.toNat → p.n = row.toNat + 1 → p.held = [] →
      p.segs.find? (fun y => y.1 == row.toNat) = some (row.toNat, ps) → ps.any (fun y => s.isDefault y.1) = false → s.piecesReady ps = true →
      (s.cell e.p).tile? d.tileNo = some x → c.runs = [] →
      (b = e.sep ∧ c.earlier = [tag] ∧ c.other = []) ∨ (b ≠ e.sep ∧ c.earlier = [] ∧ c.other = [tag]) →
      ends (.loadRowArrival ⟨e.p, b⟩ tag row .ok)))

/-- The oldest command that waits on a port starts (R54), once no stop is in force, nothing on the port holds it up and its tiles
are free (R93): its own effect follows in the same step. When a waiting command starts is the model's grain, log entry 11. -/
def Obligations.OldestCommandStarts : Prop :=
  ∀ (e : EPort) (ecc : List RowEcc) (s : State) (c : Cmd), (s.port e).cmds.find? (fun x => !x.started) = some c → s.stopped = false →
    s.tmb.hold = false → (s.port e).cmds.any Cmd.holdsUp = false → s.conflict e.p c = false →
    exec (.commandStart e ecc) s = .next (s.startCmd e c ecc).settle
      ∧ (∀ x ∈ (s.port e).cmds.takeWhile (fun x => x.tag ≠ c.tag), x.started = true)

/-- A beat with an opcode that R49 leaves reserved, on a ready port with the tag free and below the fence threshold, is dropped: its
tag completes with PORTPROTO and the violation number in DETAIL (R74 no. 1, R76), the violation is counted, and nothing outside the
cells changes. The order of the checks of a beat is the model's, log entry 10. -/
def Obligations.ReservedOpcodeCompletesWithPortproto : Prop :=
  ∀ (e : EPort) (op tag : Byte) (arg : BitVec 112) (s : State), beatFields op = none → s.cmdReady e = true →
    (s.port e).find tag = none → s.tolerates e →
    ∃ t, exec (.reservedOpcodeBeat e op tag arg) s = .next t ∧ s.completes t e op tag .portproto 1
      ∧ (t.port e).viols = s.recentViols 0 (s.port e).viols ++ [s.clk.gtc] ∧ (t.port e).find tag = none
      ∧ (t.port e).fenced = false ∧ CellFrame s t ∧ ∀ p, (t.cell p).tiles = (s.cell p).tiles

/-- A command beat of the commands of R49 on a fenced port completes with FENCED (R75). Below the fence threshold each violation of R74 is
counted, reported as INFO, and changes no tile: a reserved bit (no. 2) completes with PORTPROTO and the number in DETAIL; a tag that is
outstanding (no. 3) and a beat while EP_CMD_READY is low outside the stops (no. 4) leave the port's commands as they are and bring no completion; a
result write (no. 5) and a read request (no. 6) while their ready is low outside the stops are dropped; EP_CG_AMT changed under a request (no.
7) leaves the grant as it is. That a change of EP_CG_AMT is taken to meet a request that is high and not acknowledged is the model's
choice, log entry 62; the order of the checks of a beat log entry 10, the operand `aclk` log entry 5. -/
def Obligations.FencesAndViolationsAnswer : Prop :=
  (∀ (e : EPort) (tag : Byte) (arg : BitVec 112) (ecc : List RowEcc) (rvEcc : List (BitVec 7 × Ecc)) (s : State) (x : Byte × Instr),
      x ∈ commandBeats e tag arg ecc rvEcc → s.asleep = false →
      ((s.port e).fenced = true →
        ∃ t, exec x.2 s = .next t ∧ s.completes t e x.1 tag .fenced 0 ∧ CellFrame s t ∧ ∀ p, (t.cell p).tiles = (s.cell p).tiles)
      ∧ (s.tolerates e → (∀ e' y, y ∈ (s.port e').cmds → y.fenceDone = false) →
        let counts (t : State) : Prop := (t.port e).viols = s.recentViols 0 (s.port e).viols ++ [s.clk.gtc] ∧ (t.port e).fenced = false
          ∧ t.glob.irqSts.getLsbD 0 = true ∧ CellFrame s t ∧ (t.port e).cmds = (s.port e).cmds ∧ ∀ p, (t.cell p).tiles = (s.cell p).tiles
        let silent (t : State) : Prop := ∀ w, .cpl e w ∈ t.outs → .cpl e w ∈ s.outs
        (s.cmdReady e = true → (s.port e).find tag = none → reservedBitSet x.1 (beatOf x.1 tag arg) = true →
          ∃ t, exec x.2 s = .next t ∧ s.completes t e x.1 tag .portproto 2 ∧ counts t)
        ∧ (s.cmdReady e = true → (s.port e).find tag ≠ none → ∃ t, exec x.2 s = .next t ∧ silent t ∧ counts t)
        ∧ (s.cmdReady e = false → s.cmdStop = false → ∃ t, exec x.2 s = .next t ∧ silent t ∧ counts t)))
  ∧ (∀ (e : EPort) (k : Nat) (s : State), s.asleep = false → s.tolerates e → s.ioReady e = false → s.stopped = false →
      let drops (i : Instr) : Prop := ∃ t, exec i s = .next t ∧ (t.port e).viols = s.recentViols 0 (s.port e).viols ++ [s.clk.gtc]
        ∧ t.glob.irqSts.getLsbD 0 = true ∧ t.outs = s.outs ∧ CellFrame (s.atAclk k) t ∧ ∀ p, (t.cell p).tiles = (s.cell p).tiles
      (∀ n row data rctl ecc rvEcc, drops (.resultWrite e n row data rctl k ecc rvEcc)) ∧ (∀ a b ea eb, drops (.operandReadRequest e a b k ea eb)))
  ∧ (∀ (e : EPort) (amt : BitVec 12) (s : State), s.asleep = false → s.tolerates e →
      ∃ t, exec (.epCgAmtChange e amt) s = .next t ∧ (t.port e).viols = s.recentViols 0 (s.port e).viols ++ [s.clk.gtc]
        ∧ t.glob.irqSts.getLsbD 0 = true ∧ t.outs = s.outs ∧ CellFrame s t)

/-- TLOAD and TSTORE start (R109, R111, R112, R122): on a configured tile whose checks pass the command runs over rows S to N - 1,
where S is the row of a matching resume record or 0, N the tile's ROWS for a load and its VALIDROWS for a store; the resume record
goes and no row has moved. An address or a stride that is no multiple of 32, or rows beyond 2^48, complete a TLOAD with ALIGN and
VA[31:0] in DETAIL (R112); the tile is unchanged. -/
def Obligations.LoadAndStoreStart : Prop :=
  (∀ (e : EPort) (tag : Byte) (arg : BitVec 112) (s : State) (store : Bool),
      let op := if store then opTSTORE else opTLOAD
      let i : Instr := if store then .tstore e tag arg else .tload e tag arg
      s.startsNow e op tag arg →
      let b := beatOf op tag arg
      let n : TileNo := b.extractLsb' 24 5
      let va := (b.extractLsb' 32 48).toNat
      let stride := (b.extractLsb' 80 32).toNat
      ∀ x k, ownFile e.sep n = true → (s.cell e.p).tile? n = some x → x.cfg = some k →
        let rows := if store then x.valid else k.rm1.toNat + 1
        let start := match x.resume with | some r => if r.store = store ∧ r.va = va ∧ r.stride = stride then r.row else 0 | none => 0
        (store = true → x.inUse = true ∧ (1 < rows → k.bytes ≤ stride)) → va % 32 = 0 → stride % 32 = 0 →
        va + (rows - 1) * stride + k.bytes ≤ 2 ^ 48 → start < rows →
      ∃ t c, exec i s = .next t ∧ (t.port e).find tag = some c ∧ c.started = true
        ∧ c.ls = some ⟨store, va, stride, start, start, rows, [], [], none, []⟩
        ∧ (t.cell e.p).tile? n = some { x with resume := none } ∧ CellFrame s t)
  ∧ (∀ (e : EPort) (tag : Byte) (arg : BitVec 112) (s : State), s.startsNow e opTLOAD tag arg →
      let b := beatOf opTLOAD tag arg
      let n : TileNo := b.extractLsb' 24 5
      let va := (b.extractLsb' 32 48).toNat
      let stride := (b.extractLsb' 80 32).toNat
      ∀ x k, ownFile e.sep n = true → (s.cell e.p).tile? n = some x → x.cfg = some k →
        (va % 32 ≠ 0 ∨ stride % 32 ≠ 0 ∨ 2 ^ 48 < va + k.rm1.toNat * stride + k.bytes) →
      ∃ t, exec (.tload e tag arg) s = .next t ∧ s.completes t e opTLOAD tag .align (b.extractLsb' 32 32) ∧ FailFrame s t e.p)

/-- The ATU translates the next row of a running TLOAD or TSTORE, with fewer than 64 rows in flight (R113-R117): once the lines of
the page-table entries it reads are there and every page it touches is mapped with the permission asked for, the row's pieces are recorded
with the command, whatever corrected errors the entries had, and memory is as it was; while an entry's line is missing nothing is recorded.
A PAGEFAULT or PERMFAULT (R115) of the lowest row that has not moved completes the command with that code, ROW and VA[47:16] of the failing
page's first byte in DETAIL, and leaves a resume record at that row, which TF_ROWSTART shows (R119-R121, R124); one of a later row is kept for its
turn, and rows at or above it that have come are discarded (R119, R125). -/
def Obligations.WalkTranslatesRow : Prop :=
  ∀ (e : EPort) (tag : Byte) (row : RowNo) (s : State) (c : Cmd) (p : LsProg) (k : TileCfg) (ps : List (Nat × Nat)),
    s.moving e tag c p → p.store = (c.op == opTSTORE) → p.next ≤ row.toNat → row.toNat < p.n → row.toNat = p.start + p.segs.length →
    s.rowsInFlight e.p < 64 → s.cfgOf e.p c.tileNo = some k → s.mspsOpen →
    let pages := pagePieces (p.va + row.toNat * p.stride) k.bytes
    (s.walkMiss (quadOf e.p) pages = none → (s.cacheLeaves (quadOf e.p) pages).xlateAll (quadOf e.p) p.store pages = (ps, none) → ∀ ecc, ecc ≠ .uncorr →
      ∃ t c' p', exec (.atuWalkComplete (.row e tag row) ecc) s = .next t ∧ (t.port e).find tag = some c' ∧ c'.ls = some p'
        ∧ p' = { p with segs := p.segs ++ [(row.toNat, linePieces ps)] } ∧ t.mem = s.mem ∧ ∀ q, (t.cell q).tiles = (s.cell q).tiles)
    ∧ ((s.walkMiss (quadOf e.p) pages).isSome = true → ∀ ecc,
      ∃ t c', exec (.atuWalkComplete (.row e tag row) ecc) s = .next t ∧ (t.port e).find tag = some c' ∧ c'.ls = some p ∧ t.mem = s.mem
        ∧ ∀ q, (t.cell q).tiles = (s.cell q).tiles)
    ∧ (∀ code bad qs x, s.walkMiss (quadOf e.p) pages = none →
      (s.cacheLeaves (quadOf e.p) pages).xlateAll (quadOf e.p) p.store pages = (qs, some (bad, .fault code)) →
      (s.cell e.p).tile? c.tileNo = some x → ∀ ecc, ecc ≠ .uncorr →
      ∃ t, exec (.atuWalkComplete (.row e tag row) ecc) s = .next t ∧ t.mem = s.mem
        ∧ (row.toNat = p.next → .cpl e (cplWord (vaDetail bad) row.toNat c.op code tag) ∈ t.outs ∧ (t.port e).find tag = none
            ∧ (t.cell e.p).tile? c.tileNo = some { x with resume := some ⟨p.store, p.va, p.stride, row.toNat⟩ }
            ∧ (t.cell e.p).rowStart = rowStartWord e.sep p.store c.tileNo code row.toNat)
        ∧ (p.next < row.toNat → (t.cell e.p).tile? c.tileNo = some x ∧ ∃ c', (t.port e).find tag = some c'
            ∧ c'.ls = some { p with fault := some (row.toNat, code, vaDetail bad), held := p.held.filter fun h => decide (h.1 < row.toNat) }))

/-- The next row of a TLOAD reaches its cell (R109, R110): its bytes are those of memory at its translation, the tile's row is
written (R86), and the command goes on to the next row or, after the last, completes with OK, also when a line of it was corrected; a row
that comes before its turn is held, and the tile is as it was (R117); a line that cannot be corrected voids the step (R97, R115). -/
def Obligations.LoadRowLands : Prop :=
  ∀ (e : EPort) (tag : Byte) (row : RowNo) (s : State) (c : Cmd) (p : LsProg) (x : Tile) (ps : List (Nat × Nat)),
    s.moving e tag c p → p.store = false → p.next ≤ row.toNat → row.toNat < p.n → p.held = [] →
    p.segs.find? (fun y => y.1 == row.toNat) = some (row.toNat, ps) → ps.any (fun y => s.isDefault y.1) = false → s.piecesReady ps = true →
    (s.cell e.p).tile? c.tileNo = some x →
    let data := rowOf (ps.flatMap fun y => s.mem.readBytes y.1 y.2)
    (∀ ecc, ecc ≠ .uncorr → ∃ t, exec (.loadRowArrival e tag row ecc) s = .next t ∧ t.mem = s.mem
      ∧ (p.next = row.toNat →
          (t.cell e.p).tile? c.tileNo = some (x.writeRow row.toNat data)
          ∧ (row.toNat + 1 < p.n → ∃ c', (t.port e).find tag = some c' ∧ c'.ls = some { p with next := row.toNat + 1 })
          ∧ (p.n = row.toNat + 1 → s.completes t e c.op tag .ok 0))
      ∧ (p.next < row.toNat → (t.cell e.p).tile? c.tileNo = some x
          ∧ ∃ c', (t.port e).find tag = some c' ∧ c'.ls = some { p with held := [(row.toNat, data)] }))
    ∧ (ps ≠ [] → s.voidable → ∃ t, exec (.loadRowArrival e tag row .uncorr) s = .next t ∧ t.voidedBy 0x01 ∧ t.mem = s.mem)

/-- A part of the lowest row of a TSTORE reaches memory (R111, R117, R120): the row is cut where it crosses a line or a page, the part named
holds its bytes of the row's ROWBYTES, every other byte of memory is unchanged, no tile changes; with the last part the command
goes on to the next row or completes. A row that cannot be corrected as it is read, for its first part, voids the step (R97); a row that
is not written holds no data to be read, and its bytes are zeros (R87). -/
def Obligations.StoreRowReachesMemory : Prop :=
  ∀ (e : EPort) (tag : Byte) (row : RowNo) (k : Nat) (ecc : Ecc) (s : State) (c : Cmd) (p : LsProg) (x : Tile) (ps : List (Nat × Nat)) (y : Nat × Nat),
    s.Inv → s.mspsOpen → s.moving e tag c p → p.store = true → p.next = row.toNat → row.toNat < p.n →
    p.segs.find? (fun y => y.1 == row.toNat) = some (row.toNat, ps) → ps.any (fun y => s.isDefault y.1) = false →
    ps[k]? = some y → k ∉ p.parts → (s.cell e.p).tile? c.tileNo = some x →
    let rest := (List.range ps.length).filter fun j => !(p.parts ++ [k]).contains j
    ((ecc = .uncorr → s.storeReads e c.tileNo row = true → p.parts ≠ []) →
      ∃ t, exec (.storeRowWritten e tag row k ecc) s = .next t
        ∧ (∀ i, i < y.2 → t.mem.read (y.1 + i) = rowByte (x.rowAt row.toNat) (((ps.take k).map (·.2)).sum + i))
        ∧ (∀ a, (a < y.1 ∨ y.1 + y.2 ≤ a) → t.mem.read a = s.mem.read a)
        ∧ (∀ q, (t.cell q).tiles = (s.cell q).tiles)
        ∧ (rest ≠ [] → ∃ c', (t.port e).find tag = some c' ∧ c'.ls = some { p with parts := p.parts ++ [k] })
        ∧ (rest = [] → row.toNat + 1 < p.n → ∃ c', (t.port e).find tag = some c' ∧ c'.ls = some { p with next := row.toNat + 1, parts := [] })
        ∧ (rest = [] → p.n = row.toNat + 1 → .cpl e (cplWord 0 0 c.op .ok tag) ∈ t.outs))
    ∧ (ecc = .uncorr → s.storeReads e c.tileNo row = true → p.parts = [] → s.voidable →
      ∃ t, exec (.storeRowWritten e tag row k ecc) s = .next t ∧ t.voidedBy 0x01 ∧ t.mem = s.mem)

/-- An operand read (R45, R47, R87): three ACLK after the request the rows are presented with status OK, a DEP's two operands or a
SEP's one, and nothing but the clock's ACLK count and the outputs changes. An operand whose tile is not the port's, not configured or busy for
write, or whose row is not valid, is presented as zero with TNOTVALID beside the other operand, no tile changes, and an INFO Pennant is made (R47,
R94); on a fenced port every operand has status FENCED (R75). An operand A that cannot be corrected voids the step and is presented with status
VOID (R47). The operand `aclk` is read as log entry 5 says, the word's state as log entry 9; that a row within the present VALIDROWS counts
as valid also while a write of another row is in its window is the model's choice, log entry 75. -/
def Obligations.OperandReadPresentsRows : Prop :=
  (∀ (e : EPort) (a b : BitVec 12) (k : Nat) (s : State) (ra rb : Row), s.asleep = false → s.ioReady e = true → s.readsAs e a k ra →
      (e.sep = false → s.readsAs e b k rb) → (e.sep = true → rb = 0) →
      exec (.operandReadRequest e a b k .ok .ok) s = .next ((s.atAclk k).out (.rd e (max s.clk.aclk k + 3) a b 0 ra 0 rb)))
  ∧ (∀ (e : EPort) (a b : BitVec 12) (k : Nat) (s : State) (sa sb : BitVec 2) (ra rb : Row), s.asleep = false → s.ioReady e = true →
      s.presents e a k sa ra → (e.sep = false → s.presents e b k sb rb) → (e.sep = true → sb = 0 ∧ rb = 0) →
      ∃ t, exec (.operandReadRequest e a b k .ok .ok) s = .next t ∧ t.outs = s.outs ++ [.rd e (max s.clk.aclk k + 3) a b sa ra sb rb]
        ∧ (∀ q, (t.cell q).tiles = (s.cell q).tiles) ∧ t.mem = s.mem ∧ (sa = 1 ∨ sb = 1 → t.glob.irqSts.getLsbD 0 = true))
  ∧ (∀ (e : EPort) (a b : BitVec 12) (k : Nat) (ea eb : Ecc) (s : State), s.asleep = false → (s.port e).fenced = true →
      exec (.operandReadRequest e a b k ea eb) s
        = .next ((s.atAclk k).out (.rd e (max s.clk.aclk k + 3) a b 2 0 (if e.sep then 0 else 2) 0)))
  ∧ (∀ (e : EPort) (a b : BitVec 12) (k : Nat) (ecc : Ecc) (s : State) (d : Row), s.asleep = false → s.ioReady e = true → s.step.running = true →
      (s.atAclk k).rdCase e a = .stored d →
      ∃ t, exec (.operandReadRequest e a b k .uncorr ecc) s = .next t ∧ t.voidedBy 0x01 ∧ t.mem = s.mem
        ∧ t.outs.getLast? = some (.rd e (max s.clk.aclk k + 3) a b 3 0 (if e.sep then 0 else 3) 0))

/-- A result write without reduction (R46, R86): the row holds the data up to ROWBYTES, its row-written bit and TF_INUSE are set,
VALIDROWS is the larger of itself and the row number plus one; RV0-RV3, every other tile, every other cell, memory and the outputs are
unchanged. A write of a tile that is not the port's, not configured or too short, or that is busy, is dropped and recorded in TF_FAULT and
as INFO, and no tile changes (R90, R94). The operand `aclk` is read as log entry 5 says. -/
def Obligations.ResultWriteWritesRow : Prop :=
  ∀ (e : EPort) (n : TileNo) (row : RowNo) (data : Row) (rctl : Byte) (a : Nat) (ecc : List RowEcc) (rvEcc : Ecc) (s : State),
    s.asleep = false → s.ioReady e = true →
    (∀ x k, ownFile e.sep n = true → (s.cell e.p).tile? n = some x → x.cfg = some k → row.toNat ≤ k.rm1.toNat →
      s.busyW e.p n = false → s.busyR e.p n = false → rctl.getLsbD 7 = false →
      ∃ t y, exec (.resultWrite e n row data rctl a ecc rvEcc) s = .next t ∧ (t.cell e.p).tile? n = some y
        ∧ y.rowAt row.toNat = rowCut data k.bytes ∧ y.written.getLsbD row.toNat = true ∧ y.valid = max x.valid (row.toNat + 1) ∧ y.inUse = true
        ∧ y.cfg = some k ∧ (∀ r, r ≠ row.toNat → y.rowAt r = x.rowAt r)
        ∧ (∀ m, m ≠ n → (t.cell e.p).tile? m = (s.cell e.p).tile? m) ∧ (t.cell e.p).rv = (s.cell e.p).rv
        ∧ (∀ q, q ≠ e.p → t.cell q = s.cell q) ∧ t.mem = s.mem ∧ t.outs = s.outs)
    ∧ ((ownFile e.sep n = false ∨ (∀ x k, (s.cell e.p).tile? n = some x → x.cfg = some k → k.rm1.toNat < row.toNat)
          ∨ s.busyW e.p n = true ∨ s.busyR e.p n = true) →
      ∃ t, exec (.resultWrite e n row data rctl a ecc rvEcc) s = .next t ∧ (∀ q, (t.cell q).tiles = (s.cell q).tiles)
        ∧ (t.cell e.p).rv = (s.cell e.p).rv ∧ t.glob.irqSts.getLsbD 0 = true ∧ t.mem = s.mem ∧ t.outs = s.outs
        ∧ ((s.cell e.p).tfFault.msb = false → (t.cell e.p).tfFault = tfWord e.sep n.toNat .tnotvalid 0 row.toNat))

/-- The row reducer (R99-R102): a reduction that passes the checks of R102 makes the entry of the written row the row's value with INIT
set, and the operation of the entry with it otherwise; of two updates of one entry in one ACLK the DEP's comes first; one that fails a
check leaves RV0-RV3 as they are. Every other entry is unchanged. On a layout-0 FP32 tile a row passes without a companion, and its value
is the fixed tree over its lanes. -/
def Obligations.ReducerUpdatesOneEntry : Prop :=
  (∀ (e : EPort) (n : TileNo) (row : RowNo) (data : Row) (rctl : Byte) (a : Nat) (s : State) (x : Tile) (k : TileCfg),
    s.asleep = false → s.ioReady e = true → ownFile e.sep n = true → (s.cell e.p).tile? n = some x → x.cfg = some k → row.toNat ≤ k.rm1.toNat →
    s.busyW e.p n = false → s.busyR e.p n = false → rctl.getLsbD 7 = true →
    let i := rctlRv rctl * 128 + row.toNat
    let v := redValue (s.cell e.p) e k n row (rowCut data k.bytes) rctl
    let with' (r : Byte) (old new : Word) : Word := if r.getLsbD 2 then new else reduceOp (rctlOp r) old new
    ∃ t, exec (.resultWrite e n row data rctl a [] .ok) s = .next t ∧ (∀ j, j ≠ i → (t.cell e.p).rv[j]? = (s.cell e.p).rv[j]?)
      ∧ (s.redCheck e k n row rctl ≠ .none → (t.cell e.p).rv = (s.cell e.p).rv)
      ∧ (s.redCheck e k n row rctl = .none →
        ((e.sep = true ∨ ∀ u ∈ (s.cell e.p).sepRv, ¬ (u.aclk = max s.clk.aclk a ∧ u.entry = i)) →
          (t.cell e.p).rv[i]? = some (with' rctl (((s.cell e.p).rv[i]?).getD 0) v))
        ∧ (∀ u, e.sep = false → (s.cell e.p).sepRv.filter (fun u => u.aclk == max s.clk.aclk a && u.entry == i) = [u] →
          (t.cell e.p).rv[i]? = some (with' u.rctl (with' rctl u.old v) u.val))))
  ∧ (∀ (e : EPort) (n : TileNo) (row : RowNo) (data : Row) (rctl : Byte) (s : State) (k : TileCfg), k.fmt = 0 → k.layout = false → rctlOp rctl ≠ 3 →
      s.redCheck e k n row rctl = .none
      ∧ redValue (s.cell e.p) e k n row data rctl = reduceRow (rctlOp rctl) 32 (rowElems k row.toNat data 0) [])

/-- The queued write-back of a corrected row takes its slot (R96, R97): it leaves the queue and nothing else changes. -/
def Obligations.WritebackLeavesQueue : Prop :=
  ∀ (p : PCell) (n : TileNo) (row : RowNo) (s : State),
    ∃ t, exec (.correctedRowWriteback p n row) s = .next t ∧ t = { s with cells := t.cells } ∧ (∀ q, q ≠ p → t.cell q = s.cell q)
      ∧ t.cell p = { s.cell p with wbq := (s.cell p).wbq.erase (n, row) }

/-- A grant request for no more than the present level is granted at once (R55): the level is the amount asked for and EP_CG_ACK
carries it. A raise, with every other pending raise met, is granted up to its amount, the client's cap, the ramp allowance and what the budget
leaves, and EP_CG_ACK carries that part; what it lacks stays wanted, and the raise keeps its place in the order of ACLKs (R391-R393). A raise of
a lower client of the same ACLK that still waits in the queue comes first (R393, log entry 85): what it will be given is kept for it. A
fenced port is answered with level 0 (R56, R394). A refill mark sets the ramp allowance, and what levels rise by is taken from it
(R392, R395): level and allowance together are the level before plus the step of CBA_RAMP. The ACLK of a request is the operand of log entry 5. -/
def Obligations.LevelsFollowGrantsAndRefills : Prop :=
  (∀ (e : EPort) (amt : BitVec 12) (a : Nat) (s : State), s.asleep = false →
    let n := portClient e
    let cur := s.cba.lvl n
    let k := max s.clk.aclk a
    let pool := s.cba.budget.toNat - floorF s.pins.gradeS - s.cba.engineSum
    let met (p : Nat → Nat → Prop) : Prop := ∃ t, exec (.currentGrantRequest e amt a) s = .next t ∧ p (t.cba.lvl n) t.cba.left
      ∧ t.outs.getLast? = some (.cgAck e (BitVec.ofNat 12 (t.cba.lvl n))) ∧ t.cba.wants n = amt.toNat
      ∧ (cur < amt.toNat → (k, n) ∈ t.cba.order) ∧ (∀ m, m < 209 → m ≠ n → t.cba.lvl m = s.cba.lvl m ∧ t.cba.wants m = s.cba.wants m)
      ∧ t = { s with cba := t.cba, outs := t.outs, clk := { s.clk with aclk := k } }
    ((s.port e).fenced = true → exec (.currentGrantRequest e amt a) s = .next (s.out (.cgAck e 0)))
    ∧ ((s.port e).fenced = false → (∀ x ∈ s.cba.order, s.cba.wants x.2 ≤ s.cba.lvl x.2) → (∀ m, 136 ≤ m → m < 209 → s.cba.wants m ≤ s.cba.lvl m) →
        (amt.toNat ≤ cur → s.rivals n a = [] → met fun lvl left => lvl = amt.toNat ∧ left = s.cba.left)
        ∧ (cur < amt.toNat → s.rivals n a = [] → met fun lvl left =>
            lvl = max cur (min (min amt.toNat (s.cba.capOf n)) (cur + min s.cba.left pool)) ∧ left + lvl = s.cba.left + cur)
        ∧ (∀ m b, cur < amt.toNat → s.rivals n a = [(m, b)] →
            let kept := min (min b (s.cba.capOf m)) (s.cba.lvl m + min s.cba.left pool) - s.cba.lvl m
            met fun lvl left => lvl = max cur (min (min amt.toNat (s.cba.capOf n)) (cur + min (s.cba.left - kept) (pool - kept)))
              ∧ left + lvl = s.cba.left + cur)))
  ∧ (∀ (now : Tick) (s : State), s.pins.rstN = true →
    ∃ t, exec (.rampRefill now) s = .next t ∧ t.cba.total + t.cba.left = s.cba.total + s.cba.rampStep
      ∧ t.cba.budget = s.cba.budget ∧ t.cba.cap = s.cba.cap ∧ t.mem = s.mem ∧ t.cells = s.cells)

/-- The sum of the levels granted to engines never exceeds the budget less Orlith's floor (R391): every command that serves raises or drops a
grant keeps that bound, the grant request, the refill mark, the stages of a cell's power, CELL_POWER, the failure of an engine with its fences
and the retirement of its cell (R59, R394, R397), and a POWER_CONFIGURE that does not lower the budget; one that lowers it takes back no
grant (R394). -/
def Obligations.GrantsStayWithinBudget : Prop :=
  ∀ (s : State), s.inPool →
    (∀ e amt a, ∃ t, exec (.currentGrantRequest e amt a) s = .next t ∧ t.inPool)
    ∧ (∀ now, ∃ t, exec (.rampRefill now) s = .next t ∧ t.inPool)
    ∧ (∀ p pass ids rows, ∃ t, exec (.cellPowerStageDone p pass ids rows) s = .next t ∧ t.inPool)
    ∧ (∀ n, ∃ t, exec (.cellPower n) s = .next t ∧ t.inPool)
    ∧ (∀ e v, ∃ t, exec (.epErrReport e v) s = .next t ∧ t.inPool)
    ∧ (∀ n req, s.begins n 0x0304 req →
        (s.cba.budget.toNat ≤ pf req 0 4 → ∃ t, exec (.powerConfigure n) s = .next t ∧ t.inPool)
        ∧ (pf req 0 4 < s.cba.budget.toNat → s.cba.engineSum ≥ pf req 0 4 - floorF s.pins.gradeS →
            ∃ t, exec (.powerConfigure n) s = .next t ∧ t.cba.engineSum = s.cba.engineSum))

/-- EP_ERR (R59): 0b01 is reported as CORRECTED and 0b10 voids the step in progress with cause ENGERR; 0b11 fences both ports of the
cell and retires it, and voids the step in progress where the cell serves a logical cell (R301). That this void has cause ENGERR is the
model's reading, log entry 52. -/
def Obligations.EngineErrorActs : Prop :=
  ∀ (e : EPort) (s : State), s.asleep = false →
    (∃ t, exec (.epErrReport e 1) s = .next t ∧ t.glob.irqSts.getLsbD 1 = true ∧ CellFrame s t)
    ∧ (s.step.running = true → s.tmb.stop = false → ∃ t, exec (.epErrReport e 2) s = .next t ∧ t.tmb.stop = true ∧ t.tmb.cause = 0x06
        ∧ t.glob.irqSts.getLsbD 2 = true ∧ t.mem = s.mem)
    ∧ (∃ t, exec (.epErrReport e 3) s = .next t ∧ (t.port ⟨e.p, false⟩).fenced = true ∧ (t.port ⟨e.p, true⟩).fenced = true ∧ t.mem = s.mem
        ∧ (t.cell e.p).retired = true ∧ ((s.cell e.p).logical.isSome = true → (s.cell e.p).retired = false → s.voidable → t.voidedBy 0x06))

/-! ### Routes -/

/-- A kick whose descriptor passes the checks of R189 is taken (R187, R188): the descriptor is copied, the kick stands last among those
that wait, for the engine of the port's quadrant or of the route id, and its RKICK waits for it; with a bad descriptor the RKICK
completes with ROUTEBAD and the route in DETAIL. An armed tick that has come is spent and kicks its route likewise (R187, R207).
The operand `now` is read as log entry 5 says. -/
def Obligations.KicksAreTaken : Prop :=
  (∀ (e : EPort) (tag : Byte) (arg : BitVec 112) (s : State), s.startsNow e opRKICK tag arg →
    let route := Cmd.route { beat := beatOf opRKICK tag arg }
    (s.kickBad (s.desc route) = false → ∃ t c k, exec (.rkick e tag arg) s = .next t ∧ (t.port e).find tag = some c ∧ c.kick = some (s.rt.seq + 1)
      ∧ t.rt.kicks = s.rt.kicks ++ [k] ∧ k.seq = s.rt.seq + 1 ∧ k.route = route ∧ k.desc = s.desc route ∧ k.src = .port e tag
      ∧ k.eng = quadOf e.p ∧ t.mem = s.mem)
    ∧ (s.kickBad (s.desc route) = true → ∃ t, exec (.rkick e tag arg) s = .next t
      ∧ s.completes t e opRKICK tag .routebad (route.setWidth 32) ∧ FailFrame s t e.p))
  ∧ (∀ (now : Tick) (route : RouteId) (s : State) (a : RouteId × Tick), s.clk.gtc.toNat ≤ now.toNat →
      s.rt.arms.find? (fun x => x.1 == route && decide (x.2.toNat ≤ now.toNat)) = some a → s.glob.halt = false → s.step.stop = false →
      s.tmb.stop = false → s.tmb.hold = false → s.kickBad (s.desc route) = false →
      ∃ t k, exec (.armedTickKick now route) s = .next t ∧ t.rt.arms = s.rt.arms.erase a ∧ t.rt.kicks = s.rt.kicks ++ [k] ∧ k.route = route
        ∧ k.desc = s.desc route ∧ k.src = .tick ∧ k.eng.val = route.toNat % 4 ∧ t.cells = s.cells ∧ t.mem = s.mem)

/-- RWAIT (R50, R191): OK at once for a route that is not active; a held run gives its code and DETAIL and leaves its engine; a
running run is waited for. -/
def Obligations.RwaitAnswersRun : Prop :=
  ∀ (e : EPort) (tag : Byte) (arg : BitVec 112) (s : State), s.startsNow e opRWAIT tag arg →
    let run := s.runs.find? fun r => r.route == Cmd.route { beat := beatOf opRWAIT tag arg }
    ∃ t, exec (.rwait e tag arg) s = .next t ∧ t.mem = s.mem ∧ (∀ p, (t.cell p).tiles = (s.cell p).tiles)
      ∧ (run = none → s.completes t e opRWAIT tag .ok 0 ∧ CellFrame s t)
      ∧ (∀ r code, run = some r → r.code = some code → s.completes t e opRWAIT tag code r.detail
          ∧ ∀ q, ∀ x ∈ (t.quad q).runs, x.seq ≠ r.seq)
      ∧ (∀ r, run = some r → r.code = none → ∃ c, (t.port e).find tag = some c ∧ c.kick = some r.seq ∧ CellFrame s t)

/-- The earliest kick of an engine that may start does so (R188, R190): it leaves the kicks and its RKICK completes with OK. The run begins
with no unit moved; of a PUT or GET, StashRowsMove and PutsTakeTheirPlace say the rest. At its first failing check it changes nothing and is
held with that check's code and DETAIL when no RWAIT waits for it (R191). -/
def Obligations.KickStartsRun : Prop :=
  ∀ (q : QuadNo) (s : State) (k : Kick), (∀ x ∈ s.rt.kicks, x.eng = q → x.granted = true ∨ x.genwait.isSome = true) →
    s.rt.kicks.find? (fun x => x.eng == q && s.canStart x) = some k →
    let fail := s.startFail k.desc ((s.srcView k.desc).getD {}) ((s.dstView k.desc).getD {}) (s.tView k.desc)
    ∃ t, exec (.routeRunStart q) s = .next t ∧ (∀ x ∈ t.rt.kicks, x.seq ≠ k.seq)
      ∧ (∀ e c, s.kickCmd k = some (e, c) → s.completes t e c.op c.tag .ok 0)
      ∧ (dKind k.desc ≠ kPUT → t.mem = s.mem)
      ∧ (fail = none → dKind k.desc ≠ kPUT → dKind k.desc ≠ kGET → (s.glob.detmode = false ∨ (s.rt.overlap = [] ∧ s.rt.accum = [])) →
        ∃ r ∈ (t.quad q).runs, r.seq = k.seq ∧ r.route = k.route ∧ r.desc = k.desc ∧ r.code = none ∧ r.next = 0)
      ∧ (∀ f, fail = some f → t.mem = s.mem ∧ (∀ x ∈ (t.quad q).runs, x.seq = k.seq → x.code = some f.1 ∧ x.detail = f.2)
        ∧ (s.waiters k.seq = [] → ∃ x ∈ (t.quad q).runs, x.seq = k.seq ∧ x.route = k.route ∧ x.code = some f.1 ∧ x.detail = f.2))

/-- The end of a run that has moved everything (R191, R192): every RWAIT on it completes with OK, or with DECERR when a line of it met the
default target; it leaves its engine, but for a failed run that nobody waits for, which is held with its code; its accumulate entry
goes (R226). An indexed run that was stopped ends with the code of its stop once the windows before it are done (R228), and is held
with it when nobody waits. -/
def Obligations.RunEndAnswersWaiters : Prop :=
  ∀ (route : RouteId) (s : State) (q : QuadNo) (r : Run), s.runOf route = some (q, r) →
    (∀ code detail ix, r.stop = some (code, detail, ix) → code ≠ .ok → r.indexedDone = true →
      ∃ t, exec (.routeRunEnd route) s = .next t ∧ t.mem = s.mem ∧ (∀ p, (t.cell p).tiles = (s.cell p).tiles)
        ∧ (∀ x ∈ s.waiters r.seq, .cpl x.1 (cplWord detail 0 opRWAIT code x.2.tag) ∈ t.outs)
        ∧ (∀ x ∈ (t.quad q).runs, x.seq = r.seq → s.waiters r.seq = [] ∧ x.code = some code ∧ x.detail = detail)
        ∧ (s.waiters r.seq = [] → ∃ x ∈ (t.quad q).runs, x.seq = r.seq ∧ x.route = route ∧ x.code = some code ∧ x.detail = detail))
    ∧ (r.stop = none → s.moved r = true → (movesUnits (dKind r.desc) = true → unitCount r.desc ≤ r.next) ∧
    let code : Code := if r.decerr.isSome then .decerr else .ok
    ∃ t, exec (.routeRunEnd route) s = .next t ∧ t.mem = s.mem ∧ (∀ p, (t.cell p).tiles = (s.cell p).tiles)
      ∧ (∀ x ∈ s.waiters r.seq, .cpl x.1 (cplWord (r.decerr.getD 0) 0 opRWAIT code x.2.tag) ∈ t.outs)
      ∧ (∀ x ∈ (t.quad q).runs, x.seq = r.seq → s.waiters r.seq = [] ∧ x.code = some .decerr ∧ r.decerr = some x.detail)
      ∧ (∀ d, r.decerr = some d → s.waiters r.seq = [] →
        ∃ x ∈ (t.quad q).runs, x.seq = r.seq ∧ x.route = route ∧ x.code = some .decerr ∧ x.detail = d)
      ∧ (∀ x ∈ t.rt.accum, x.seq ≠ r.seq))

/-- Lines of a run (R192, R194), once the table entries of its walks are there (R116): a unit that comes while an earlier one is missing is
kept for its turn, and no byte of memory and no tile changes; the next unit in destination order is worked at once. A run into tiles leaves
memory as it was, and every destination tile takes each assembled row that no later unit touches, the encoded elements of this unit among
its data, with its row-written bit and VALIDROWS (R86, R195), and no other row. A run into memory writes the encoded bytes of the unit,
those of padding that R206 drops left out, and no other, through the translation of the destination view. A read of it that cannot be corrected voids the step (R97). A line of the next unit that faults in
translation ends the run, held with the fault's code and VA[47:16]. An indexed run's translations are those kept with its window (R217). The
unit is the model's grain, log entry 12. -/
def Obligations.LinesMoveUnits : Prop :=
  ∀ (route : RouteId) (s : State) (q : QuadNo) (r : Run) (u : Nat), s.mspsOpen → s.runOf route = some (q, r) → r.awaits u = true → r.done = [] →
    let w := (s.kept q (r.leavesOf u)).walked q ((r.unitNeeds u).map (·.1)) (r.ini q)
    w.2 = true →
    (w.1.unitFault q r u = none → w.1.unitDefault q r u = false → w.1.piecesReady (w.1.unitPieces q r u) = true →
      (∀ rows ecc, (∀ n ∈ w.1.unitRows r u, eccAt rows r.sv.tile n ≠ .uncorr) → ecc ≠ .uncorr →
        ∃ t r', exec (.routeLineArrival route u ⟨rows, ecc⟩) s = .next t ∧ r' ∈ (t.quad q).runs ∧ r'.seq = r.seq ∧ r'.desc = r.desc ∧ r'.code = none
          ∧ (r.next < u → r'.next = r.next ∧ r'.done = [u] ∧ t.mem = s.mem ∧ ∀ p, (t.cell p).tiles = (s.cell p).tiles)
          ∧ (u = r.next → r'.next = u + 1 ∧ r'.done = [] ∧ (r.dv.rb ≠ 0 → t.mem = s.mem)))
      ∧ (u = r.next → r.dv.rb = 0 → dKind r.desc ≠ kGATHER → dKind r.desc ≠ kDUAL →
        let o := r.keepOut true u (encodeRun r.mode r.dv.fmt s.glob.fmtPolicy (dstOff r.desc (unitIdx r.desc u)) 0 (w.1.unitEls q r r.mode u))
        ∃ t, exec (.routeLineArrival route u ⟨[], .ok⟩) s = .next t ∧ t.mem = (w.1.putMem q r.dv o (r.ini q)).mem)
      ∧ (u = r.next → r.dv.rb ≠ 0 →
        let r1 := w.1.snapRow q r u
        let k := w.1.kept q (r1.leavesOf u)
        k.unitFault q r1 u = none → k.unitDefault q r1 u = false →
        let o := r1.keepOut false u (encodeRun r1.mode r1.dv.fmt s.glob.fmtPolicy (dstOff r.desc (unitIdx r.desc u)) 0 (k.unitEls q r1 r1.mode u))
        let ready (b : Nat) := (k.putRows r1 o).filter fun n =>
          n.1 / 256 == b && !((List.range' (u + 1) (unitCount r.desc - (u + 1))).any fun v => (Sys2Proof.Machine.unitRows r.desc b v).contains (n.1 % 256))
        ∃ t, exec (.routeLineArrival route u ⟨[], .ok⟩) s = .next t
          ∧ ∀ y ∈ r.targets, ∀ p x c, s.physOf y.1 = some p → (s.cell p).tile? y.2 = some x → x.cfg = some c →
            ∃ z, (t.cell p).tile? y.2 = some z
              ∧ { z with resume := none } = { (ready c.bytes).foldl (fun z n => z.writeRow (n.1 % 256) n.2) x with resume := none }
              ∧ ∀ n, (ready c.bytes).getLast? = some n → n.1 % 256 < 128 →
                z.rowAt (n.1 % 256) = n.2 ∧ z.written.getLsbD (n.1 % 256) = true ∧ n.1 % 256 < z.valid)
      ∧ (w.1.unitPieces q r u ≠ [] → w.1.unitRows r u = [] → s.voidable →
        ∃ t, exec (.routeLineArrival route u ⟨[], .uncorr⟩) s = .next t ∧ t.voidedBy 0x01 ∧ t.mem = s.mem)
      ∧ (∀ p rows n, s.physOf (epLocal (srcWord r.desc)) = some p → n ∈ w.1.unitRows r u → eccAt rows r.sv.tile n = .uncorr → s.voidable →
        ∃ t, exec (.routeLineArrival route u ⟨rows, .ok⟩) s = .next t ∧ t.voidedBy 0x01 ∧ t.mem = s.mem))
    ∧ (u = r.next → ∀ i0 code va, w.1.unitFault q r u = some (i0, code, va) → w.1.piecesReady (w.1.unitPieces q r u) = true →
      s.waiters r.seq = [] →
      ∃ t x, exec (.routeLineFault route ⟨u, ⟨[], .ok⟩⟩) s = .next t ∧ x ∈ (t.quad q).runs ∧ x.seq = r.seq ∧ x.code = some code ∧ x.detail = vaDetail va)

/-- The prefetcher takes its next elements while it stays within PFDEPTH (R198, R199). An indexed run takes its windows in order (R217), once
the index lines and the table entries of its walks are there: one is recorded with its resolved rows and its skips are counted in
QD_IDXSKIP (R214, R215), or brings a stop (R228); a fold sends the partial of each row (R221); a partial of one word, once every earlier
window has been read and has no partial of the row left, is added to, or combined with, the destination word at its address, and no other
byte changes (R222, R225). The window is the model's grain, log entry 12. -/
def Obligations.PrefetchAndWindowsAdvance : Prop :=
  ∀ (route : RouteId) (s : State) (q : QuadNo) (r : Run), s.mspsOpen → s.runOf route = some (q, r) →
    (∀ v, s.pfView r = some v → dPfdepth r.desc ≠ 0 →
      let lo := max v.first r.pf
      let hi := min v.total (lo + max 1 (2048 / v.bits))
      lo < hi → v.bytes (hi - v.first) ≤ dPfdepth r.desc * 4096 →
      (s.walked q (((List.range' lo (hi - lo)).flatMap v.source).map (·.1)) (engineIni q 9)).2 = true →
      ∃ t, exec (.streamPrefetch route) s = .next t ∧ { r with pf := hi } ∈ (t.quad q).runs ∧ t.mem = s.mem ∧ t.cells = s.cells)
    ∧ (dKind r.desc = kGATHER ∨ dKind r.desc = kSCATTER → r.stop = none → r.nextWin < winCount r.desc →
      let need := idxNeeds r.desc r.nextWin
      let a := s.walked q (need.map (·.1)) (r.ini q)
      let b := a.1.walked q ((a.1.windowNeeds q r r.nextWin).map (·.1)) (r.ini q)
      a.2 = true → a.1.piecesReady (a.1.idxPieces q r.desc r.nextWin) = true → b.2 = true →
      b.1.defaultsOf q (need ++ b.1.windowNeeds q r r.nextWin) = [] →
      ∃ t r', exec (.indexWindow route .ok) s = .next t ∧ r' ∈ (t.quad q).runs ∧ r'.seq = r.seq ∧ t.mem = s.mem
        ∧ (∀ p, (t.cell p).tiles = (s.cell p).tiles)
        ∧ (∀ f, b.1.positions q r (winPos r.desc r.nextWin) = .inr f → r' = { r with stop := some f })
        ∧ (∀ rows, b.1.positions q r (winPos r.desc r.nextWin) = .inl rows →
            (∃ x, r'.wins = r.wins ++ [x] ∧ x.w = r.nextWin ∧ x.rows = rows ∧ x.folded = false ∧ x.pending = []) ∧ r'.nextWin = r.nextWin + 1
            ∧ (t.quad q).idxskip = BitVec.ofNat 32 (satTo 0xFFFFFFFF ((s.quad q).idxskip.toNat + (rows.filter fun x => x.2.isNone).length))))
    ∧ (∀ w x, dKind r.desc = kSCATTER → r.win? w = some x → x.folded = false → s.mayFold r x = true →
      let a := s.kept q x.leaves
      a.piecesReady (a.rowPieces q r x) = true →
      (∃ t r' y, exec (.windowFoldDone route w [] .ok) s = .next t ∧ r' ∈ (t.quad q).runs ∧ t.mem = s.mem
        ∧ r'.win? w = some y ∧ y.rows = x.rows ∧ y.folded = true ∧ y.pending = x.groups.map (fun g => (g.1, a.partialOf q r g.2))
        ∧ (s.glob.detmode = true → t.step.ndet = s.step.ndet))
      ∧ (r.sv.rb = 0 → a.rowPieces q r x ≠ [] → s.voidable →
        ∃ t, exec (.windowFoldDone route w [] .uncorr) s = .next t ∧ t.voidedBy 0x01 ∧ t.mem = s.mem))
    ∧ (∀ w row x v b, r.win? w = some x → x.pending.find? (fun y => y.1 == row) = some (row, [v]) → (∀ j, j < w → r.sent j = true) →
      (r.wins.any fun y => decide (y.w < w) && (y.pending.any fun z => z.1 == row)) = false →
      (s.kept q x.leaves).xlate q (vaOf r.dv.base (row * dstStride r.desc 1)) true = .pa b → s.isDefault b = false → s.piecesReady [(b, 4)] = true →
      (s.Inv → ∀ ecc, ecc ≠ .uncorr → ∃ t r' y, exec (.scatterPartialApply route w row ecc) s = .next t ∧ r' ∈ (t.quad q).runs ∧ r'.win? w = some y
        ∧ y.pending = x.pending.filter (fun z => z.1 != row)
        ∧ t.mem.readNat b 4 = (accOp (idxAccXor r.desc) (BitVec.ofNat 32 (s.mem.readNat b 4)) v).toNat
        ∧ ∀ z, z < b ∨ b + 4 ≤ z → t.mem.read z = s.mem.read z)
      ∧ (s.voidable → ∃ t, exec (.scatterPartialApply route w row .uncorr) s = .next t ∧ t.voidedBy 0x01 ∧ t.mem = s.mem))

/-! ### Network and memory-side ports -/

/-- A target port (R168, R173, R174): the packets that its initiators hold and those that arrive, as far as their path or size leads to
this port, enter its pool of 64 and the rest stay held; of the packets with a credit that no earlier one of their initiator, target and channel
waits before, it grants one that none of them precedes in the order of effective QoS, entry, through traffic, initiator and sequence;
that packet leaves the pool and nothing else does, by a Wiquin port where its address lies in another instance (R370). A packet on a memory
path that has waited MSP_TIMEOUT voids the step.
The place of R173 in the order is log entry 78. -/
def Obligations.PacketGrantKeepsOrder : Prop :=
  ∀ (target nclk : Nat) (arrivals : List Packet) (credits : List VChan) (s : State), s.asleep = false →
    let waits := waitingAt s.net.pools target ++ waitingAt s.net.held target
    let old := waitingAt s.net.pools target
    let comes := waitingAt s.net.held target ++ (arrivals.filter (s.reaches target)).map fun x => { x with entry := nclk }
    let pool := old ++ (comes.take (64 - old.length)).map fun x => { x with entry := nclk }
    let best := bestPacket nclk (2 ^ (s.quad ((targetQuad target).getD 0)).period.toNat) (candidates pool credits)
    ((∀ x ∈ waits, s.waitsTooLong nclk x = false) →
      ∃ t, exec (.packetGrant target nclk arrivals credits) s = .next t ∧ t.mem = s.mem ∧ (∀ p, (t.cell p).tiles = (s.cell p).tiles)
        ∧ waitingAt t.net.held target = comes.drop (64 - old.length)
        ∧ (best = none → waitingAt t.net.pools target = pool ∧ candidates pool credits = [])
        ∧ ∀ p, best = some p →
          p ∈ pool ∧ p.vc ∈ credits ∧ (∀ x ∈ pool, packetFollows p x = false)
          ∧ (∀ x ∈ candidates pool credits, packetBefore nclk (2 ^ (s.quad ((targetQuad target).getD 0)).period.toNat) x p = false)
          ∧ s.outs ++ [.packet target (packetSent p target) (s.packetPort target p)] <+: t.outs ∧ waitingAt t.net.pools target = pool.erase p)
    ∧ ((∃ x ∈ waits, s.waitsTooLong nclk x = true) → s.voidable →
      ∃ t, exec (.packetGrant target nclk arrivals credits) s = .next t ∧ t.voidedBy 0x01 ∧ t.mem = s.mem)

/-- The default target's answer is recorded as INFO and in QD_DECERR, which keeps the first; the walk of a running TLOAD or TSTORE that
meets it stops the command at its row with DECERR (R115, R175, R176). A flit that a replay brings through counts and its link's run of
failures ends; one that fails again counts, below eight (R178, R179). A cell whose matrix port fails is fenced and retired; a failed
spine segment opens the ring once and voids the step; a second one, another matrix port or a station stops the instance; a Wiquin
link that fails voids the step while every instance stays in reach, and stops a non-master that its master no longer reaches (R179,
R372). So does a link between other instances that takes the master out of reach; on the master the instances that it no longer reaches
leave PRESENT (R39), heartbeats end, and a hold begins. The model's choices: the matrix port of a route engine or of the bridge stops the
instance as an attachment does, log entry 79; the links between other instances are outside, and `reach` says who is still met over them,
log entry 77; the void of a failed Wiquin link and of lost instances has cause 0x05, which R300 gives a spine link, log entry 112. -/
def Obligations.NetworkFaultsAct : Prop :=
  (∀ (q : QuadNo) (port : BitVec 5) (addr : PAddr) (write : Bool) (s : State), s.asleep = false → s.isDefault addr.toNat = true →
    (∃ t, exec (.defaultTargetAnswer q port addr write .other) s = .next t ∧ (t.quad q).decerr = some ((s.quad q).decerr.getD (port, addr))
      ∧ t.glob.irqSts.getLsbD 0 = true ∧ t.mem = s.mem)
    ∧ ∀ (e : EPort) (tag : Byte) (c : Cmd) (p : LsProg) (row : RowNo) (k : TileCfg), s.moving e tag c p → p.store = (c.op == opTSTORE) →
      p.next = row.toNat → row.toNat < p.n → p.parts = [] → s.cfgOf e.p c.tileNo = some k → (∀ x ∈ p.segs, x.1 ≠ row.toNat) →
      ∃ t, exec (.defaultTargetAnswer q port addr write (.row e tag row)) s = .next t
        ∧ s.outs ++ [.cpl e (cplWord (vaDetail (p.va + row.toNat * p.stride)) row.toNat c.op .decerr tag)] <+: t.outs
        ∧ (t.quad (quadOf e.p)).decerr = some ((s.quad (quadOf e.p)).decerr.getD (BitVec.ofNat 5 routePortNo, addr))
        ∧ t.glob.irqSts.getLsbD 0 = true ∧ t.mem = s.mem)
  ∧ (∀ (reach : BitVec 8) (s : State), s.asleep = false →
    let far (i : Nat) : Bool := !(s.anyWqUp && reach.getLsbD i)
    (s.isMaster = false → s.others.contains s.pkg.master.toNat = true → far s.pkg.master.toNat = true →
      ∃ t, exec (.linkFail .remote reach) s = .next t ∧ t.pins.fatal = true ∧ t.glob.halt = true ∧ t.mem = s.mem)
    ∧ (s.isMaster = true → s.others.any far = true →
      ∃ t, exec (.linkFail .remote reach) s = .next t ∧ (∀ i ∈ s.others, t.pkg.present.getLsbD i = !far i) ∧ t.job.hbOn = false
        ∧ (s.voidable → s.tmb.hold = false → t.voidedBy 0x05) ∧ (s.step.running = false → t.tmb.hold = true) ∧ t.mem = s.mem))
  ∧ (∀ (l : Link) (reach : BitVec 8) (s : State), s.asleep = false → l ≠ .remote → linkOf l ∉ s.net.deadLinks →
    (∃ t, exec (.flitCrcFail l true reach) s = .next t ∧ t.glob.irqSts.getLsbD 1 = true ∧ t.linkFails (linkOf l) = 0 ∧ t.mem = s.mem
      ∧ ∀ w, l = .wiquin w → (t.pkg.wq.get w).replays = BitVec.ofNat 16 (satTo 0xFFFF ((s.pkg.wq.get w).replays.toNat + 1)))
    ∧ (s.linkFails (linkOf l) < 7 → ∃ t, exec (.flitCrcFail l false reach) s = .next t
      ∧ t.linkFails (linkOf l) = s.linkFails (linkOf l) + 1 ∧ t.mem = s.mem)
    ∧ ((∀ q n, l = .matrixPort q n → n.toNat ≤ bridgePortNo) → ∃ t, exec (.linkFail l reach) s = .next t ∧ linkOf l ∈ t.net.deadLinks ∧ t.mem = s.mem
      ∧ (∀ p, linkOf l = .matrixCell p → (t.cell p).retired = true ∧ (t.port ⟨p, false⟩).fenced = true ∧ (t.port ⟨p, true⟩).fenced = true)
      ∧ (∀ n up, l = .spine n up → s.net.open1 = none → t.net.open1 = some n ∧ .spine n (!up) ∈ t.net.deadLinks ∧ (s.voidable → t.voidedBy 0x05))
      ∧ ((∃ n up m, l = .spine n up ∧ s.net.open1 = some m ∧ m ≠ n) ∨ (∃ q n, linkOf l = .matrixPort q n) ∨ (∃ n, l = .station n) →
          t.pins.fatal = true)
      ∧ (∀ w, l = .wiquin w → (s.pkg.wq.get w).st = .up → (t.pkg.wq.get w).st = .failed
          ∧ (s.isMaster = false → s.others.contains s.pkg.master.toNat = true → reach.getLsbD s.pkg.master.toNat = false →
              t.pins.fatal = true ∧ t.glob.halt = true)
          ∧ ((∃ v, v ≠ w ∧ (s.pkg.wq.get v).st = .up) → (∀ i ∈ s.others, reach.getLsbD i = true) → s.voidable → t.voidedBy 0x05))))

/-- Memory-side ports (R61-R64, R74, R117): the sectors of a read come in any order; each fills its line, whose lanes written since keep
their bytes, where its set has a free way or all of its lines are clean, and the last one frees the transaction; a corrected one is
reported, and one that is not voids the step; a write response frees its transaction, and a miss that waits for room leaves then; a
transaction past MSP_TIMEOUT ends and voids the step (R63). A sector, a response or an identity word with an id that is not outstanding
(R74 no. 8) and a sector beyond its transaction's length or repeated (no. 9) are dropped, counted and reported as INFO, below the fence
threshold. Identity words are kept and asked for in order, four of them, and a stack that does not answer is absent; with the last
identity the cells that wait for their self-test begin it (R401).
Transaction ids are free values, log entry 21; sets and replacement are log entry 8. -/
def Obligations.MspAnswersFillAndFree : Prop :=
  ∀ (m : Fin 6) (id : BitVec 12) (s : State), s.asleep = false →
    let read := (s.msps.get m).txns.find? fun t => t.id == id && !t.write
    let written := (s.msps.get m).txns.find? fun t => t.id == id && t.write
    let freed (t : State) : Prop := s.net.misses = [] → ∀ y ∈ (t.msps.get m).txns, y.id ≠ id
    (∀ seq data x status, s.Inv → read = some x → seq.toNat < x.len → x.got.getLsbD seq.toNat = false →
      let n := x.line + seq.toNat
      let got := x.got ||| (1 <<< seq.toNat)
      (status.toNat < 2 →
        ((s.lineAt n).isSome = true ∨ (s.freeWay n).isSome = true
          ∨ ((∃ l ∈ s.lines, cacheSlot l.line = cacheSlot n) ∧ ∀ l ∈ s.lines, cacheSlot l.line = cacheSlot n → l.dirty = 0)) →
        let held : Byte := match s.lineAt n with | some l => l.held | none => 0
        ∃ t l, exec (.mspReadSector m id seq status data) s = .next t ∧ t.lineAt n = some l ∧ l.held = 0xFF
          ∧ (got = BitVec.ofNat 16 (2 ^ x.len - 1) → freed t) ∧ (got ≠ BitVec.ofNat 16 (2 ^ x.len - 1) → { x with got := got } ∈ (t.msps.get m).txns)
          ∧ (∀ i, i < 256 → t.mem.read (n * 256 + i) = if held.getLsbD (i / 32) then s.mem.read (n * 256 + i) else rowByte data i)
          ∧ (∀ a, a / 256 ≠ n → t.mem.read a = s.mem.read a) ∧ (status = 1 → t.glob.irqSts.getLsbD 1 = true))
      ∧ (status = 2 → s.voidable → ∃ t, exec (.mspReadSector m id seq status data) s = .next t ∧ t.voidedBy 0x01 ∧ t.mem = s.mem ∧ freed t))
    ∧ (∀ x status, written = some x → status.toNat < 2 →
      ∃ t, exec (.mspWriteResponse m id status) s = .next t ∧ freed t ∧ t.mem = s.mem ∧ t.lines = s.lines
        ∧ (status = 1 → t.glob.irqSts.getLsbD 1 = true)
        ∧ (∀ w, s.net.misses = [w] → (s.interleave (paLocal (w.line * 256))).map (·.1) = some m → (s.msps.get m).fenced = false →
            t.net.misses = [] ∧ ∃ i a, .mspReq m.val false i a 0 (BitVec.ofNat 4 w.qos) ∈ t.outs))
    ∧ ((s.msps.get m).fenced = false → (s.recentViols 1 (s.msps.get m).viols).length + 1 < fenceLimit s 1 →
      let drops (i : Instr) : Prop := ∃ t, exec i s = .next t ∧ t.mem = s.mem ∧ t.lines = s.lines ∧ (t.msps.get m).fenced = false
        ∧ (t.msps.get m).viols = s.recentViols 1 (s.msps.get m).viols ++ [s.clk.gtc] ∧ t.glob.irqSts.getLsbD 0 = true
        ∧ (s.net.misses = [] → (t.msps.get m).txns = (s.msps.get m).txns)
      (read = none → ∀ seq status data, drops (.mspReadSector m id seq status data)) ∧ (written = none → ∀ status, drops (.mspWriteResponse m id status))
      ∧ (∀ x seq, read = some x → x.len ≤ seq.toNat ∨ x.got.getLsbD seq.toNat = true → ∀ status data, drops (.mspReadSector m id seq status data))
      ∧ ((s.msps.get m).idDone = true ∨ (s.msps.get m).absent = true → ∀ data, drops (.mspIdAck m data)))
    ∧ (∀ now x, s.clk.gtc.toNat ≤ now.toNat → (s.msps.get m).txns.find? (fun t => t.id == id) = some x →
      x.issued.toNat + s.job.mspTimeout ≤ now.toNat → s.voidable →
      ∃ t, exec (.mspTimeout m id now) s = .next t ∧ freed t ∧ t.voidedBy 0x01 ∧ t.glob.irqSts.getLsbD 2 = true
        ∧ t.mem = s.mem)
    ∧ (∀ data, (s.msps.get m).idDone = false → (s.msps.get m).absent = false →
      ∃ t, exec (.mspIdAck m data) s = .next t ∧ (t.msps.get m).ident = (s.msps.get m).ident ++ [data] ∧ t.mem = s.mem
        ∧ ((s.msps.get m).ident.length < 3 → (t.msps.get m).idDone = false
            ∧ .mspIdReq m.val (BitVec.ofNat 2 ((s.msps.get m).ident.length + 1)) ∈ t.outs)
        ∧ ((s.msps.get m).ident.length = 3 → (t.msps.get m).idDone = true
            ∧ ((t.msps.get m).absent = true ↔ bf ((((s.msps.get m).ident ++ [data])[0]?).getD 0) 0 16 = 0)))
    ∧ ((s.msps.get m).idDone = false → ∃ t, exec (.mspIdTimeout m) s = .next t ∧ (t.msps.get m).idDone = true ∧ (t.msps.get m).absent = true
        ∧ t.mem = s.mem ∧ (∀ p, (t.cell p).tiles = (s.cell p).tiles)
        ∧ (s.pkg.settled = false → (∀ n, n ≠ m → (s.msps.get n).idDone = true) → ∀ p, (s.cell p).toTest = true → (s.cell p).pwr = .wiping →
            (t.cell p).pwr = .bist))

/-! ### Stash and generations -/

/-- Puts (R233, R234, R239, R240, R245, R246): with room in the directory and in a home slice a STASHPUT of a tile in use is registered with
its place, and so is one that waited once space is free; one for a frozen generation completes with OK and stores nothing; at a full
directory one waits under SPILL and under FAULT completes with STASHFULL and the slot in DETAIL; a spill that makes room gives the
entry its place and writes within the spill region alone. Directory index and place are free values, log entry 20. -/
def Obligations.PutsTakeTheirPlace : Prop :=
  (∀ (e : EPort) (tag : Byte) (arg : BitVec 112) (s : State), s.startsNow e opSTASHPUT tag arg →
    let c : Cmd := { beat := beatOf opSTASHPUT tag arg }
    ∀ x k l, ownFile e.sep c.tileNo = true → (s.cell e.p).tile? c.tileNo = some x → x.cfg = some k → x.inUse = true →
      (s.cell e.p).logical = some l →
      (c.genValid = true → ∀ g, s.gen? c.genIdx = some g → g.frozen = true →
        ∃ t, exec (.stashput e tag arg) s = .next t ∧ s.completes t e opSTASHPUT tag .ok 0 ∧ t.stash = s.stash ∧ t.mem = s.mem)
      ∧ ((c.genValid = true → ∃ g, s.gen? c.genIdx = some g ∧ g.frozen = false) →
        (s.stash.entries.length < dirSize → s.fits (s.homeQuad l) (s.putSize (s.cmdPut e c l)) = true →
          ∃ t c', exec (.stashput e tag arg) s = .next t ∧ (t.port e).find tag = some c' ∧ c'.stash = some s.stash.uid
            ∧ s.registers t (s.cmdPut e c l) ∧ t.mem = s.mem)
        ∧ (dirSize ≤ s.stash.entries.length → bf s.glob.stashCfg 0 2 = 0 →
          ∃ t c', exec (.stashput e tag arg) s = .next t ∧ (t.port e).find tag = some c' ∧ c'.waitSince = some s.clk.gtc ∧ t.stash = s.stash
            ∧ t.mem = s.mem)
        ∧ (dirSize ≤ s.stash.entries.length → bf s.glob.stashCfg 0 2 ≠ 0 →
          ∃ t, exec (.stashput e tag arg) s = .next t ∧ s.completes t e opSTASHPUT tag .stashfull (c.slot.setWidth 32) ∧ t.stash = s.stash
            ∧ t.mem = s.mem)))
  ∧ (∀ (e : EPort) (tag : Byte) (s : State) (c : Cmd) (l : LCell), s.holds e tag c → (s.cell e.p).logical = some l →
      (c.op = opSTASHPUT → c.waitSince.isSome = true → s.stash.entries.length < dirSize →
        s.fits (s.homeQuad l) (s.putSize (s.cmdPut e c l)) = true →
        ∃ t c', exec (.stashSpaceFreed (.port e tag)) s = .next t ∧ (t.port e).find tag = some c' ∧ c'.stash = some s.stash.uid
          ∧ c'.waitSince = none ∧ s.registers t (s.cmdPut e c l) ∧ t.mem = s.mem)
      ∧ (∀ uid x, s.mspsOpen → c.stash = some uid → s.entry? uid = some x → x.placed = false →
        let size := ceilDiv (x.vrows * x.cfg.bytes) 256 * 256
        (s.spillFor (s.homeQuad x.cell) size).fits (s.homeQuad x.cell) size = true →
        ∃ t y, exec (.stashSpill (.port e tag)) s = .next t ∧ t.entry? uid = some y ∧ y.placed = true ∧ y.spilled = false
          ∧ t.stash.entries.length = s.stash.entries.length
          ∧ (s.fits (s.homeQuad x.cell) size = true → t.mem = s.mem)
          ∧ ((∀ z ∈ s.stash.entries, z.put = true → z.rows.length = z.vrows) → ∀ a,
              a < s.glob.spillBase.toNat ∨ s.glob.spillBase.toNat + min s.glob.spillSize.toNat 0x01000000 * 65536 ≤ a →
              t.mem.read a = s.mem.read a)))

/-- Gets (R235-R237): with no entry of its key a STASHGET completes with TNOTVALID; a recompute mark completes it with OK and the
indication in DETAIL and is retired; an entry of another shape or format completes it with TSHAPE or TFMT and stays; the entry found
is taken for it, and it waits for the rows. -/
def Obligations.GetsFindTheirEntry : Prop :=
  ∀ (e : EPort) (tag : Byte) (arg : BitVec 112) (s : State), s.startsNow e opSTASHGET tag arg →
    let c : Cmd := { beat := beatOf opSTASHGET tag arg }
    ∀ k l, ownFile e.sep c.tileNo = true → s.cfgOf e.p c.tileNo = some k → (s.cell e.p).logical = some l →
    let res := s.tryGet (s.cmdPut e c l) k
    ∃ t, exec (.stashget e tag arg) s = .next t ∧ t.mem = s.mem ∧ (∀ p, (t.cell p).tiles = (s.cell p).tiles)
      ∧ (res = .miss → s.completes t e opSTASHGET tag .tnotvalid (tileDetail c.tileNo) ∧ t.stash = s.stash)
      ∧ (∀ uid, res = .mark uid → s.completes t e opSTASHGET tag .ok (s.recomputeDetail c.layer)
          ∧ ∀ y ∈ t.stash.entries, y.uid = uid → y.retired = true)
      ∧ (res = .tfmt → s.completes t e opSTASHGET tag .tfmt (tileDetail c.tileNo) ∧ t.stash = s.stash)
      ∧ (res = .tshape → s.completes t e opSTASHGET tag .tshape (tileDetail c.tileNo) ∧ t.stash = s.stash)
      ∧ (∀ uid, res = .found uid → ∃ c', (t.port e).find tag = some c' ∧ c'.stash = some uid
          ∧ ∀ y ∈ t.stash.entries, y.uid = uid → y.getting = true)

/-- The rows of a put or a get have moved (R231, R234, R236, R240, R241): a put's entry holds rows 0 to V - 1 of its tile, zeros where nothing is
written, in its slice or, once spilled, at its place in the spill region and nowhere else in memory; a get's tile holds the entry's rows
and no other, its resume record goes, the entry is retired; the command completes. A row of the tile that cannot be corrected voids the
step (R97). -/
def Obligations.StashRowsMove : Prop :=
  ∀ (e : EPort) (tag : Byte) (s : State) (c : Cmd) (uid : Nat) (x : SEntry) (ti : Tile) (ecc : List RowEcc), s.holds e tag c → c.stash = some uid →
    s.entry? uid = some x → (s.cell e.p).tile? c.tileNo = some ti →
    (c.op = opSTASHPUT → x.placed = true →
      ((∀ r ∈ ecc, r.ecc ≠ .uncorr) → (x.spilled = true → s.mspsOpen) → ∃ t y, exec (.stashRowTransfer (.port e tag) ecc) s = .next t
        ∧ .cpl e (cplWord 0 0 opSTASHPUT .ok tag) ∈ t.outs ∧ t.entry? uid = some y ∧ y.put = true ∧ (∀ p, (t.cell p).tiles = (s.cell p).tiles)
        ∧ (x.spilled = false → y.rows = (List.range ti.valid).map ti.rowAt ∧ t.mem = s.mem)
        ∧ (x.spilled = true → s.Inv → s.isDefault (s.spillPa x) = false →
            let bs := ((List.range ti.valid).map ti.rowAt).flatMap fun r => rowBytes r x.cfg.bytes
            t.mem.readBytes (s.spillPa x) bs.length = bs
              ∧ ∀ a, a < s.spillPa x ∨ s.spillPa x + bs.length ≤ a → t.mem.read a = s.mem.read a))
      ∧ ((∃ r ∈ ti.moveRows, eccAt ecc c.tileNo r = .uncorr) → s.voidable →
        ∃ t, exec (.stashRowTransfer (.port e tag) ecc) s = .next t ∧ t.voidedBy 0x01 ∧ t.mem = s.mem))
    ∧ (c.op = opSTASHGET → x.put = true → s.entryReady x = true → (s.entryRows x).length = x.vrows → x.vrows ≤ 128 → (∀ r ∈ ecc, r.ecc ≠ .uncorr) →
      ∃ t y z, exec (.stashRowTransfer (.port e tag) ecc) s = .next t ∧ s.completes t e opSTASHGET tag .ok 0
        ∧ t.entry? uid = some y ∧ y.retired = true ∧ (t.cell e.p).tile? c.tileNo = some z ∧ z.cfg = ti.cfg ∧ z.valid = x.vrows ∧ z.resume = none
        ∧ (∀ r, r < x.vrows → some (z.rowAt r) = (s.entryRows x)[r]?) ∧ (∀ r, x.vrows ≤ r → z.written.getLsbD r = false) ∧ t.mem = s.mem)

/-- Waits: a put that has waited STASH_TIMEOUT and a kick that has waited GEN_TIMEOUT are each reported as INFO once and wait on (R246,
R255); a kick in GENWAIT whose slot no stash entry references any more takes it for WRITING with the next generation number, and waits
on while one does (R255, R257); a refill gives the newest spilled entry a place in its home slices and
the rows of the spill region (R241).
The operand `now` is read as log entry 5 says. -/
def Obligations.WaitsAreReportedAndReleased : Prop :=
  (∀ (e : EPort) (tag : Byte) (now : Tick) (s : State) (c : Cmd) (l : LCell) (since : Tick), s.clk.gtc.toNat ≤ now.toNat →
    (s.port e).find tag = some c → c.op = opSTASHPUT → c.waitSince = some since → c.noted = false → (s.cell e.p).logical = some l →
    s.stashTimeoutTicks ≠ 0 → since.toNat + s.stashTimeoutTicks ≤ now.toNat →
    ∃ t c', exec (.stashTimeout (.port e tag) now) s = .next t ∧ (t.port e).find tag = some c' ∧ c' = { c with noted := true }
      ∧ t.glob.irqSts.getLsbD 0 = true ∧ t.outs = (s.atTick now).outs ∧ t.stash = s.stash)
  ∧ (∀ (route : RouteId) (now : Tick) (s : State) (k : Kick) (since : Tick) (g : Gen), s.clk.gtc.toNat ≤ now.toNat →
    s.rt.kicks.find? (fun k => k.route == route && k.genwait.isSome && !k.noted) = some k → k.genwait = some since →
    (writesNext k.desc).bind s.gen? = some g → s.genTimeoutTicks ≠ 0 → since.toNat + s.genTimeoutTicks ≤ now.toNat →
    ∃ t, exec (.genTimeout route now) s = .next t ∧ { k with noted := true } ∈ t.rt.kicks ∧ t.glob.irqSts.getLsbD 0 = true ∧ t.gens = s.gens)
  ∧ (∀ (route : RouteId) (s : State) (k : Kick) (idx : BitVec 12) (g : Gen),
    s.rt.kicks.find? (fun k => k.route == route && k.genwait.isSome) = some k → s.tmb.stop = false → s.tmb.hold = false → s.step.decided = none →
    s.step.paused = false → s.step.stop = false → writesNext k.desc = some idx → s.gen? idx = some g → g.st ≠ .writing → g.frozen = false →
    ∃ t k', exec (.genwaitRelease route) s = .next t ∧ k' ∈ t.rt.kicks ∧ k'.seq = k.seq ∧ t.cells = s.cells
      ∧ (s.refs idx g.otherCtr = 0 → k'.granted = true ∧ k'.genwait = none
          ∧ t.gen? idx = some { g.setOther (g.liveCtr + 1) with st := .writing })
      ∧ (s.refs idx g.otherCtr ≠ 0 → k'.granted = k.granted ∧ k'.genwait = k.genwait ∧ t.gen? idx = some { g with st := .genwait }))
  ∧ (∀ (q : QuadNo) (s : State) (x : SEntry), bf s.glob.stashCfg 8 8 * 2 ^ 20 < s.sliceFree (2 * q.val) + s.sliceFree (2 * q.val + 1) →
    (s.stash.entries.filter fun x => x.spilled && x.put && !x.getting && s.homeQuad x.cell == q).getLast? = some x →
    s.fits q x.size = true → s.entryReady x = true →
    ∃ t y, exec (.stashRefill q) s = .next t ∧ t.entry? x.uid = some y ∧ y.placed = true ∧ y.spilled = false ∧ y.rows = s.entryRows x
      ∧ t.stash.entries.length = s.stash.entries.length ∧ t.mem = s.mem)

/-! ### Messages of the external station ports -/

/-- Messages that are taken (R67, R68): a peer of the heartbeat list is heard now. Beside that a heartbeat changes nothing; a gradient
partial of no running merge is held, and not taken while the buffer has no room (R274); a delta line of a holder's share is folded into
its image line, or into the line of the other slot when it begins a generation or a replay (R314); an acknowledgement counts for the run
whose tensor, counter and void count it names, and for nothing else (R313); the end of a rebuild ends it at a member and at a
holder that does not combine, and the end of a resync clears STALE (R316, R320); a STEPVOID of the step in progress voids it and sets the
replay tick it announces (R294, R295); a digest entry is compared with the own one (R290); a tick value goes to the master, whose nearest
sample gives the error, also of one that another instance passes on (R380); a bad message counts, and the violation that reaches the threshold fences the port, voids the step, or
loses the instance with its second port (R74-R76). The model's choices: the own chip is passed over in the heartbeat list, log entry 70;
a lost chip that is heard again is marked as a replacement, log entry 93; the room of a held partial is counted as log entry 54 says; of two
samples at one distance the newest counts, log entry 45. -/
def Obligations.XspMessagesAct : Prop :=
  ∀ (x : Fin 2) (m : XMsg) (s : State),
    let heard (t : State) : Prop := t.net.seen = (m.src, m.seq) :: s.net.seen
      ∧ (s.hbPeers.contains m.src = true → t.net.peers.find? (fun p => p.chip == m.src) =
          some ⟨m.src, true, s.clk.gtc, false, s.net.peers.any fun p => p.chip == m.src && (p.lost || p.back)⟩)
      ∧ (s.hbPeers.contains m.src = false → t.net.peers = s.net.peers)
    (s.takesMsg x m 0x05 → ∃ t, exec (.heartbeat x m) s = .next t ∧ heard t ∧ t = { s with net := t.net })
    ∧ (∀ p, s.takesMsg x m 0x01 → partialOf? m = some p → (∀ y ∈ s.running, y.route ≠ p.route) →
        (s.mergeUsed + p.size ≤ s.mergeCap → ∃ t, exec (.gradientPartial x m) s = .next t ∧ heard t ∧ t.merge = s.merge ++ [p] ∧ t.mem = s.mem)
        ∧ (s.mergeCap < s.mergeUsed + p.size → exec (.gradientPartial x m) s = .next s))
    ∧ (s.takesMsg x m 0x02 → fld m.payload 0 1 = 1 → s.par.holder = true → fld m.payload 1 1 = s.par.share → fld m.payload 12 2 = 1 →
        let j := fld m.payload 8 4
        let c : BitVec 16 := BitVec.ofNat 16 (fld m.payload 4 2)
        let v : BitVec 16 := BitVec.ofNat 16 (fld m.payload 6 2)
        let own := s.par.line? (c.getLsbD 0) j
        let other : Row := ((s.par.line? (!c.getLsbD 0) j).map (·.data)).getD 0
        s.pairVoided m.step v = false →
        ∃ t y, exec (.parityDelta x m) s = .next t ∧ heard t ∧ t.par.line? (c.getLsbD 0) j = some y ∧ y.ctr = c ∧ y.voids = v
          ∧ (∀ z, own = some z → z.ctr = c → z.voids = v → y.data = z.data ^^^ rowOf ((m.payload.drop 16).take 256))
          ∧ ((own = none ∨ ∃ z, own = some z ∧ ¬ (z.ctr = c ∧ z.voids = v)) → y.data = other ^^^ rowOf ((m.payload.drop 16).take 256)))
    ∧ (s.takesMsg x m 0x02 → fld m.payload 0 1 = 2 → ∃ t, exec (.parityDelta x m) s = .next t ∧ heard t ∧ t.mem = s.mem
        ∧ (fld m.payload 6 2 ≠ s.tmb.voids.toNat → t.quads = s.quads ∧ t.par = s.par)
        ∧ (fld m.payload 6 2 = s.tmb.voids.toNat → s.par.mirrorWait = false → ∀ g, s.gen? (BitVec.ofNat 12 (fld m.payload 2 2)) = some g →
            g.otherCtr = BitVec.ofNat 16 (fld m.payload 4 2) → ∀ q, ∀ r ∈ (s.quad q).runs, r.code = none → dKind r.desc = kPARITY →
            epGenIdx (srcWord r.desc) = BitVec.ofNat 12 (fld m.payload 2 2) → { r with acks := m.src :: r.acks } ∈ (t.quad q).runs))
    ∧ (∀ fails, s.takesMsg x m 0x03 → fld m.payload 0 1 = 4 → ∃ t, exec (.rebuildStream x m fails) s = .next t ∧ heard t ∧ t.mem = s.mem
        ∧ (∀ r, s.fromHolder m = true → s.par.memReb = some r → ¬ (r.role = 0 ∧ s.par.two = true ∧ r.solved = 0) →
            t.par.memReb = none ∧ t.par.rebuilding = s.par.rebuild.isSome ∧ (r.role = 0 → t.par.stale = false))
        ∧ (∀ r, (s.fromHolder m = false ∨ s.par.memReb = none) → s.par.rebuild = some r → r.combines s.par = false →
            t.par.rebuild = none ∧ t.par.rebuilding = s.par.memReb.isSome))
    ∧ (s.takesMsg x m 0x04 → m.step = s.step.count → s.tmb.voids.toNat ≤ fld m.payload 16 2 → s.tmb.hold = false →
        s.pins.fatal = false → s.voidable → ∃ t, exec (.stepvoid x m) s = .next t ∧ t.voidedBy 0x02 ∧ t.glob.irqSts.getLsbD 2 = true ∧ t.mem = s.mem
          ∧ (s.isLeader = false → s.tmb.holdReq = false → fld m.payload 16 2 + 1 < s.maxVoids → s.clk.gtc.toNat < fld m.payload 0 8 →
              fld m.payload 0 8 ≠ 2 ^ 64 - 1 → t.tmb.armed = true ∧ t.tmb.replay.toNat = fld m.payload 0 8))
    ∧ (∀ e y, s.takesMsg x m 0x06 → s.dig.en = true → digestEntries m s.clk.gtc = [e] → s.dig.own.find? e.same = some y →
        ∃ t, exec (.divergenceDigest x m) s = .next t ∧ heard t ∧ (∀ z ∈ t.dig.own, e.same z = false)
          ∧ (t.dig.mismatch = true ↔ s.dig.mismatch = true ∨ y.crc ≠ e.crc))
    ∧ (s.takesMsg x m 0x07 →
        let v : Tick := BitVec.ofNat 64 (fld m.payload 0 8)
        ∃ t, exec (.tickValue (some x) m) s = .next t ∧ heard t ∧ t.mem = s.mem ∧ t.cells = s.cells
          ∧ (s.isMaster = false → t.outs = s.outs ++ [.wiquin (s.wqPort s.pkg.master 0) 2 v])
          ∧ (∀ y, s.isMaster = true → s.clk.follows = true → nearestSample v s.clk.samples = some y → t.clk.clErr = satSigned 16 (tickDiff y v)))
    ∧ (∀ y, m.type = 0x07 → s.asleep = false → s.isMaster = true → s.clk.follows = true →
        nearestSample (BitVec.ofNat 64 (fld m.payload 0 8)) s.clk.samples = some y →
        ∃ t, exec (.tickValue none m) s = .next t ∧ t.clk.clErr = satSigned 16 (tickDiff y (BitVec.ofNat 64 (fld m.payload 0 8))) ∧ t.net = s.net)
    ∧ (∀ no, s.asleep = false → s.msgFault m = some no → (s.net.xsps.get x).fenced = false →
        let count := (s.recentViols 2 (s.net.xsps.get x).viols).length + 1
        let other := ∀ y, y ≠ x → (s.net.xsps.get y).fenced = true
        ∃ t, exec (.xspBadMessage x m) s = .next t ∧ (t.net.xsps.get x).viols = s.recentViols 2 (s.net.xsps.get x).viols ++ [s.clk.gtc]
          ∧ t.net.peers = s.net.peers ∧ t.glob.irqSts.getLsbD 0 = true ∧ t.mem = s.mem
          ∧ ((t.net.xsps.get x).fenced = true ↔ fenceLimit s 2 ≤ count)
          ∧ (fenceLimit s 2 ≤ count → other → t.pins.fatal = true)
          ∧ (fenceLimit s 2 ≤ count → ¬ other → s.voidable → t.voidedBy 0x07))

/-- What the instance sends on its own: due heartbeats, one to each other chip of the list (log entry 70), and the next one period later (R68); a peer silent
for the loss timeout is lost and a hold is asked for or begins, where it is on the list (R68, R299); an exchange at or beyond a multiple
of the period leaves no entry to send, and none is made twice for one multiple (R289, R378); a change of a station port's link shows in the Geometry Table under the next sequence number (R39, R40).
The operand `now` is read as log entry 5 says. -/
def Obligations.PeersAreWatched : Prop :=
  ∀ (now : Tick) (s : State), s.asleep = false → s.clk.gtc.toNat ≤ now.toNat →
    (s.job.hbOn = true → s.job.hbNext.toNat ≤ now.toNat → ∃ t, exec (.heartbeatSend now) s = .next t
      ∧ t.job.hbNext = BitVec.ofNat 64 (s.job.hbNext.toNat + s.job.hbPeriod) ∧ s.outs <+: t.outs
      ∧ (s.net.xsps.all (·.fenced) = false → t.outs.length = (s.atTick now).outs.length + s.hbPeers.length)
      ∧ (s.net.xsps.all (·.fenced) = true → t.outs = (s.atTick now).outs) ∧ t.mem = s.mem ∧ t.cells = s.cells)
    ∧ (∀ chip, (∀ p, s.hbPeers.contains chip = true → s.net.peers.find? (fun y => y.chip == chip) = some p → p.armed = true → p.lost = false →
        p.last.toNat + s.job.hbTimeout ≤ now.toNat →
        ∃ t, exec (.peerLossTimeout chip now) s = .next t ∧ { p with lost := true } ∈ t.net.peers ∧ (t.tmb.hold = true ∨ t.tmb.holdReq = true)
          ∧ t.glob.irqSts.getLsbD 2 = true ∧ t.mem = s.mem)
      ∧ (s.hbPeers.contains chip = false → ∃ t, exec (.peerLossTimeout chip now) s = .next t ∧ t.net = s.net ∧ t.tmb = s.tmb ∧ t.step = s.step))
    ∧ (s.dig.en = true →
      (now.toNat / s.dig.periodTicks ≠ s.dig.exch.toNat / s.dig.periodTicks → ∃ t, exec (.digestExchange now) s = .next t ∧ t.dig.toSend = []
        ∧ t.dig.exch = now ∧ s.outs <+: t.outs ∧ (s.dig.toSend = [] → t.outs = (s.atTick now).outs) ∧ t.mem = s.mem)
      ∧ (now.toNat / s.dig.periodTicks = s.dig.exch.toNat / s.dig.periodTicks →
        ∃ t, exec (.digestExchange now) s = .next t ∧ t.dig = s.dig ∧ t.outs = (s.atTick now).outs))
    ∧ (∀ x up, ∃ t, exec (.xspLinkStateChange x up) s = .next t ∧ (t.net.xsps.get x).up = up ∧ t.mem = s.mem
        ∧ ((s.net.xsps.get x).up ≠ up → s.glob.geo.get 0 ≠ 0 → t.glob.irqSts.getLsbD 0 = true
            ∧ t.glob.geo.get 0 = if s.glob.geo.get 0 + 2 = 0 then 2 else s.glob.geo.get 0 + 2))

/-! ### Steps -/

/-- The launch whose tick has come, first one that a later write found reached (R422), opens the step that STEP_COUNT names, with GTC_BEGIN at the launch, the grid anchored there and the marks that a rebuild
installed counted in NDET, or stands paused where a pause was asked for; it is spent while a step runs, in a hold, or without a resume,
which is the model's reading, log entry 67 (R283, R284, R292, R321, R384). The due tick begins the boundary stop and carries the kicks in GENWAIT (R385, R386). The
boundary is decided once nothing is owed, its WRITING tensors are READY, and the master of more than one instance announces it (R257,
R385). Taken 2,048 ticks later, it closes the record with its tick and NDET and advances STEP_COUNT, or stands
paused (R280, R281, R284, R385).
The operand `now` is read as log entry 5 says; the decision is this instance's share, log entry 6. -/
def Obligations.StepsOpenAndClose : Prop :=
  ∀ (now : Tick) (s : State), s.clk.gtc.toNat ≤ now.toNat →
    (∀ tick c, ({ s.clk with gtc := now } : Clk).dueLaunch = some (tick, c) → s.asleep = false → s.pins.fatal = false →
      (s.step.running = true ∨ s.tmb.hold = true ∨ (s.step.paused = true ∧ s.step.resumed = false) →
        ∃ t, exec (.launchTick now []) s = .next t ∧ t.clk = c ∧ t.step = s.step ∧ t.tmb = s.tmb ∧ t.mem = s.mem)
      ∧ (s.mspsOpen → s.step.running = false → s.tmb.hold = false → (s.step.paused = false ∨ s.step.resumed = true) →
      ∃ t r l, exec (.launchTick now []) s = .next t ∧ t.clk.armed = c.armed ∧ t.clk.reached = c.reached
        ∧ (s.step.pausePend = true → t.step.running = false ∧ t.step.paused = true ∧ t.glob.halt = true)
        ∧ (s.step.pausePend = false → t.step.running = true ∧ t.glob.halt = false
        ∧ t.step.count = s.step.count ∧ t.step.records = r :: l ∧ r.step = s.step.count ∧ r.opened = tick
        ∧ t.step.anchor = tick ∧ t.step.due = BitVec.ofNat 64 (tick.toNat + t.periodTicks)
        ∧ t.step.ndet = satTo 0xFFFFFF s.step.marks ∧ t.step.marks = 0)))
    ∧ (s.voidable → s.step.stop = false → s.step.due.toNat ≤ now.toNat →
      ∃ t, exec (.stepDueTick now) s = .next t ∧ t.step.stop = true ∧ (∀ k ∈ t.rt.kicks, k.carried = k.genwait.isSome)
        ∧ t.step.count = s.step.count ∧ t.mem = s.mem ∧ t.outs = (s.atTick now).outs)
    ∧ (s.voidable → s.step.stop = true → s.step.decided = none → s.par.mirrorWait = false → s.ckpt.draining = false → s.markCarried.mayDecide = true →
      ∃ t, exec (.boundaryDecided now) s = .next t ∧ t.step.decided = some now ∧ (∀ g ∈ t.gens, g.st ≠ .writing) ∧ t.step.count = s.step.count
        ∧ t.mem = s.mem ∧ (s.leadsPackage = true → .wiquin none 10 now ∈ t.outs))
    ∧ (∀ td r0 l, s.mspsOpen → s.voidable → s.step.decided = some td → td.toNat + 2048 ≤ now.toNat → s.step.records = r0 :: l →
      ∃ t r r1 l', exec (.boundaryTaken now) s = .next t ∧ t.step.count = s.step.count + 1 ∧ t.tmb.voids = 0 ∧ t.step.decided = none
        ∧ t.step.ndet = 0 ∧ t.step.records = r :: r1 :: l' ∧ r.step = s.step.count + 1 ∧ r1.step = r0.step ∧ r1.closed = td + 2048
        ∧ r1.ndet = s.step.ndet
        ∧ (s.step.pausePend = false → s.dig.en = false → t.step.running = true ∧ r.opened = td + 2048)
        ∧ (s.step.pausePend = true → t.step.running = false ∧ t.step.paused = true ∧ t.glob.halt = true))

/-- A voided step is replayed at the announced tick: VOIDS one higher, a new GTC_BEGIN and anchor, armed ticks before it gone (R207, R297,
R384); without an announcement within twice the lead the void begins anew with VOIDS one higher (R295); the cleanup ends, and a hold
that was asked for begins, once every row that gave an error is tested (R297, R299, R306). A drain that is done has copied the tensor's
live slot and counts down CKPT_STS, a failed one is reported, and one whose source cannot be corrected voids the step (R324, R325); the last
one writes the header, or reports the checkpoint as failed. That a drain goes through the ATU of quadrant 0 is the model's reading, log entry 35.
The operand `now` is read as log entry 5 says. -/
def Obligations.VoidsReplayOrHold : Prop :=
  ∀ (now : Tick) (s : State), s.clk.gtc.toNat ≤ now.toNat →
    (∀ r0 l, s.tmb.stop = true → s.tmb.armed = true → s.tmb.cleanup = false → s.tmb.hold = false → s.pins.fatal = false →
      s.tmb.replay.toNat ≤ now.toNat → s.fillsLate = false → s.step.records = r0 :: l →
      ∃ t, exec (.replayTick now) s = .next t ∧ t.tmb.stop = false ∧ t.tmb.armed = false ∧ t.tmb.voids = oneMore s.tmb.voids
        ∧ t.step.records = { r0 with voids := oneMore r0.voids, opened := s.tmb.replay } :: l ∧ t.step.anchor = s.tmb.replay
        ∧ (∀ a ∈ t.rt.arms, s.tmb.replay.toNat ≤ a.2.toNat) ∧ t.step.count = s.step.count ∧ t.mem = s.mem)
    ∧ (s.tmb.stop = true → s.tmb.armed = false → s.tmb.hold = false → s.tmb.cleanup = true → s.tmb.since.toNat + 2 * s.leadTicks ≤ now.toNat →
      ∃ t, exec (.replayAgreementTimeout now) s = .next t ∧ t.voidedBy s.tmb.cause ∧ t.tmb.voids = oneMore s.tmb.voids ∧ t.tmb.since = now
        ∧ t.mem = s.mem)
    ∧ (∀ tests : List RowTest, s.tmb.cleanup = true → (∀ p, ∀ x ∈ (s.cell p).erred, ∃ y ∈ tests, y.p = p ∧ (y.tile, y.row) = x) →
        (∀ y ∈ tests, y.failing = []) →
        ∃ t, exec (.voidCleanupDone tests) s = .next t ∧ t.tmb.cleanup = false ∧ t.mem = s.mem ∧ (∀ p, (t.cell p).erred = [])
          ∧ (s.tmb.holdReq = false → t.tmb = { s.tmb with cleanup := false })
          ∧ (s.tmb.holdReq = true → t.tmb.hold = true))
    ∧ (∀ idx g, s.mspsOpen → s.gen? idx = some g → g.ckpt = true → g.drained = false → (s.ckpt.draining = true → s.ckpt.left ≠ 0) →
        let n := g.offN.toNat * 256
        let src := g.base (g.live && !g.frozen)
        let dst := s.ckpt.base.toNat + 0x41000 + g.piOff.toNat * 256
        let w := s.walked 0 (pageVas src n ++ pageVas dst n) (engineIni 0 4)
        let ps := (vasOf src n).filterMap fun a => match w.1.xlate 0 a false with | .pa p => some (p, 1) | _ => none
        w.2 = true → w.1.piecesReady ps = true →
        ((s.ckpt.draining = true → s.ckpt.left ≠ 1) →
          ∃ t, exec (.checkpointDrainDone idx .ok) s = .next t ∧ t.gen? idx = some { g with drained := true } ∧ t.ckpt.left = s.ckpt.left - 1
          ∧ (w.1.writeFails 0 dst n = true → t.ckpt.fail = true ∧ t.glob.irqSts.getLsbD 0 = true ∧ t.mem = s.mem)
          ∧ (w.1.writeFails 0 dst n = false → t.ckpt.fail = s.ckpt.fail
              ∧ t.mem = (w.1.vwriteAll 0 dst ((List.range n).map fun (i : Nat) => w.1.vbyte 0 (vaOf src i))).mem))
        ∧ (s.ckpt.draining = true → s.ckpt.left = 1 →
          let u := (w.1.took ps).drainCopy g src dst n
          let h := u.walked 0 (pageVas u.ckpt.base.toNat ckptLength) (engineIni 0 4)
          ∃ t, exec (.checkpointDrainDone idx .ok) s = .next t ∧ t.gen? idx = some { g with drained := true } ∧ t.ckpt.left = 0
          ∧ (h.2 = false → t.ckpt.draining = true ∧ t.mem = u.mem)
          ∧ (h.2 = true → t.ckpt.draining = false
              ∧ (t.ckpt.fail = true ↔ u.ckpt.fail = true ∨ h.1.writeFails 0 u.ckpt.base.toNat 128 = true)
              ∧ (t.ckpt.fail = true → t.mem = u.mem)
              ∧ (t.ckpt.fail = false → t.ckpt.done = true
                  ∧ t.mem = (h.1.writeCkpt u.ckptHead (match u.ckpt.rec0 with | some r => r.step | none => u.step.count)).mem)))
        ∧ (ps ≠ [] → s.voidable → ∃ t, exec (.checkpointDrainDone idx .uncorr) s = .next t ∧ t.voidedBy 0x01 ∧ t.mem = s.mem
            ∧ t.gen? idx ≠ some { g with drained := true }))

/-! ### Cells, fills, scrub -/

/-- A fill passes from WIPE to BIST with its tiles empty, from BIST to the identity check, from there to MAP where the words are those of
start-up, and its last stage maps the logical cell (R303), where it passes over a Jack without CANON under DETMODE (R278). A Jack that fails
a stage is retired and drained with a JACKFAIL Pennant, and the next spare in the order of R302 is taken; with none left a hold is asked
for and GEO_STATE tells DEGRADED (R305). A cell that is retired (here by its engine) leaves its logical cell, drains, and a fill of
that begins or is queued. A drained cell is wiped on its way to OFF and is OFF with that wipe; a cell that passes its wipe runs BIST, one
that passes BIST is READY, one that fails is retired and shut down (R397). One under repair runs BIST twice and with the words of start-up
becomes a spare without fences; one that fails stays retired with a REPAIRFAIL Pennant (R307). The scrub records a corrected word and lets
an uncorrectable one in a registered tensor's entry void the step and change nothing in an entry that holds none; a table read by a start
check voids it at any time, and service-core RAM stops the instance (R293, R403). What the scrub counts as live is the model's reading,
log entry 51. -/
def Obligations.CellStagesAndScrub : Prop :=
  ∀ (s : State), s.asleep = false →
    let pick (q : QuadNo) : Option PCell := (s.spares q).find? fun p => !s.glob.detmode || (s.cell p).canon
    let refills (t : State) (l : LCell) (q : QuadNo) : Prop :=
      (∀ p, pick q = some p → t.fills.cur = some ⟨l, q, p, (s.cell p).fillStage⟩ ∧ (t.cell p).filling = true)
      ∧ (pick q = none → t.fills = { cur := none, queue := [] } ∧ (t.tmb.holdReq = true ∨ t.tmb.hold = true)
          ∧ (s.glob.geo.get 0 ≠ 0 → (t.glob.geo.get 6).getLsbD 0 = t.degraded))
    (∀ f ids rows, s.fills.cur = some f → (s.cell f.p).down = false →
      (f.stage = 2 → (s.cell f.p).pwr = .wiping → ∃ t, exec (.fillStageDone true ids rows) s = .next t ∧ (t.cell f.p).pwr = .bist
        ∧ (∀ n x, (t.cell f.p).tile? n = some x → x = {}) ∧ t.fills = { s.fills with cur := some { f with stage := 3 } } ∧ t.mem = s.mem)
      ∧ (f.stage = 3 → (s.cell f.p).pwr = .bist → (∀ r ∈ rows, r.p = f.p → r.failing = []) →
        ∃ t, exec (.fillStageDone true ids rows) s = .next t ∧ (t.cell f.p).pwr = .ready
          ∧ t.fills = { s.fills with cur := some { f with stage := 4 } } ∧ t.mem = s.mem)
      ∧ (f.stage = 5 → ∃ t, exec (.fillStageDone true ids rows) s = .next t ∧ t.mem = s.mem
        ∧ (s.glob.detmode = false ∨ (s.cell f.p).canon = true → (t.cell f.p).logical = some f.logical)
        ∧ (s.glob.detmode = true → (s.cell f.p).canon = false → (t.cell f.p).logical = (s.cell f.p).logical ∧ (t.cell f.p).filling = false))
      ∧ (f.stage = 4 → s.idsGood f.p ids = true →
        ∃ t, exec (.fillStageDone true ids rows) s = .next t ∧ t.fills = { s.fills with cur := some { f with stage := 5 } } ∧ t.mem = s.mem)
      ∧ (∀ pass, (f.stage = 4 ∧ (pass && s.idsGood f.p ids) = false)
            ∨ (pass = false ∧ (f.stage = 1 ∨ (f.stage = 2 ∧ (s.cell f.p).pwr = .wiping) ∨ (f.stage = 3 ∧ (s.cell f.p).pwr = .bist) ∨ f.stage = 5)) →
          (s.cell f.p).spare = false →
        ∃ t, exec (.fillStageDone pass ids rows) s = .next t ∧ (t.cell f.p).retired = true ∧ (t.cell f.p).filling = false ∧ t.mem = s.mem
          ∧ ((s.cell f.p).pwr ≠ .off → (t.cell f.p).pwr = .draining) ∧ t.glob.irqSts.getLsbD 0 = true ∧ refills t f.logical f.home))
    ∧ (∀ e, (s.cell e.p).retired = false → (∀ f, s.fills.cur = some f → f.p ≠ e.p) →
      ∃ t, exec (.epErrReport e 3) s = .next t ∧ (t.cell e.p).retired = true ∧ (t.cell e.p).logical = none ∧ (t.cell e.p).spare = false
        ∧ ((s.cell e.p).pwr ≠ .off → (s.cell e.p).down = false → (t.cell e.p).pwr = .draining ∧ (t.cell e.p).down = true)
        ∧ (∀ l, (s.cell e.p).logical = some l →
            (s.fills.cur = none → s.fills.queue = [] → (s.cell e.p).spare = false → refills t l (quadOf e.p))
            ∧ (s.fills.cur.isSome = true → t.fills = { s.fills with queue := s.fills.queue ++ [(l, quadOf e.p)] })))
    ∧ (∀ p ids rows, (s.cell p).filling = false → s.pins.ready = true →
      ((s.cell p).pwr = .draining → s.drained p = true → ∃ t, exec (.cellPowerStageDone p true ids rows) s = .next t ∧ (t.cell p).pwr = .wiping
        ∧ (t.cell p).down = true ∧ t.mem = s.mem)
      ∧ ((s.cell p).pwr = .wiping → (s.cell p).down = false → (s.cell p).toTest = false → ∃ t, exec (.cellPowerStageDone p true ids rows) s = .next t ∧ (t.cell p).pwr = .bist
        ∧ (∀ n x, (t.cell p).tile? n = some x → x = {}) ∧ t.mem = s.mem)
      ∧ ((s.cell p).pwr = .bist → (∀ r ∈ rows, r.p = p → r.failing = []) → (s.cell p).again = false →
        ∃ t, exec (.cellPowerStageDone p true ids rows) s = .next t ∧ t.mem = s.mem ∧ (∀ n, (t.cell p).tile? n = (s.cell p).tile? n)
          ∧ ((s.cell p).repairing = false → (t.cell p).pwr = .ready) ∧ ((s.cell p).repairing = true → (t.cell p).pwr = .bist ∧ (t.cell p).again = true))
      ∧ ((s.cell p).pwr = .bist → (s.cell p).again = true → (∀ r ∈ rows, r.p ≠ p) → s.idsGood p ids = true →
        ∃ t, exec (.cellPowerStageDone p true ids rows) s = .next t ∧ (t.cell p).pwr = .ready ∧ (t.cell p).spare = true ∧ (t.cell p).retired = false
          ∧ (t.port ⟨p, false⟩).fenced = false ∧ (t.port ⟨p, true⟩).fenced = false ∧ t.mem = s.mem)
      ∧ ((s.cell p).pwr = .wiping → (s.cell p).down = true → ∃ t, exec (.cellPowerStageDone p true ids rows) s = .next t ∧ (t.cell p).pwr = .off
        ∧ (t.cell p).down = false ∧ (∀ n x, (t.cell p).tile? n = some x → x = {}) ∧ t.mem = s.mem)
      ∧ (∀ pass, (s.cell p).toTest = false → (s.cell p).down = false →
          (pass = false ∧ ((s.cell p).pwr = .wiping ∨ (s.cell p).pwr = .bist))
            ∨ ((s.cell p).pwr = .bist ∧ (s.cell p).again = true ∧ ((∃ r ∈ rows, r.p = p) ∨ s.idsGood p ids = false)) →
        ∃ t, exec (.cellPowerStageDone p pass ids rows) s = .next t ∧ (t.cell p).pwr = .draining ∧ (t.cell p).down = true ∧ t.mem = s.mem
          ∧ t.glob.irqSts.getLsbD 0 = true ∧ ((s.cell p).repairing = true → (t.cell p).repairing = false ∧ (t.cell p).retired = (s.cell p).retired)
          ∧ ((s.cell p).repairing = false → (t.cell p).retired = true ∧ (t.cell p).spare = false)))
    ∧ (∀ w, (s.pins.life = .service ∨ patrolled w = false) →
      (∃ t, exec (.patrolScrub w .corrected) s = .next t ∧ CellFrame s t ∧ t.glob.irqSts.getLsbD 1 = true)
      ∧ ∃ t, exec (.patrolScrub w .uncorr) s = .next t ∧ t.mem = s.mem
          ∧ (∀ i, w = .gen i → (s.gen? i).isSome = true → s.voidable → t.voidedBy 0x01)
          ∧ (∀ i, w = .gen i → s.gen? i = none → CellFrame s t)
          ∧ (∀ i, w = .claims i → s.voidable → t.voidedBy 0x01)
          ∧ (∀ i, w = .service i → s.pins.fwStop = false → t.pins.fatal = true ∧ t.pins.fwStop = true ∧ t.glob.irqSts.getLsbD 4 = true))

/-! ### The error log -/

/-- The recorder writes the next report into the slot that PNT_HEAD names and advances PNT_HEAD (R333, R334), or adds it to the table in
coalescing mode (R335); in a flush the ring stands, a report goes to the table until that is written, and is lost afterwards (R342). A
drain writes the first entry of the table into the ring and frees it, leaves coalescing mode with the last one, and pauses for a crowded
intake (R336) and where the ring has no room for the entry, at 960 unread, or 1,024 for a fatal one (R334, R344); a fatal report that waits goes into the ring before it (R335, R344). PRERESET_N falling with flushing enabled begins the image and keeps its header's values; each turn of the recorder
writes one line of it to its stack, and nothing else changes in memory; rising, it ends the image and lets the recorder resume (R342,
R343). One line a turn is the model's grain, log entry 48. -/
def Obligations.LogRecordsAndFlushes : Prop :=
  ∀ (s : State), s.recorderOn = true →
    (∀ r l, s.log.intakes.any Intake.crowded = false → s.log.draining = false → s.log.next = some (r, l) →
      (s.log.flush = none → s.log.coal = false → s.log.unread < 960 → ∃ t, exec .pennantRecordWrite s = .next t ∧ t.log.head = s.log.head + 1
        ∧ t.log.ring.find? (fun x => x.1 = s.log.head.toNat % 1024) = some (s.log.head.toNat % 1024, s.record r false false) ∧ t.log.intakes = l.intakes
        ∧ t.mem = s.mem)
      ∧ (s.log.flush = none → s.log.coal = true → r.sev.fatal = false → (∀ x ∈ s.log.table, x.same r = false) → s.log.table.length < 256 →
        ∃ t, exec .pennantRecordWrite s = .next t ∧ t.log.head = s.log.head ∧ t.log.ring = s.log.ring ∧ t.log.table = s.log.table ++ [r]
          ∧ t.log.intakes = l.intakes ∧ t.mem = s.mem)
      ∧ (∀ f, s.log.flush = some f → ∃ t, exec .pennantRecordWrite s = .next t ∧ t.log.head = s.log.head ∧ t.log.ring = s.log.ring
        ∧ t.log.intakes = l.intakes
        ∧ (f.line + 1 < flushLines → (∀ x ∈ s.log.table, x.same r = false) → s.log.table.length < 256 → t.log.table = s.log.table ++ [r])
        ∧ (flushLines ≤ f.line + 1 → t.log.table = s.log.table ∧ t.log.lost.toNat = satTo 0xFFFFFFFF (s.log.lost.toNat + r.reports))))
    ∧ (∀ f, s.log.flush = some f → f.line < flushLines → s.log.next = none → s.log.draining = false → s.log.intakes.any Intake.crowded = false →
      let n := s.log.flushBase.toNat / 256 + f.line
      let bs := s.flushLine f
      (s.issueTxn n true 15).isSome = true → s.Inv →
      ∃ t, exec .pennantRecordWrite s = .next t ∧ t.log.flush = some { f with line := f.line + 1 } ∧ t.mem.readBytes (256 * n) bs.length = bs
        ∧ ∀ a, a < 256 * n ∨ 256 * n + bs.length ≤ a → t.mem.read a = s.mem.read a)
    ∧ (∀ r l, s.log.draining = true → s.log.intakes.any Intake.crowded = false → s.log.takeFatal = some (r, l) →
      ∃ t, exec .pennantRecordWrite s = .next t ∧ t.log.head = s.log.head + 1 ∧ t.log.table = s.log.table ∧ t.log.intakes = l.intakes ∧ t.mem = s.mem
        ∧ t.log.ring.find? (fun x => x.1 = s.log.head.toNat % 1024)
            = some (s.log.head.toNat % 1024, s.record r false (decide (960 ≤ s.log.unread))))
    ∧ (∀ r l, s.log.coal = true → s.log.flush = none → s.log.takeFatal = some (r, l) →
      ∃ t, exec .coalesceDrain s = .next t ∧ t.log.head = s.log.head + 1 ∧ t.log.table = s.log.table ∧ t.log.coal = true ∧ t.log.intakes = l.intakes
        ∧ t.mem = s.mem ∧ t.log.ring.find? (fun x => x.1 = s.log.head.toNat % 1024)
            = some (s.log.head.toNat % 1024, s.record r false (decide (960 ≤ s.log.unread))))
    ∧ (s.log.coal = true → s.log.flush = none → s.log.takeFatal = none →
      (s.log.intakes.any Intake.crowded = true → exec .coalesceDrain s = .next { s with log := { s.log with draining := false } })
      ∧ (s.log.intakes.any Intake.crowded = false → s.log.draining = true ∨ s.log.mayLeave = true →
        (s.log.table = [] → ∃ t, exec .coalesceDrain s = .next t ∧ t.log.coal = false ∧ t.log.head = s.log.head ∧ t.mem = s.mem)
        ∧ (∀ r rest, s.log.table.foldr insertReport [] = r :: rest → (if r.sev.fatal then 1024 else 960) ≤ s.log.unread →
            exec .coalesceDrain s = .next { s with log := { s.log with draining := false } })
        ∧ (∀ r rest, s.log.table.foldr insertReport [] = r :: rest → s.log.unread < (if r.sev.fatal then 1024 else 960) → ∃ t, exec .coalesceDrain s = .next t ∧ t.log.table = rest
            ∧ t.log.coal = !rest.isEmpty ∧ t.log.head = s.log.head + 1 ∧ t.mem = s.mem
            ∧ t.log.ring.find? (fun x => x.1 = s.log.head.toNat % 1024)
                = some (s.log.head.toNat % 1024, s.record r true (decide (960 ≤ s.log.unread))))))
    ∧ (s.pins.preRstN = true → s.asleep = false → s.log.flushEn = true → s.log.flushBase ≠ 0 →
      ∃ t, exec .preresetFall s = .next t ∧ t.pins.preRstN = false ∧ t.log.coal = true ∧ t.log.ring = s.log.ring ∧ t.mem = s.mem
        ∧ t.log.flush = some ⟨s.clk.gtc, s.log.head, s.log.tail, s.log.lost, s.step.count.setWidth 32, 0⟩)
    ∧ (s.log.flushEn = false → exec .preresetFall s = .next { s with pins := { s.pins with preRstN := false } })
    ∧ exec .preresetRise s = .next { s with pins := { s.pins with preRstN := true }, log := { s.log with flush := none } }

/-! ### Reset and start-up -/

/-- Reset (R400-R402, R29, R346-R348, R73): released, the instance takes its straps and wipes itself; a clock tree that fails its checks holds
it in that wipe, which then does not end. Asserted, every register of the instance returns to its reset value, whatever group it is in, but for
the straps that a release takes, serial number, life cycle and PRERESET_N; memory not in flight stays, and so do the model's own queue, outputs
and counter of free values (log entry 1). The end of the wipe, once Orlith's own clients hold their grants, starts GTC at 0, asks every stack for its
identity and leaves every working cell to be tested; one that fails on other files stops the instance there. The boot ROM appends chunks and
answers; an image that fails verification leaves BOOT_ERR, one that passes runs with its NUMREV. The TAP holds an instruction that the life cycle
allows; one that it does not allow leaves the one in force (PRESUMED, log entry 14), and IDCODE shifts out a value of its own (log entry 22).
Reset values are those of log entries 1 to 3 where the manual gives none; bytes in flight and the signature are free values, log entries 32 and 24. -/
def Obligations.ResetAndStartUp : Prop :=
  ∀ (s : State),
    (∀ r, s.pins.rstN = false → ∃ t, exec (.resetRelease r) s = .next t ∧ t.pins.rstN = true ∧ t.pins.wiping = true ∧ t.pins.instanceId = r.id
      ∧ t.pins.gradeS = r.gradeS ∧ (∀ p, (t.cell p).pwr = .wiping) ∧ t.mem = s.mem
      ∧ (clockFault r = true → t.pins.fatal = true ∧ t.pins.held = true ∧ t.glob.irqSts.getLsbD 4 = true)
      ∧ (clockFault r = false → t.pins.fatal = s.pins.fatal ∧ t.glob = s.glob))
    ∧ (s.pins.rstN = true → ∃ t, exec .resetAssert s = .next t ∧ t.pins.rstN = false ∧ t.pins.serial = s.pins.serial ∧ t.pins.life = s.pins.life
      ∧ t.pins.preRstN = s.pins.preRstN
      ∧ t.pins = { State.reset.pins with stepping := s.pins.stepping, serial := s.pins.serial, life := s.pins.life, preRstN := s.pins.preRstN }
      ∧ t = { State.reset with pending := s.pending, outs := s.outs, mem := t.mem, free := t.free, pins := t.pins }
      ∧ (s.Inv → ∀ a, a ∉ s.staleAddrs true → t.mem.read a = s.mem.read a))
    ∧ (∀ bad other, s.pins.trans = false → s.cba.ownServed = false → exec (.instanceWipeDone bad other) s = .next s)
    ∧ (∀ bad other, s.pins.held = true → exec (.instanceWipeDone bad other) s = .next s)
    ∧ (∀ bad, s.pins.rstN = true → s.pins.wiping = true → s.pins.held = false → s.pins.trans = false → s.cba.ownServed = true →
      ∃ t, exec (.instanceWipeDone bad true) s = .next t ∧ t.pins.wiping = false ∧ t.pins.held = true ∧ t.pins.fatal = true
        ∧ t.glob.irqSts.getLsbD 4 = true ∧ t.clk = s.clk ∧ t.mem = s.mem)
    ∧ (s.pins.rstN = true → s.pins.wiping = true → s.pins.held = false → s.pins.trans = false → s.cba.ownServed = true →
      ∃ t, exec (.instanceWipeDone [] false) s = .next t ∧ t.pins.wiping = false ∧ t.clk.gtc = 0 ∧ t.clk.gtcOn = true
        ∧ (∀ m, m < 6 → .mspIdReq m 0 ∈ t.outs)
        ∧ ((∀ e, (s.port e).idOk = true) → ∀ p, (s.cell p).retired = false → (t.cell p).toTest = true ∧ (t.cell p).pwr = (s.cell p).pwr))
    ∧ (let m := s.mbs.get 0
       let off := bf m.req 0 32
       let len := bf m.req 32 16
       s.asleep = false → s.pins.boot = 1 → m.st ≠ .busy → off = s.pins.image.length → len ≠ 0 → len ≤ 224 → off + len ≤ imageMax →
       ∃ t, exec .bootImageChunk s = .next t ∧ t.pins.image = s.pins.image ++ (List.range len).map (fun i => rowByte m.req (32 + i)) ∧ t.mem = s.mem
         ∧ (bf m.req 48 1 = 1 → t.pins.boot = 2 ∧ (t.mbs.get 0).st = .busy)
         ∧ (bf m.req 48 1 ≠ 1 → t.pins.boot = 1 ∧ (t.mbs.get 0).st = .done ∧ t.glob.irqSts.getLsbD 8 = true))
    ∧ (s.asleep = false → s.pins.boot = 2 → ∃ t, exec .firmwareVerifyDone s = .next t ∧ (t.mbs.get 0).st = .done
      ∧ (imageError s.pins.image ≠ 0 → t.pins.boot = 0xF ∧ t.pins.bootErr = BitVec.ofNat 4 (imageError s.pins.image) ∧ t.pins.ready = s.pins.ready)
      ∧ (imageError s.pins.image = 0 → t.pins.boot = 4 ∧ t.glob.numrev = (s.pins.image[2]?).getD 0))
    ∧ (∀ i, ∃ t, exec (.tapInstruction i) s = .next t ∧ t = { s with tap := t.tap, outs := t.outs }
      ∧ (tapAllowed s.pins.life i = false → t = s)
      ∧ (tapAllowed s.pins.life i = true → t.tap = i ∧ t.outs = s.outs ++ (if i = .idcode then [.tdo Config.idcode] else [])))

/-! ### Package and clock -/

/-- The package (R366-R376, R294, R299): a port whose directions have trained sends its identity word four times, and is UP with its peer's
number where the peer's words agree; any other is DOWN, and so is one that is late; with no link UP an instance settles as a package of
one and its own master, with other instances in reach as one of the joined set or, coming late, as one that has not joined; the master's
word brings PRESENT to a settled instance and its GTC to the one that joins; a word of another instance is kept, with what it says of CANON; a
late instance is admitted once it may join, and waits until then; a trigger of a present instance voids the step, or leads to a hold. That
an instance comes late by a settlement that says so, and takes PRESENT and the master's GTC from a second one, is the model's reading, log
entries 46 and 76; what its own page shows until then is log entry 95. CANON of the other instances has no field in the word of R368: that it
comes beside a word and with the master's settlement is the model's choice, log entry 6. -/
def Obligations.PackageForms : Prop :=
  ∀ (s : State),
    (∀ w rev both w0 w1 w2 w3, s.asleep = false → s.pins.fatal = false → s.pins.life ≠ .blank → (s.pkg.wq.get w).st = .training →
      ∃ t, exec (.wiquinTraining w rev both w0 w1 w2 w3) s = .next t ∧ t.mem = s.mem ∧ t.cells = s.cells
        ∧ t.outs = s.outs ++ (if both then List.replicate 4 (.wiquin (some w) 0 (s.identityWord w.val)) else [])
        ∧ (both = true → w0 = w1 → w1 = w2 → w2 = w3 → (t.pkg.wq.get w).st = .up ∧ (t.pkg.wq.get w).peerId = wordId w0
            ∧ (t.pkg.wq.get w).peerPort = wordPort w0 ∧ (t.pkg.wq.get w).reversed = rev
            ∧ (t.pkg.wq.get w).leader = decide (s.pins.instanceId.toNat < (wordId w0).toNat))
        ∧ (both = false ∨ w0 ≠ w1 ∨ w1 ≠ w2 ∨ w2 ≠ w3 → (t.pkg.wq.get w).st = .down))
    ∧ (∀ w, (s.pkg.wq.get w).st = .training → ∃ t, exec (.wiquinTrainTimeout w) s = .next t ∧ (t.pkg.wq.get w).st = .down ∧ t.mem = s.mem)
    ∧ (∀ words reach gtc canon late, s.asleep = false → s.pins.fatal = false → (∀ m, (s.msps.get m).idDone = true) →
      (∀ w, (s.pkg.wq.get w).st ≠ .training) → ∃ t, exec (.masterSettlement words reach gtc canon late) s = .next t ∧ t.mem = s.mem
        ∧ (s.pkg.settled = false → s.anyWqUp = false →
            t.pkg.settled = true ∧ t.pkg.master = s.pins.instanceId ∧ t.pkg.present = 1 <<< s.pins.instanceId.toNat ∧ t.isMaster = true
            ∧ (s.pins.boot = 0 → t.pins.boot = 1) ∧ t.clk = s.clk ∧ t.cells = s.cells)
        ∧ (s.pkg.settled = false → s.anyWqUp = true → reach.getLsbD s.pins.instanceId.toNat = true → (∀ w ∈ words, wordId w ≠ s.pins.instanceId) →
            (∃ w ∈ words, reach.getLsbD (wordId w).toNat = true) →
            t.pkg.settled = true ∧ (late = true → t.pkg.present = 0) ∧ (late = false → t.pkg.present.getLsbD s.pins.instanceId.toNat = true)
            ∧ (s.pins.boot = 0 → t.pins.boot = 1) ∧ t.cells = s.cells)
        ∧ (s.pkg.settled = true → s.isMaster = false → reach.getLsbD s.pkg.master.toNat = true →
            t.pkg.present = reach ∧ t.pkg.canon = canon ∧ t.cells = s.cells
            ∧ (reach.getLsbD s.pins.instanceId.toNat = true → s.pkg.present.getLsbD s.pins.instanceId.toNat = false → t.clk.gtc = gtc)))
    ∧ (∀ word canon, s.asleep = false → wordId word ≠ s.pins.instanceId → ∃ t, exec (.peerIdentityWord word canon) s = .next t
        ∧ t.pkg.words[(wordId word).toNat]? = some (some word) ∧ t.pkg.canon.getLsbD (wordId word).toNat = canon ∧ t.mem = s.mem)
    ∧ (∀ id, s.asleep = false → s.pins.fatal = false → s.isMaster = true → s.pkg.present.getLsbD id.toNat = false → id ∉ s.pkg.late →
      ∃ t, exec (.lateJoinRequest id) s = .next t ∧ t.mem = s.mem
        ∧ (s.mayAdmit id = true → t.pkg.present.getLsbD id.toNat = true ∧ id ∉ t.pkg.late)
        ∧ (s.mayAdmit id = false → id ∈ t.pkg.late))
    ∧ (∀ id cause hold nb, s.asleep = false → s.pins.fatal = false → s.pkg.present.getLsbD id.toNat = true → s.voidable →
      ∃ t, exec (.voidReportToMaster id cause hold nb) s = .next t ∧ t.mem = s.mem
        ∧ (hold = .no → cause ≠ 0x03 → t.voidedBy cause) ∧ (hold ≠ .no ∨ cause = 0x03 → t.tmb.hold = true ∨ t.tmb.holdReq = true)
        ∧ (hold = .fatal → t.job.hbOn = false))

/-- The tick's discipline (R377, R379-R381): on the master a pulse is a sample, and from a time source a message goes out; without a pulse
for 4 × 2^20 ticks a follower holds over and corrects nothing; on another instance a timing flit sets PKG_SKEW and the correction, or
after a load of the master's GTC loads it, and brings GTC_LAUNCH and CL_ERR, which travel with it by log entry 45.
The operand `now` is read as log entry 5 says. -/
def Obligations.ClockFollowsPulses : Prop :=
  ∀ (now : Tick) (s : State), s.asleep = false →
    (s.isMaster = true → s.clk.gtc.toNat ≤ now.toNat →
      (∃ t, exec (.gtcSyncPulse now) s = .next t ∧ t.clk.samples = (now :: s.clk.samples).take 64 ∧ t.clk.lastPulse = now ∧ t.clk.gtc = now
        ∧ (s.clk.source = true → s.clk.en = true → s.net.xsps.all (·.fenced) = false → t.outs.length = (s.atTick now).outs.length + 1)
        ∧ (s.clk.source = false ∨ s.clk.en = false → t.outs = (s.atTick now).outs))
      ∧ (s.clk.follows = true → s.clk.lastPulse.toNat + 4 * 2 ^ 20 ≤ now.toNat → ∃ t, exec (.syncHoldover now) s = .next t
        ∧ t.clk.skew = .holdover ∧ t.clk.slew = 0 ∧ t.clk.gtc = now ∧ t = { s with clk := t.clk, outs := (s.atTick now).outs }))
    ∧ (∀ launch clErr load, s.pkg.settled = true → s.isMaster = false →
      ∃ t, exec (.timingFlit now launch clErr load) s = .next t ∧ t = { s with clk := t.clk } ∧ t.clk.launch = launch ∧ t.clk.clErr = clErr
        ∧ (launch ≠ s.clk.launch → t.clk.armed = decide (s.clk.gtc.toNat < launch.toNat)) ∧ (launch = s.clk.launch → t.clk.armed = s.clk.armed)
        ∧ (load = false → t.clk.gtc = s.clk.gtc ∧ t.clk.pkgSkew = satSigned 8 (tickDiff s.clk.gtc now) ∧ t.clk.slew = -(tickDiff s.clk.gtc now))
        ∧ (load = true → t.clk.gtc = now ∧ t.clk.pkgSkew = 0 ∧ t.clk.slew = 0))

/-! ### Mailboxes and the control bus -/

/-- Mailboxes (R349, R350): RING takes the request of a mailbox that is not BUSY and counts a ring of one that is; ACK discards a
presented response; a response is presented once what it waits for has come, that of a package command which an instance has become
unreachable to, while it ran or as it ends, as ABORTED with its number (R353, R354, R364); a word of the request buffer is written unless the
mailbox is BUSY. -/
def Obligations.MailboxProtocol : Prop :=
  ∀ (n : Fin 8) (s : State), s.busOn →
    (¬ (n = 0 ∧ s.pins.boot = 1) →
      ((s.mbs.get n).st ≠ .busy → ∃ t, exec (.mbRing n) s = .next t ∧ (t.mbs.get n).st = .busy ∧ (t.mbs.get n).cur = some { req := (s.mbs.get n).req }
        ∧ t.fwOrder = s.fwOrder ++ [n.val] ∧ t.outs = s.outs ++ [.cb 0 false] ∧ (∀ m, m ≠ n → t.mbs.get m = s.mbs.get m))
      ∧ ((s.mbs.get n).st = .busy → ∃ t, exec (.mbRing n) s = .next t
        ∧ t.mbs.get n = { s.mbs.get n with dropped := BitVec.ofNat 8 (satTo 0xFF ((s.mbs.get n).dropped.toNat + 1)) } ∧ t.fwOrder = s.fwOrder))
    ∧ ((s.mbs.get n).st = .done → ∃ t, exec (.mbAck n) s = .next t ∧ t.mbs.get n = { s.mbs.get n with st := .idle, rsp := 0, cur := none }
        ∧ t = { s with mbs := t.mbs, outs := s.outs ++ [.cb 0 false] })
    ∧ (∀ r x lost, s.firmwareRuns = true → (s.mbs.get n).cur = some r → r.resp = some x → s.waitOver r.wait = true →
        ∃ t, exec (.mbResponse n lost) s = .next t ∧ (t.mbs.get n).st = .done ∧ (t.mbs.get n).dropped = 0
          ∧ t.glob.irqSts.getLsbD (8 + n.val) = true ∧ n.val ∉ t.fwOrder
          ∧ (r.lost = none → lost = none → reqOp r.req ≠ 0x0001 → (t.mbs.get n).rsp = rspBits r.req x)
          ∧ (∀ i k, (r.lost = some i ∨ (r.lost = none ∧ lost = some i ∧ s.others.contains i.toNat = true)) → cmdRow (reqOp r.req) = some k →
              (k.pkg = true → x.result = resOk → (t.mbs.get n).rsp = rspBits r.req (answer resAborted i.toNat))
              ∧ (k.pkg = false ∨ x.result ≠ resOk → (t.mbs.get n).rsp = rspBits r.req x)))
    ∧ (∀ k v, ((s.mbs.get n).st ≠ .busy → ∃ t, exec (.mbRequestWrite n k v) s = .next t ∧ wordOf (t.mbs.get n).req k.toNat = v
          ∧ (∀ j : BitVec 6, j ≠ k → wordOf (t.mbs.get n).req j.toNat = wordOf (s.mbs.get n).req j.toNat) ∧ (t.mbs.get n).st = (s.mbs.get n).st)
        ∧ ((s.mbs.get n).st = .busy → ∃ t, exec (.mbRequestWrite n k v) s = .next t ∧ t.mbs = s.mbs ∧ t.outs = s.outs ++ [.cb 0 true]))

/-- A response (R352): OPCODE and SEQ as requested, VERSION 0x01, a zero byte, LENGTH, RESULT and DETAIL at their bytes, then the
payload; the GTC in that of an INFO is the one at the writing (R357). -/
def Obligations.ResponseHasItsFields : Prop :=
  ∀ (n : Fin 8) (lost : Option (BitVec 3)) (s : State) (r : MReq) (x0 : Resp), s.firmwareRuns = true → (s.mbs.get n).cur = some r →
    r.resp = some x0 → s.waitOver r.wait = true →
    ∃ t, exec (.mbResponse n lost) s = .next t ∧
      let b := (t.mbs.get n).rsp
      let x := s.lastWord r.req x0 (s.lostOf r lost)
      (s.lostOf r lost = none → reqOp r.req = 0x0001 → x0.result = resOk → x.payload = x0.payload.take 8 ++ bytesOf 8 s.clk.gtc.toNat) ∧
      b.extractLsb' 0 16 = r.req.extractLsb' 0 16 ∧ b.extractLsb' 16 8 = 0x01#8 ∧ b.extractLsb' 24 8 = 0x00#8 ∧ b.extractLsb' 32 32 = r.req.extractLsb' 32 32
      ∧ b.extractLsb' 64 16 = BitVec.ofNat 16 x.payload.length ∧ b.extractLsb' 80 16 = x.result ∧ b.extractLsb' 96 32 = x.detail
      ∧ ∀ i y, i < 240 → x.payload[i]? = some y → b.extractLsb' (128 + 8 * i) 8 = y

/-- The host reads the configuration of a tile (R81, R82): the read of TF_TCFG_LO answers its fields and latches TF_TCFG_HI with its
own; reserved bits are 0, and a tile that is not configured reads as zero, as every tile does in reset. -/
def Obligations.TileConfigurationReads : Prop :=
  (∀ (p : PCell) (n : Fin 24) (s : State), s.busOn → (s.cell p).pwr.answers = true →
    let off : BitVec 24 := BitVec.ofNat 24 (0x100100 + 0x2000 * p.val + 8 * n.val)
    let x := (s.cell p).tiles.get n
    ∃ t lo hi, exec (.pairLoReadLatch off) s = .next t ∧ t.outs = s.outs ++ [.cb lo false]
      ∧ t.glob.latches.find? (fun y => y.1 = off.toNat) = some (off.toNat, hi)
      ∧ lo.getLsbD 31 = x.cfg.isSome ∧ lo.extractLsb' 25 6 = 0#6 ∧ lo.extractLsb' 21 3 = 0#3 ∧ lo.extractLsb' 11 5 = 0#5 ∧ lo.getLsbD 7 = false
      ∧ (∀ c, x.cfg = some c → lo.getLsbD 24 = c.layout ∧ lo.extractLsb' 16 5 = c.fmt ∧ lo.extractLsb' 8 3 = c.rb ∧ lo.extractLsb' 0 7 = c.rm1)
      ∧ (x.cfg = none → lo = 0)
      ∧ hi.getLsbD 31 = s.busyW p (BitVec.ofNat 5 n.val) ∧ hi.getLsbD 30 = s.busyR p (BitVec.ofNat 5 n.val) ∧ hi.extractLsb' 24 6 = 0#6
      ∧ hi.extractLsb' 16 8 = BitVec.ofNat 8 x.valid ∧ hi.extractLsb' 0 16 = 0#16)
  ∧ ∀ (p : PCell) (n : Fin 24), ((State.reset.cell p).tiles.get n).cfg = none ∧ tcfgHi State.reset p n = 0

/-- Host writes (R12-R16, R98, R181, R283, R341, R361, R363, R420, R422): a word of a descriptor unless its route is active or a kick of it
has been taken; GTC_LAUNCH, armed when ahead, where a launch that has come keeps its tick; W1C of ORL_IRQ_STS; ORL_IRQ_EN; W1C of TF_FAULT, of one
cell or of every mapped one; a partial write draws DECERR, and so does one of whole words at an offset that R361 does not list. That a launch
for the present tick counts as passed is the model's reading, log entry 50; that a write to a read-only register of a cell that is OFF, WIPING
or BIST draws DECERR too, where R70 drops writes to such a cell with OK, is its choice, log entry 86. -/
def Obligations.HostWritesAct : Prop :=
  ∀ (v : Word) (s : State), s.busOn →
    (∀ route k, (s.routeTaken route = false → ∃ t, exec (.routeWindowWrite route k v) s = .next t ∧ wordOf (t.desc route) k.toNat = v
          ∧ (∀ j : BitVec 5, j ≠ k → wordOf (t.desc route) j.toNat = wordOf (s.desc route) j.toNat) ∧ (∀ x, x ≠ route → t.desc x = s.desc x)
          ∧ t.outs = s.outs ++ [.cb 0 false])
        ∧ (s.routeTaken route = true → ∃ t, exec (.routeWindowWrite route k v) s = .next t ∧ t.rt = s.rt ∧ t.outs = s.outs ++ [.cb 0 true]))
    ∧ (s.isMaster = true → ∃ t, exec (.gtcLaunchHiWrite v) s = .next t ∧ t.clk = { s.clk.setLaunch with launch := v ++ s.clk.launchLo, armed := decide (s.clk.gtc.toNat < (v ++ s.clk.launchLo).toNat) }
        ∧ t.mem = s.mem ∧ t.cells = s.cells)
    ∧ exec (.irqStsW1c v) s = .next { s with glob := { s.glob with irqSts := s.glob.irqSts &&& ~~~(v.setWidth 16) }, outs := s.outs ++ [.cb 0 false] }
    ∧ exec (.irqEnWrite v) s = .next { s with glob := { s.glob with irqEn := v.setWidth 16 }, outs := s.outs ++ [.cb 0 false] }
    ∧ (∀ p, (s.cell p).pwr.answers = true → ∃ t, exec (.tfFaultClear p v) s = .next t ∧ (∀ q, q ≠ p → t.cell q = s.cell q)
        ∧ (v.getLsbD 31 = true → t.cell p = { s.cell p with tfFault := 0 })
        ∧ (v.getLsbD 31 = false → v.getLsbD 30 = true → t.cell p = { s.cell p with tfFault := (s.cell p).tfFault &&& ~~~0x40000000 })
        ∧ (v.getLsbD 31 = false → v.getLsbD 30 = false → t.cell p = s.cell p))
    ∧ (∃ t, exec (.buntingWrite 0x400018 0xF v) s = .next t ∧ t.outs = s.outs ++ [.cb 0 false]
        ∧ (v.getLsbD 31 = true → ∀ p l, s.physOf l = some p → (s.cell p).pwr.answers = true → (t.cell p).tfFault = 0))
    ∧ (∃ t, exec (.registerWrite 0x24 0xF v) s = .next t ∧ t.glob.irqEn = v.setWidth 16)
    ∧ (∀ off be, be ≠ 0xF → ∃ t, exec (.registerWrite off be v) s = .next t ∧ t.outs = s.outs ++ [.cb 0 true] ∧ t.glob.irqSts.getLsbD 0 = true
        ∧ t.mem = s.mem ∧ t.cells = s.cells ∧ t.rt = s.rt ∧ t.mbs = s.mbs)
    ∧ (∀ off, off.toNat % 4 = 0 → hostWritable off.toNat = false → ∃ t, exec (.registerWrite off 0xF v) s = .next t ∧ t.outs = s.outs ++ [.cb 0 true]
        ∧ t.glob.irqSts.getLsbD 0 = true ∧ t.mem = s.mem ∧ t.cells = s.cells ∧ t.rt = s.rt ∧ t.mbs = s.mbs ∧ t.clk = s.clk)

/-- Host reads (R14-R16, R363, R418, R419): the lower half of a pair answers its value and latches the upper, whose read returns the latch and
ends it; a Bunting read answers the OR over the mapped cells; a read that names no register, or not whole words, answers DECERR with an
INFO Pennant. Reads change nothing else. -/
def Obligations.HostReadsAnswer : Prop :=
  ∀ (off : BitVec 24) (s : State), s.busOn →
    (∀ v, off.toNat % 4 = 0 → isPairLo off.toNat = true → s.regRead off.toNat = some v → ∃ t, exec (.pairLoReadLatch off) s = .next t
      ∧ t.outs = s.outs ++ [.cb v false] ∧ t.glob.latches.find? (fun x => x.1 = off.toNat) = some (off.toNat, (s.regRead (off.toNat + 4)).getD 0)
      ∧ t = { s with outs := t.outs, glob := { s.glob with latches := t.glob.latches } })
    ∧ (∀ v w, off.toNat % 4 = 0 → 4 ≤ off.toNat → isPairLo (off.toNat - 4) = true → isPairLo off.toNat = false → s.regRead off.toNat = some v →
      s.glob.latches.find? (fun x => x.1 = off.toNat - 4) = some (off.toNat - 4, w) → ∃ t, exec (.pairHiRead off) s = .next t
        ∧ t.outs = s.outs ++ [.cb w false] ∧ (∀ x ∈ t.glob.latches, x.1 ≠ off.toNat - 4)
        ∧ t = { s with outs := t.outs, glob := { s.glob with latches := t.glob.latches } })
    ∧ (∀ cells c, off.toNat % 4 = 0 → s.buntAt off.toNat = some (cells, c) → (cellReg s 0 c).isSome = true →
      exec (.buntingRead off) s = .next { s with outs := s.outs ++ [.cb (s.buntOr cells c) false] })
    ∧ (∀ be, be ≠ 0xF ∨ off.toNat % 4 ≠ 0 ∨ s.regRead off.toNat = none → ∃ t, exec (.hostReadDecerr off be) s = .next t
      ∧ t.outs = s.outs ++ [.cb 0 true] ∧ t.glob.irqSts.getLsbD 0 = true ∧ CellFrame s t ∧ t.cells = s.cells)

/-! ### Trisia commands -/

/-- A request that one of the common refusals of R351 and R353-R355 meets has that refusal as its response, whatever its command, and
memory is as it was (the order of the refusals is the model's, log entry 34); an opcode that R357 does not list, under a good header,
answers BADOP (R353, R357) and nothing but the mailbox changes. -/
def Obligations.RefusedRequestAnswers : Prop :=
  (∀ (n : Fin 8) (ecc : Ecc) (rows : List RowEcc) (b c : Bool) (w : Word) (req : Req) (r : Resp) (s : State) (x : Nat × Instr),
      x ∈ trisiaCommands n ecc rows b c w →
      s.taken n x.1 req → s.refusal n req = some r →
      ∃ t, exec x.2 s = .next t ∧ t.answered n req r ∧ t.mem = s.mem)
  ∧ (∀ (n : Fin 8) (req : Req) (s : State), s.taken n (reqOp req) req → headerBad req = false → cmdRow (reqOp req) = none →
      ∃ t, exec (.reservedTrisiaOpcode n) s = .next t ∧ t.answered n req (answer resBadop) ∧ t = { s with mbs := t.mbs })

/-- Queries (R357): INFO, IDENT_READ of an engine, CELLMAP_READ, STEPREC_READ of one record, STASHDIR_READ and GENTAB_READ of one entry
answer what they read and change nothing else, where the GTC of an INFO comes with its response and the master passes a command of scope P on
(R354); MEM_READ answers the bytes once their lines are there, and an uncorrectable error answers
FAULT and voids the step (R34); MEM_WRITE writes its bytes and no other. The firmware build is a free value, log entry 23. -/
def Obligations.QueriesAnswer : Prop :=
  ∀ (n : Fin 8) (req : Req) (s : State),
    let gives (i : Instr) (r : Resp) : Prop := ∃ t, exec i s = .next t ∧ t.answered n req r
      ∧ t = { s with mbs := t.mbs, outs := s.outs ++ s.shares req r }
    (s.begins n 0x0001 req → gives (.info n) (answerBytes (bytesOf 2 s.dclass.toNat ++ [s.pins.instanceId.setWidth 8, BitVec.ofNat 8 s.isMaster.toNat]
        ++ bytesOf 4 (Config.fwBuild s.pins.image).toNat ++ List.replicate 8 0)))
    ∧ (∀ e : EPort, s.begins n 0x0002 req → pf req 0 1 = 1 → pf req 1 1 = e.p.val → pf req 2 1 = e.sep.toNat →
        gives (.identRead n) (answerBytes (bytesOf 8 (s.port e).idStart.toNat ++ bytesOf 8 (s.port e).idNow.toNat)))
    ∧ (s.begins n 0x0003 req → gives (.cellmapRead n) (answerBytes ((allCells.flatMap fun p => bytesOf 2 (mapWord (s.cell p))) ++ bytesOf 4 (s.glob.geo.get 0).toNat)))
    ∧ (s.begins n 0x0004 req → pf req 6 1 = 1 → pf req 7 1 = 0 →
        gives (.steprecRead n) (match s.step.records.find? (fun x => x.step == BitVec.ofNat 48 (pf req 0 6)) with
          | some x => answerBytes x.bytes | none => answer resRange))
    ∧ (s.begins n 0x0005 req → pf req 2 1 = 1 →
        gives (.stashdirRead n) (answerBytes (match s.stash.entries.find? (fun x => x.idx == pf req 0 2) with
          | some x => bytesOf 16 x.word.toNat | none => List.replicate 16 0)))
    ∧ (s.begins n 0x0006 req → pf req 2 1 = 1 → pf req 0 2 < 4096 →
        gives (.gentabRead n) (answerBytes (match s.gens.find? (fun g => g.idx.toNat == pf req 0 2) with
          | some g => s.genBytes g | none => List.replicate 64 0)))
    ∧ (∀ a k, s.begins n 0x0007 req → s.memArgs req = .inl (a, k) → s.piecesReady [(a, k)] = true →
        (∀ ecc, ecc ≠ .uncorr → ∃ t, exec (.memRead n ecc) s = .next t ∧ t.answered n req (answerBytes (s.mem.readBytes a k)) ∧ t.mem = s.mem)
        ∧ (s.voidable → ∃ t, exec (.memRead n .uncorr) s = .next t ∧ t.answered n req (answer resFault 0x0E) ∧ t.voidedBy 0x01 ∧ t.mem = s.mem))
    ∧ (∀ a k, s.begins n 0x0302 req → s.memArgs req = .inl (a, k) →
        (∀ ecc, ecc ≠ .uncorr → s.Inv →
          ∃ t, exec (.memWrite n ecc) s = .next t ∧ t.answered n req (answer resOk) ∧ (∀ i, i < k → t.mem.read (a + i) = rowByte req (32 + i))
            ∧ (∀ j, j < a ∨ a + k ≤ j → t.mem.read j = s.mem.read j))
        ∧ (s.voidable → ∃ t, exec (.memWrite n .uncorr) s = .next t ∧ t.answered n req (answer resFault 0x0E) ∧ t.voidedBy 0x01 ∧ t.mem = s.mem))

/-- Job control (R262, R282, R284, R291, R292, R324, R357, R358, R363, R379, R384): what JOB_CONFIGURE, CURSOR_SET, DET_SET, HALT_SET, PAUSE,
DIGEST_CONFIGURE, BUNT_GROUP, TICK_CONFIGURE and CKPT_ARM write, at once or at the next boundary, and when JOB_CONFIGURE, DET_SET and
HALT_SET refuse; none of them writes memory. A joined instance that is not the master applies the request of a P command that the master has
passed on, and says so, and the master itself takes none (R354; how it comes is log entry 6). That STEP_US changes at once while no step is in progress, and when an armed boundary counts as
past, are the model's readings, log entry 42. -/
def Obligations.JobControlActs : Prop :=
  ∀ (n : Fin 8) (req : Req) (s : State),
    let does (i : Instr) (r : Resp) (post : State → Prop) : Prop := ∃ t, exec i s = .next t ∧ t.answered n req r ∧ t.mem = s.mem ∧ post t
    let bs := payBytes req 0 240
    (s.begins n 0x0100 req →
      (s.glob.halt = false → does (.jobConfigure (.mailbox n)) (answer resState 1) fun t => t.job = s.job ∧ t.glob = s.glob)
      ∧ (∀ r, s.glob.halt = true → s.jobCheck bs (fld bs 16 4) 16 = some r → does (.jobConfigure (.mailbox n)) r fun t => t.job = s.job ∧ t.glob = s.glob)
      ∧ (s.glob.halt = true → s.jobCheck bs (fld bs 16 4) 16 = none → s.piecesReady (jobPieces bs) = true →
          does (.jobConfigure (.mailbox n)) (answer resOk) fun t =>
            (s.step.running = true → t.glob = s.glob ∧ t.job = { s.job with defJob := some (s.jobOf bs (fld bs 16 4)) })
            ∧ (s.step.running = false → t.job.present = true ∧ t.job.ptRoot = BitVec.ofNat 52 (fld bs 0 8) ∧ t.glob.seed = BitVec.ofNat 64 (fld bs 8 8)
                ∧ t.glob.vshard = BitVec.ofNat 32 (fld bs 16 4) ∧ t.job.hbOn = true ∧ t.job.hbNext = s.clk.gtc)))
    ∧ (s.begins n 0x0106 req → does (.cursorSet (.mailbox n)) (answer resOk) fun t => t.job.defCursor = some (BitVec.ofNat 64 (pf req 0 8)) ∧ t.glob = s.glob)
    ∧ (s.begins n 0x0107 req → pf req 0 1 ≤ 1 →
        (pf req 0 1 = 1 → s.detAllowed = false → does (.detSet (.mailbox n)) (answer resDetrefused) fun t => t.glob.detmode = s.glob.detmode)
        ∧ ((pf req 0 1 = 0 ∨ s.detAllowed = true) → does (.detSet (.mailbox n)) (answer resOk) fun t =>
            (s.step.running = true → t.job.defDet = some (decide (pf req 0 1 = 1)) ∧ t.glob.detmode = s.glob.detmode)
            ∧ (s.step.running = false → t.glob.detmode = decide (pf req 0 1 = 1))))
    ∧ (s.begins n 0x0108 req → pf req 0 1 ≤ 1 →
        (pf req 0 1 = 0 → (s.step.paused = true ∨ s.tmb.hold = true) → does (.haltSet (.mailbox n)) (answer resState 2) fun t => t.glob.halt = s.glob.halt)
        ∧ ((pf req 0 1 = 1 ∨ (s.step.paused = false ∧ s.tmb.hold = false)) → does (.haltSet (.mailbox n)) (answer resOk) fun t =>
            t.glob.halt = decide (pf req 0 1 = 1)))
    ∧ (s.begins n 0x0109 req → does (.pause (.mailbox n)) (answer resOk) fun t => t.step = { s.step with pausePend := true } ∧ t.glob = s.glob)
    ∧ (let v := pf req 0 4
       s.begins n 0x010C req → v &&& 0xE0E0 = 0 → 10 ≤ v / 256 % 32 → v / 256 % 32 ≤ 30 → does (.digestConfigure (.mailbox n)) (answer resOk) fun t =>
        t.dig = { s.dig with peer := BitVec.ofNat 16 (v / 65536), period := BitVec.ofNat 5 (v / 256), grain := BitVec.ofNat 3 (v / 4),
                             action := decide (v / 2 % 2 = 1), en := decide (v % 2 = 1), mismatch := false, loss := false,
                             exch := s.clk.gtc })
    ∧ (s.begins n 0x0110 req → pf req 0 1 ≤ 15 → does (.buntGroup n) (answer resOk) fun t =>
        (s.glob.halt = true → t.glob.bunt[pf req 0 1]? = some (BitVec.ofNat 64 (pf req 8 8)) ∧ ∀ g : Nat, g ≠ pf req 0 1 → t.glob.bunt[g]? = s.glob.bunt[g]?)
        ∧ (s.glob.halt = false → t.glob = s.glob ∧ t.job.defBunt = s.job.defBunt ++ [(pf req 0 1, BitVec.ofNat 64 (pf req 8 8))]))
    ∧ (let v := pf req 0 4
       s.begins n 0x0306 req → v &&& 0xF2 = 0 → does (.tickConfigure (.mailbox n)) (answer resOk) fun t =>
        t.clk.en = decide (v % 2 = 1) ∧ t.clk.source = decide (v / 4 % 2 = 1) ∧ t.clk.load = decide (v / 8 % 2 = 1) ∧ t.clk.gtc = s.clk.gtc
        ∧ (v % 2 = 0 ∨ v / 4 % 2 = 1 → t.clk.skew = .free ∧ t.clk.slew = 0)
        ∧ (s.step.running = false → t.clk.stepUs = BitVec.ofNat 24 (v / 256))
        ∧ (s.step.running = true → t.clk.stepUs = s.clk.stepUs ∧ (BitVec.ofNat 24 (v / 256) ≠ s.clk.stepUs → t.job.defStepUs = some (BitVec.ofNat 24 (v / 256)))))
    ∧ (s.begins n 0x0205 req →
        (pf req 14 1 = 1 → does (.ckptArm (.mailbox n)) (answer resOk) fun t => t.ckpt = { s.ckpt with armed := false })
        ∧ (pf req 14 1 = 0 → pf req 0 8 % 65536 = 0 → pf req 0 8 < 2 ^ 48 →
            (s.boundaryPast (pf req 8 6) = true → does (.ckptArm (.mailbox n)) (answer resLate) fun t => t.ckpt = s.ckpt)
            ∧ (s.boundaryPast (pf req 8 6) = false → does (.ckptArm (.mailbox n)) (answer resOk) fun t =>
                t.ckpt = { s.ckpt with base := BitVec.ofNat 48 (pf req 0 8), stepArm := BitVec.ofNat 48 (pf req 8 6), armed := true })))
    ∧ (let joined : Prop := s.firmwareRuns = true ∧ s.pins.preRstN = true ∧ s.pkg.settled = true ∧ s.isMaster = false
        ∧ s.pkg.present.getLsbD s.pins.instanceId.toNat = true
       let applies (i : Instr) (post : State → Prop) : Prop := ∃ t, exec i s = .next t ∧ .shareDone (BitVec.ofNat 16 (reqOp req)) resOk ∈ t.outs
        ∧ t.mbs = s.mbs ∧ t.mem = s.mem ∧ post t
       (joined → (reqOp req = 0x0106 → applies (.cursorSet (.master req)) fun t => t.job = { s.job with defCursor := some (BitVec.ofNat 64 (pf req 0 8)) })
        ∧ (reqOp req = 0x0108 → pf req 0 1 = 1 → applies (.haltSet (.master req)) fun t => t.glob.halt = true)
        ∧ (reqOp req = 0x0109 → applies (.pause (.master req)) fun t => t.step = { s.step with pausePend := true })
        ∧ (reqOp req = 0x0205 → pf req 14 1 = 1 → applies (.ckptArm (.master req)) fun t => t.ckpt = { s.ckpt with armed := false }))
       ∧ (s.isMaster = true → exec (.pause (.master req)) s = .next s ∧ exec (.cursorSet (.master req)) s = .next s))

/-- Routes, generations and the memory side (R116, R118, R119, R181, R187-R189, R207, R246, R250, R251, R357): ROUTE_LOAD writes its
descriptors, or clears them when the CRC of the binary differs; ROUTE_KICK's kick is taken, or fails with ROUTEBAD; ROUTE_ARM arms a
tick or discards those of a route; GEN_REGISTER installs or removes its entry alone; STASH_ABORT counts the puts that wait and completes each with STASHFULL;
XLATE_INVALIDATE drops the entries and the pointers of walks of its range alone; CACHE_FLUSH writes a dirty line back and answers at once
when all are clean; PREEMPT stops a running TLOAD or TSTORE at a row boundary, a row of a store that is partly written being finished: it
completes with PREEMPT, or with the fault that stands at that row, and leaves a resume record that TF_ROWSTART shows (R119-R121, R124, R125);
cells without one are as they were. A ROUTE_KICK under a stop waits, log entry 44. The model's choices are that a frozen tensor is stored
with LIVE 0, log entry 18, and that CACHE_FLUSH answers FAULT for a dirty line behind a fenced port, log entry 71. -/
def Obligations.RoutesAndTablesAct : Prop :=
  ∀ (n : Fin 8) (req : Req) (s : State),
    (let a := pf req 0 8
     let f := pf req 8 2
     let k := pf req 10 2
     let bs := s.readMem a (128 * k)
     s.begins n 0x0101 req → a % 256 = 0 → 0 < k → f + k ≤ 16384 → s.inMem a (128 * k) = true → s.busyRoute f k = none → s.piecesReady [(a, 128 * k)] = true →
      ∃ t r, exec (.routeLoad n) s = .next t ∧ t.answered n req r ∧ t.mem = s.mem
        ∧ (∀ x : RouteId, (x.toNat < f ∨ f + k ≤ x.toNat) → t.desc x = s.desc x)
        ∧ ((crc32c bs).toNat = pf req 12 4 → r = answer resOk ∧ ∀ i, i < k → t.desc (BitVec.ofNat 14 (f + i)) = BitVec.ofNat 1024 (fld bs (128 * i) 128))
        ∧ ((crc32c bs).toNat ≠ pf req 12 4 → r = answer resCheck ∧ ∀ i, i < k → t.desc (BitVec.ofNat 14 (f + i)) = 0))
    ∧ (let x : RouteId := BitVec.ofNat 14 (pf req 0 2)
       s.begins n 0x0102 req → pf req 0 2 < 0x4000 → s.glob.halt = false → s.step.stop = false → s.stopped = false →
        (s.kickBad (s.desc x) = true → ∃ t, exec (.routeKick n) s = .next t ∧ t.answered n req (answer resFault 0x0B) ∧ t.rt = s.rt ∧ t.mem = s.mem)
        ∧ (s.kickBad (s.desc x) = false → ∃ t k, exec (.routeKick n) s = .next t ∧ t.answered n req (answer resOk) ∧ t.rt.kicks = s.rt.kicks ++ [k]
            ∧ k.route = x ∧ k.desc = s.desc x ∧ k.src = .service n.val ∧ k.seq = s.rt.seq + 1 ∧ t.mem = s.mem))
    ∧ (let x : RouteId := BitVec.ofNat 14 (pf req 0 2)
       s.begins n 0x0103 req → pf req 0 2 < 0x4000 →
        (pf req 8 8 = 0 → ∃ t, exec (.routeArm n) s = .next t ∧ t.answered n req (answer resOk (s.rt.arms.filter fun a => a.1 == x).length)
            ∧ t = { s with mbs := t.mbs, rt := { s.rt with arms := s.rt.arms.filter fun a => a.1 != x } })
        ∧ (pf req 8 8 ≠ 0 → pf req 8 8 ≤ s.clk.gtc.toNat → ∃ t, exec (.routeArm n) s = .next t ∧ t.answered n req (answer resLate) ∧ t.rt = s.rt)
        ∧ (s.clk.gtc.toNat < pf req 8 8 → s.rt.arms.length = 256 → ∃ t, exec (.routeArm n) s = .next t ∧ t.answered n req (answer resFull) ∧ t.rt = s.rt)
        ∧ (s.clk.gtc.toNat < pf req 8 8 → s.rt.arms.length < 256 → ∃ t, exec (.routeArm n) s = .next t ∧ t.answered n req (answer resOk)
            ∧ t = { s with mbs := t.mbs, rt := { s.rt with arms := s.rt.arms ++ [(x, BitVec.ofNat 64 (pf req 8 8))] } }))
    ∧ (let i : BitVec 12 := BitVec.ofNat 12 (pf req 0 2)
       let bs := payBytes req 8 64
       s.begins n 0x0104 req → s.glob.halt = true → pf req 0 2 < 4096 → (∀ g, s.gen? i = some g → s.refs i g.genA = 0 ∧ s.refs i g.genB = 0) →
        (entryValid bs = false → ∃ t, exec (.genRegister n) s = .next t ∧ t.answered n req (answer resOk) ∧ t.gen? i = none
            ∧ (∀ j, j ≠ i → t.gen? j = s.gen? j) ∧ t.mem = s.mem)
        ∧ (entryValid bs = true → entryBad bs = none → (∀ g ∈ s.gens, g.idx ≠ i → (genOf i 0 bs).overlaps g = false) →
            ∃ t g, exec (.genRegister n) s = .next t ∧ t.answered n req (answer resOk) ∧ t.gen? i = some g ∧ (∀ j, j ≠ i → t.gen? j = s.gen? j)
              ∧ g = { genOf i (BitVec.ofNat 16 (pf req 2 2)) bs with live := (genOf i 0 bs).live && !(genOf i 0 bs).frozen } ∧ t.mem = s.mem))
    ∧ (s.begins n 0x0105 req → ∃ t, exec (.stashAbort n) s = .next t ∧ t.answered n req (answer resOk s.waitingPuts) ∧ t.mem = s.mem
        ∧ (∀ e, ∀ c ∈ (s.port e).cmds, c.op = opSTASHPUT → c.waitSince.isSome = true →
            .cpl e (cplWord (c.slot.setWidth 32) 0 opSTASHPUT .stashfull c.tag) ∈ t.outs ∧ (t.port e).find c.tag = none)
        ∧ (∀ q, ∀ r ∈ (s.quad q).runs, r.code = none → dKind r.desc = kPUT → r.waitSince.isSome = true → s.waiters r.seq = [] →
            ∃ x ∈ (t.quad q).runs, x.seq = r.seq ∧ x.code = some .stashfull))
    ∧ (let va := pf req 0 8
       let k := pf req 8 8
       s.begins n 0x010D req → va % 65536 = 0 → ∃ t, exec (.xlateInvalidate (.mailbox n)) s = .next t ∧ t.answered n req (answer resOk)
        ∧ (∀ q l, l ∈ (t.quad q).tlb ↔ l ∈ (s.quad q).tlb ∧ l.meets va k = false)
        ∧ (∀ q w, w ∈ (t.quad q).walks ↔ w ∈ (s.quad q).walks ∧ w.meets va k = false)
        ∧ t = { s with mbs := t.mbs, quads := t.quads, outs := s.outs ++ s.shares req (answer resOk) })
    ∧ (let a := pf req 0 8
       let k := pf req 8 8
       s.begins n 0x010E req → a % 4096 = 0 →
        ((∀ l ∈ s.linesIn a k, l.dirty = 0) → ∃ t, exec (.cacheFlush n) s = .next t ∧ t.answered n req (answer resOk) ∧ t = { s with mbs := t.mbs })
        ∧ (∀ l u m id, s.linesIn a k = [l] → l.dirty ≠ 0 → s.issueTxn l.line true 15 = some (u, m, id) →
            ∃ t, exec (.cacheFlush n) s = .next t ∧ t.answered n req (answer resOk) ∧ t.mem = s.mem
              ∧ .mspWd m.val id l.dirty (rowOf (s.mem.readBytes (l.line * 256) 256)) ∈ t.outs ∧ (∀ y ∈ t.linesIn a k, y.dirty = 0))
        ∧ (∀ l, s.linesIn a k = [l] → l.dirty ≠ 0 → (s.fencedAt l.line).isSome = true → s.voidable →
            ∃ t, exec (.cacheFlush n) s = .next t ∧ t.answered n req (answer resFault 0x0E) ∧ t.voidedBy 0x01 ∧ t.mem = s.mem))
    ∧ (s.begins n 0x010F req → s.mspsOpen → ∃ t, exec (.preempt n) s = .next t ∧ t.answered n req (answer resOk)
        ∧ ((∀ e, ∀ c ∈ (s.port e).cmds, ∀ p, c.ls = some p → p.parts = []) → t.mem = s.mem)
        ∧ ∀ (e : EPort) (tag : Byte) (c : Cmd) (p : LsProg) (l : LCell) (x : Tile), (s.cell e.p).logical = some l → pf req 0 8 / 2 ^ l.toNat % 2 = 1 →
          s.holds e tag c → c.started = true → c.ls = some p →
          (∀ b, ∀ y ∈ (s.port ⟨e.p, b⟩).cmds, y.ls.isSome = true → b = e.sep ∧ y = c) →
          (p.parts ≠ [] → (p.segs.find? fun y => y.1 == p.next).isSome = true) → (s.cell e.p).tile? c.tileNo = some x →
          let k := if p.parts.isEmpty then p.next else p.next + 1
          let y : Code × Word := match p.fault with | some f => if f.1 = k then f.2 else (.preempt, 0) | none => (.preempt, 0)
          (t.port e).find tag = none ∧ (p.n ≤ k → .cpl e (cplWord 0 0 c.op .ok tag) ∈ t.outs)
            ∧ (k < p.n → .cpl e (cplWord y.2 k c.op y.1 tag) ∈ t.outs
                ∧ (t.cell e.p).tile? c.tileNo = some { x with resume := some ⟨p.store, p.va, p.stride, k⟩ }
                ∧ (t.cell e.p).rowStart = rowStartWord e.sep p.store c.tileNo y.1 k))
    ∧ (s.begins n 0x010F req → (∀ p l, (s.cell p).logical = some l → pf req 0 8 / 2 ^ l.toNat % 2 = 1 → ∀ b, ∀ c ∈ (s.port ⟨p, b⟩).cmds, c.ls = none) →
        ∃ t, exec (.preempt n) s = .next t ∧ t.answered n req (answer resOk) ∧ t.mem = s.mem ∧ (∀ p, (t.cell p).tiles = (s.cell p).tiles))

/-- Images (R105-R108, R144, R285, R286, R299, R320, R359, R360): CTX_SAVE writes the save image of an idle cell, and fails and voids the
step where a row it reads cannot be corrected (R34, R97); CTX_RESTORE brings back
configurations and RV0-RV3, or leaves the cell released and zeroed when the CRC fails; SNAPSHOT_EXPORT writes the image of a paused
instance; RESUME restores the registers of an image whose CRC, step and cursor agree, and changes nothing for another step; IMAGE_LOAD
writes the converted arrays, and its conversions keep every element code; RECOVERY_JOIN takes job, routes and tables whose CRCs
agree.
Other instances are outside, log entry 6; the ATU is that of quadrant 0, log entry 35; the order of the checks is the model's, log entries 38
to 40; RECOVERY_JOIN's step count is log entry 37, and that IMAGE_LOAD reads its source whole before it writes, log entry 41. That CTX_SAVE
answers FAULT 0x0E for the uncorrectable row, beside the void that R34 and R97 give, is the model's reading, log entry 71. -/
def Obligations.ImagesSaveAndRestore : Prop :=
  ∀ (n : Fin 8) (req : Req) (s : State),
    (∀ p : PCell,
      let a := pf req 8 8
      let img := s.ctxImage p
      s.begins n 0x0111 req → pf req 0 1 = p.val → s.glob.halt = true → a % 256 = 0 → s.cellIdle p = true → img.length ≤ pf req 16 4 →
      s.inMem a img.length = true → ∀ ecc : List RowEcc,
      ((∀ x ∈ ecc, x.ecc ≠ .uncorr) → s.Inv → s.mspsOpen →
        ∃ t, exec (.ctxSave n ecc) s = .next t ∧ t.answered n req (answer resOk img.length) ∧ (∀ i, i < img.length → some (t.mem.read (a + i)) = img[i]?)
          ∧ (∀ j, j < a ∨ a + img.length ≤ j → t.mem.read j = s.mem.read j)
          ∧ ∀ q, (t.cell q).tiles = (s.cell q).tiles ∧ (t.cell q).rv = (s.cell q).rv)
      ∧ ((∃ x ∈ s.savedReads p, eccAt ecc x.1 x.2 = .uncorr) → s.voidable →
        ∃ t, exec (.ctxSave n ecc) s = .next t ∧ t.answered n req (answer resFault 0x0E) ∧ t.voidedBy 0x01 ∧ t.mem = s.mem))
    ∧ (∀ p : PCell,
      let a := pf req 8 8
      let head := s.readMem a 2304
      let img := s.readMem a (fld head 8 4)
      s.begins n 0x0112 req → pf req 0 1 = p.val → s.glob.halt = true → ((s.cell p).logical.isSome = true ∨ (s.cell p).spare = true) → a % 256 = 0 →
      s.inMem a 2304 = true → s.cellIdle p = true → s.piecesReady [(a, 2304)] = true → headerGood head = true →
      s.inMem a (fld head 8 4) = true → s.piecesReady [(a, fld head 8 4)] = true →
      ∃ t r, exec (.ctxRestore n) s = .next t ∧ t.answered n req r ∧ t.mem = s.mem ∧ (∀ q, q ≠ p → t.cell q = s.cell q)
        ∧ (sealedAt 12 img = true → r = answer resOk ∧ (∀ i : Fin 24, ((t.cell p).tiles.get i).cfg = savedCfg img i.val)
            ∧ ∀ k : Fin 512, (t.cell p).rv.get k = BitVec.ofNat 32 (fld img (256 + 4 * k.val) 4))
        ∧ (sealedAt 12 img = false → r = answer resCheck 2
            ∧ (∀ i : Fin 24, ((s.cell p).tiles.get i).cfg.isSome = true → ((t.cell p).tiles.get i).inUse = false) ∧ ∀ k : Fin 512, (t.cell p).rv.get k = 0))
    ∧ (let base := imageBase req 0 s.pins.instanceId.toNat
       let w := s.cacheLeaves 0 (pagesOf (slotPages s.gens))
       let img := w.snapshot
       s.begins n 0x010A req →
        (s.step.paused = false → ∃ t, exec (.snapshotExport (.mailbox n)) s = .next t ∧ t.answered n req (answer resState 2) ∧ t = { s with mbs := t.mbs })
        ∧ (s.step.paused = true → (∀ i, i < 8 → imageBase req 0 i % 256 = 0) →
            (∀ i, i < 8 → imageBase req 0 i ≠ 0 → paOwner (imageBase req 0 i) = i ∧ s.isDefault (imageBase req 0 i) = false) → base = 0 →
            ∃ t, exec (.snapshotExport (.mailbox n)) s = .next t ∧ t.answered n req (answerBytes (s.lengths req 0))
              ∧ t = { s with mbs := t.mbs, outs := s.outs ++ s.shares req (answer resOk) })
        ∧ (∀ ps, s.step.paused = true → (∀ i, i < 8 → imageBase req 0 i % 256 = 0) →
            (∀ i, i < 8 → imageBase req 0 i ≠ 0 → paOwner (imageBase req 0 i) = i ∧ s.isDefault (imageBase req 0 i) = false) → base ≠ 0 →
            s.walkMiss 0 (pagesOf (slotPages s.gens)) = none → w.reach false (s.gens.flatMap Gen.slots) = .inl ps →
            w.piecesReady (ps ++ s.spilledPieces) = true → img.length ≤ pf req 64 8 → s.inMem base img.length = true → s.Inv →
            ∃ t, exec (.snapshotExport (.mailbox n)) s = .next t ∧ t.answered n req (answerBytes (s.lengths req img.length))
              ∧ (∀ i, i < img.length → some (t.mem.read (base + i)) = img[i]?) ∧ (∀ j, j < base ∨ base + img.length ≤ j → t.mem.read j = s.mem.read j)))
    ∧ (let base := imageBase req 32 s.pins.instanceId.toNat
       let len := natOf (s.readMem (base + 88) 8)
       let img := s.readMem base len
       let old := fld img 72 4
       let v := if pf req 16 4 = 0 then old else pf req 16 4
       let moved : Bool := decide (v / 256 % 32 ≠ old / 256 % 32) || decide (v / 65536 ≠ old / 65536)
       s.begins n 0x010B req → s.glob.halt = true → (pf req 16 4 = 0 ∨ vshardBad (pf req 16 4) = false) → s.inMem base 8448 = true →
       s.piecesReady [(base, 8448)] = true → 8448 ≤ len → s.inMem base len = true → s.piecesReady [(base, len)] = true →
        (sealedAt 104 img = false → ∃ t, exec (.resume (.mailbox n)) s = .next t ∧ t.answered n req (answer resCheck s.pins.instanceId.toNat) ∧ t = { s with mbs := t.mbs })
        ∧ (sealedAt 104 img = true → (pf req 0 6 ≠ fld img 0 6 ∨ pf req 8 8 ≠ fld img 8 8) →
            ∃ t, exec (.resume (.mailbox n)) s = .next t ∧ t.answered n req (answer resMismatch) ∧ CellFrame { s with mbs := t.mbs } t ∧ t.cells = s.cells)
        ∧ (∀ secs ps, sealedAt 104 img = true → pf req 0 6 = fld img 0 6 → pf req 8 8 = fld img 8 8 → v % 32 = old % 32 →
            (moved = true → fld img 112 4 = 0) → s.resumeSections base (fld img 108 4) (pf req 24 8) v moved = (secs, []) → distinctIdx secs = true →
            s.piecesReady (secs.map fun y => (y.1, y.2.sectionLen)) = true → s.walkMiss 0 (pagesOf (slotPages (secs.map (·.2)))) = none →
            (s.cacheLeaves 0 (pagesOf (slotPages (secs.map (·.2))))).reach true (secs.flatMap fun y => y.2.slots) = .inl ps →
            ∃ t, exec (.resume (.mailbox n)) s = .next t ∧ t.answered n req (answer resOk) ∧ t.step.count = BitVec.ofNat 48 (pf req 0 6)
              ∧ t.step.running = false ∧ t.step.resumed = true ∧ t.glob.seed = BitVec.ofNat 64 (fld img 64 8) ∧ t.glob.vshard = BitVec.ofNat 32 v &&& 0xFFFF9F1F
              ∧ t.glob.fmtPolicy = BitVec.ofNat 32 (fld img 76 4) &&& 0x003F03FF ∧ t.glob.stashCfg = BitVec.ofNat 32 (fld img 80 4) &&& 0xFFFFFF03 ∧ t.glob.cursor = BitVec.ofNat 64 (pf req 8 8)
              ∧ (∀ i, (t.gen? i).isSome = secs.any fun y => y.2.idx == i)))
    ∧ (let mode := pf req 24 1
       let k := pf req 16 8
       let side (bp : Bool) (a soff : Nat) : List (Nat × Nat) := if bp then bp4Pieces a soff (pf req 28 4) k else np4Pieces a soff k
       let src := side (mode == 2) (pf req 0 8) (pf req 32 4)
       let dst := side (mode == 1) (pf req 8 8) (pf req 36 4)
       s.begins n 0x0303 req → s.glob.halt = true → k % 256 = 0 → k ≠ 0 → mode ≤ 2 → (mode ≠ 0 → pf req 28 4 % 32 = 0) →
       (∀ x ∈ src ++ dst, s.inMem x.1 x.2 = true) → s.piecesReady src = true →
        ∃ t, exec (.imageLoad n) s = .next t ∧ t.answered n req (answer resOk)
          ∧ t.mem = ((dst.zip (imageConvert mode k (src.map fun x => s.mem.readBytes x.1 x.2))).foldl (fun s x => s.writeMem x.1.1 x.2) s).mem)
    ∧ (∀ (k : Nat) (l : List Byte) (sc : List (List Byte)) (i : Nat), k % 256 = 0 → i < k →
        bp4El (imageConvert 1 k (l :: sc)) i = np4El l i ∧ ∀ ls, np4El ((imageConvert 2 k ls).headD []) i = bp4El ls i)
    ∧ (let blk := pf req 0 8
       let k := pf req 16 2
       let bs := s.readMem blk 240
       let routes := s.readMem (pf req 8 8) (128 * k)
       let table := s.readMem (pf req 24 8) 262144
       s.begins n 0x0203 req → s.glob.halt = true →
        (s.job.present = true → ∃ t, exec (.recoveryJoin (.mailbox n)) s = .next t ∧ t.answered n req (answer resState 4) ∧ t = { s with mbs := t.mbs })
        ∧ (s.job.present = false → 0 < k → k ≤ 16384 → s.inMem blk 240 = true → s.inMem (pf req 8 8) (128 * k) = true → s.inMem (pf req 24 8) 262144 = true →
            s.piecesReady [(blk, 240)] = true → blockReserved bs = none → s.jobCheck bs (pf req 36 4) 36 = none →
            s.piecesReady (jobPieces bs ++ [(pf req 8 8, 128 * k), (pf req 24 8, 262144)]) = true →
            ∃ t r, exec (.recoveryJoin (.mailbox n)) s = .next t ∧ t.answered n req r ∧ t.mem = s.mem ∧ t.step.count = s.step.count
              ∧ ((crc32c routes).toNat ≠ pf req 20 4 → r = answer resCheck 1 ∧ t.job = s.job ∧ t.gens = s.gens ∧ t.rt = s.rt)
              ∧ ((crc32c routes).toNat = pf req 20 4 → (crc32c table).toNat ≠ pf req 32 4 → r = answer resCheck 2 ∧ t.job = s.job ∧ t.gens = s.gens ∧ t.rt = s.rt)
              ∧ ((crc32c routes).toNat = pf req 20 4 → (crc32c table).toNat = pf req 32 4 → r = answer resOk ∧ t.job.present = true
                  ∧ t.job.ptRoot = BitVec.ofNat 52 (fld bs 0 8) ∧ t.glob.vshard = BitVec.ofNat 32 (pf req 36 4) ∧ t.gens = gensOf table
                  ∧ ∀ i, i < k → t.desc (BitVec.ofNat 14 i) = BitVec.ofNat 1024 (fld routes (128 * i) 128))))

/-- Recovery, maintenance and administration (R299, R307, R309, R316, R320, R340, R342, R349, R357, R391, R394, R395, R398, R405):
PARITY_CONFIGURE, PARITY_RESYNC, PARITY_REBUILD, RECOVERY_RESUME, CELL_REPAIR, PENNANT_ACK, LOG_CONFIGURE, POWER_CONFIGURE, CELL_POWER,
LIFECYCLE_SET, MB_GRANT and TEST_RUN write what their rows name. A life-cycle transition flushes the log with TRANS shown (R405, R406), then
burns the fuse and wipes; the two commands that this takes are the model's grain, log entry 48.
The checks of the parity commands and of RECOVERY_RESUME are the model's where the manual gives none, log entries 19, 37 and 43. -/
def Obligations.MaintenanceActs : Prop :=
  ∀ (n : Fin 8) (req : Req) (s : State),
    let does (i : Instr) (r : Resp) (post : State → Prop) : Prop := ∃ t, exec i s = .next t ∧ t.answered n req r ∧ t.mem = s.mem ∧ post t
    (s.begins n 0x0200 req → parityBad (pf req 0 4) (pf req 8 4) = none →
      does (.parityConfigure (.mailbox n) false) (answer resCheck) (fun t => t.par = s.par)
      ∧ does (.parityConfigure (.mailbox n) true) (answer resOk) fun t =>
          t.par = { s.par with mcfg := BitVec.ofNat 32 (pf req 0 4), holders := BitVec.ofNat 32 (pf req 4 4), hcfg := BitVec.ofNat 32 (pf req 8 4), stale := true })
    ∧ (s.begins n 0x0201 req →
        (s.par.member = true → s.par.holder = false → does (.parityResync (.mailbox n)) (answer resOk) fun t => t.par.rebuilding = true ∧ t.par.image = s.par.image)
        ∧ (s.par.holder = true → s.imageLen ≠ 0 → does (.parityResync (.mailbox n)) (answer resOk) fun t => t.par.rebuilding = true
            ∧ ∃ r, t.par.rebuild = some r ∧ r.role = 0)
        ∧ (s.par.member = false → s.par.holder = false → does (.parityResync (.mailbox n)) (answer resOk) fun t => t.par = s.par))
    ∧ (∀ stale two, s.begins n 0x0202 req → pf req 1 1 = 1 → pf req 4 1 = 0 → pf req 2 1 ≤ 31 →
        (stale = true → 1 ≤ pf req 0 1 → pf req 0 1 ≤ 4 → does (.parityRebuild (.mailbox n) stale two) (answer resParstale) fun t => t.par = s.par)
        ∧ (stale = false → pf req 0 1 = 3 → s.par.member = true → does (.parityRebuild (.mailbox n) stale two) (answer resOk) fun t => t.par.rebuilding = true
            ∧ ∃ r, t.par.memReb = some r ∧ r.role = 3 ∧ r.lost = [pf req 2 1])
        ∧ (stale = false → pf req 0 1 = 1 → s.par.holder = true → s.imageLen ≠ 0 →
            does (.parityRebuild (.mailbox n) stale two) (answer resOk) fun t => t.par.rebuilding = true
              ∧ ∃ r, t.par.rebuild = some r ∧ r.role = 1 ∧ r.lost = [pf req 2 1] ∧ r.two = two))
    ∧ (∀ stale two, s.begins n 0x0202 req → pf req 1 1 = 2 → pf req 4 1 = 0 → pf req 2 1 ≤ 31 → pf req 3 1 ≤ 31 → pf req 2 1 ≠ pf req 3 1 →
        (pf req 0 1 = 1 → two = false → does (.parityRebuild (.mailbox n) stale two) (answer resLosses) fun t => t.par.rebuild = none ∧ t.par.image = s.par.image)
        ∧ (pf req 0 1 = 2 → s.par.two = false → does (.parityRebuild (.mailbox n) stale two) (answer resLosses) fun t => t.par.memReb = none ∧ t.par.image = s.par.image))
    ∧ (s.begins n 0x0204 req →
        (s.tmb.hold = false → does (.recoveryResume (.mailbox n)) (answer resState) fun t => t.tmb = s.tmb)
        ∧ (s.tmb.hold = true → does (.recoveryResume (.mailbox n)) (answer resOk) fun t => t.tmb.hold = false ∧ t.step = { s.step with resumed := true }))
    ∧ (∀ p : PCell, s.begins n 0x0206 req → pf req 0 1 = p.val →
        ((s.cell p).retired = false → does (.cellRepair n) (answer resState 6) fun t => t.cells = s.cells)
        ∧ ((s.cell p).retired = true → does (.cellRepair n) (answer resOk) fun t => (t.cell p).repairing = true ∧ (∀ q, q ≠ p → t.cell q = s.cell q)
            ∧ ((s.cell p).down = true → (t.cell p).enpend = true) ∧ ((s.cell p).down = false → (s.cell p).pwr = .off → t.cba.wants (cellClient p) = 2)))
    ∧ (let v : Word := BitVec.ofNat 32 (pf req 0 4)
       s.begins n 0x0300 req → pf req 4 1 ≤ 1 →
        (s.log.unread < (v - s.log.tail).toNat → does (.pennantAck n) (answer resRange) fun t => t.log = s.log)
        ∧ ((v - s.log.tail).toNat ≤ s.log.unread → does (.pennantAck n) (answer resOk) fun t =>
            t.log = { s.log with tail := v, lost := if pf req 4 1 = 1 then 0 else s.log.lost }))
    ∧ (let b := pf req 8 8
       s.begins n 0x0301 req → pf req 0 1 ≤ 1 → b % 65536 = 0 → (b = 0 ∨ (s.ownPa b = true ∧ s.inMem b 65536 = true)) →
        does (.logConfigure n) (answer resOk) fun t => t.log = { s.log with flushEn := decide (pf req 0 1 = 1), flushBase := BitVec.ofNat 52 b })
    ∧ (s.begins n 0x0304 req → pf req 0 4 < 4096 → pf req 4 4 < 4096 → (pf req 8 1 = 0xFF ∨ (pf req 8 1 < 136 ∧ pf req 12 4 < 4096)) →
        (pf req 0 4 < floorF s.pins.gradeS → does (.powerConfigure n) (answer resRange) fun t => t.cba = s.cba)
        ∧ (floorF s.pins.gradeS ≤ pf req 0 4 → does (.powerConfigure n) (answer resOk) fun t => t.cba.budget = BitVec.ofNat 12 (pf req 0 4)
            ∧ t.cba.ramp = BitVec.ofNat 12 (pf req 4 4)
            ∧ (pf req 8 1 < 136 → t.cba.capOf (pf req 8 1) = pf req 12 4) ∧ ∀ c, c ≠ pf req 8 1 → t.cba.capOf c = s.cba.capOf c))
    ∧ (∀ p : PCell, s.begins n 0x0305 req → pf req 0 1 = p.val → pf req 1 1 ≤ 1 →
        ((s.cell p).logical.isSome = true ∨ (s.cell p).retired = true ∨ (s.cell p).filling = true → does (.cellPower n) (answer resState 6) fun t => t.cells = s.cells)
        ∧ ((s.cell p).logical = none → (s.cell p).retired = false → (s.cell p).filling = false →
            (pf req 1 1 = 1 → (s.cell p).down = false → (s.cell p).pwr = .off → does (.cellPower n) (answer resOk) fun t =>
                t.cba.wants (cellClient p) = 2 ∧ (t.cell p).pwr = .off ∧ ∀ q, q ≠ p → t.cell q = s.cell q)
            ∧ (pf req 1 1 = 0 → (s.cell p).down = false → (s.cell p).pwr = .ready → does (.cellPower n) (answer resOk) fun t =>
                (t.cell p).pwr = .draining ∧ (t.cell p).down = true ∧ ∀ q, q ≠ p → t.cell q = s.cell q)
            ∧ (pf req 1 1 = 0 → (s.cell p).down = false → (s.cell p).pwr = .off → s.enabling p = true → does (.cellPower n) (answer resOk) fun t =>
                (t.cell p).pwr = .draining ∧ (t.cell p).down = true ∧ ∀ q, q ≠ p → t.cell q = s.cell q)))
    ∧ (∀ tgt ok, s.begins n 0x0400 req → lifeOf (pf req 0 1) = some tgt → s.pins.trans = false →
        (lifeNext s.pins.life tgt = false → does (.lifecycleSet n ok) (answer resState 3) fun t => t.pins = s.pins)
        ∧ (lifeNext s.pins.life tgt = true → (s.pins.life ≠ .service ∨ s.job.present = false) →
            ∃ t, exec (.lifecycleSet n ok) s = .next t ∧ (s.log.flushBase = 0 → t.mem = s.mem) ∧ t.pins = { s.pins with trans := true }
              ∧ (t.mbs.get n).cur = some { req := req, started := true }))
    ∧ (∀ tgt ok r, s.firmwareRuns = true → (s.mbs.get n).cur = some r → r.started = true → r.resp = none → reqOp r.req = 0x0400 →
        lifeOf (pf r.req 0 1) = some tgt → s.pins.trans = true →
        ∃ t, exec (.lifecycleSet n ok) s = .next t ∧ t.mem = s.mem ∧ t.cells = s.cells
          ∧ t.pins = { s.pins with wiping := true, life := if ok = true then tgt else s.pins.life, lifeReq := some (n.val, tgt, ok) })
    ∧ (s.begins n 0x0401 req → 1 ≤ pf req 0 1 → pf req 0 1 ≤ 7 → pf req 1 1 ≤ 31 → does (.mbGrant n) (answer resOk) fun t =>
        (∀ m : Fin 8, m.val = pf req 0 1 → (t.mbs.get m).classes = BitVec.ofNat 5 (pf req 1 1))
        ∧ (∀ m : Fin 8, m.val ≠ pf req 0 1 → (t.mbs.get m).classes = (s.mbs.get m).classes))
    ∧ (∀ failing, s.begins n 0x0402 req → (s.pins.life = .blank ∨ s.pins.life = .test) → (pf req 0 1 = 1 ∧ pf req 1 1 < 68 ∨ pf req 0 1 = 2 ∧ s.inMem (pf req 8 8) (pf req 16 8) = true
          ∧ s.piecesReady [(pf req 8 8, pf req 16 8)] = true) →
        does (.testRun n failing) (answer resOk failing.toNat) fun t => t = { s with mbs := t.mbs })
end

