-- ==== Sys2Proof/Laws/Memory.lean ====
section
/-! SUPPORT. Laws of memory: a write keeps the canonical form, a read after a write gives the byte written, and a write leaves
every other address alone. -/

namespace Sys2Proof.Machine

/-- The first entry of a memory lies above `k`. -/
def Mem.above (k : Nat) : Mem → Prop
  | [] => True
  | x :: _ => k < x.1

theorem Mem.wf_nil : Mem.wf [] = true := rfl

/-- The canonical form, entry by entry. -/
theorem Mem.wf_cons (x : Host.Cell) (m : Mem) :
    Mem.wf (x :: m) = true ↔ x.2 ≠ unlisted ∧ Mem.above x.1 m ∧ Mem.wf m = true := by
  cases m with
  | nil => simp [Mem.wf, Mem.above]
  | cons y r => simp [Mem.wf, Mem.above, and_assoc]

theorem Mem.above_mono {k l : Nat} {m : Mem} (h : k < l) (ha : Mem.above l m) : Mem.above k m := by
  cases m with
  | nil => trivial
  | cons x r => exact Nat.lt_trans h ha

theorem Mem.above_write {k a : Nat} {b : Byte} {m : Mem} (hk : k < a) (hm : m.wf = true) (h : Mem.above k m) :
    Mem.above k (m.write a b) := by
  cases m with
  | nil => unfold Mem.write; split <;> trivial
  | cons x r =>
    have hx := (Mem.wf_cons x r).1 hm
    unfold Mem.write
    repeat' split
    · exact h
    · exact hk
    · exact Mem.above_mono h hx.2.1
    · exact hk
    · exact h

/-- A write keeps the canonical form. -/
theorem Mem.write_wf (m : Mem) (a : Nat) (b : Byte) (h : m.wf = true) : (m.write a b).wf = true := by
  induction m with
  | nil =>
    unfold Mem.write
    split
    · rfl
    · rename_i hb; exact (Mem.wf_cons (a, b) []).2 ⟨hb, trivial, rfl⟩
  | cons x r ih =>
    have hx := (Mem.wf_cons x r).1 h
    unfold Mem.write
    repeat' split
    · exact h
    · rename_i hb; exact (Mem.wf_cons (a, b) _).2 ⟨hb, by assumption, h⟩
    · exact hx.2.2
    · rename_i he hb; exact (Mem.wf_cons (a, b) _).2 ⟨hb, by rw [he]; exact hx.2.1, hx.2.2⟩
    · rename_i hl he
      exact (Mem.wf_cons x _).2 ⟨hx.1, Mem.above_write (by omega) hx.2.2 hx.2.1, ih hx.2.2⟩

theorem Mem.writeBytes_wf (m : Mem) (a : Nat) (bs : List Byte) (h : m.wf = true) : (m.writeBytes a bs).wf = true := by
  induction bs generalizing m a with
  | nil => exact h
  | cons b r ih => exact ih _ _ (Mem.write_wf m a b h)

/-- An address below every entry reads as an unlisted one. -/
theorem Mem.read_above {a : Nat} {m : Mem} (h : Mem.above a m) : m.read a = unlisted := by
  cases m with
  | nil => rfl
  | cons x r =>
    have h : a < x.1 := h
    unfold Mem.read
    rw [if_neg (by omega), if_pos h]

/-- A read after a write: the byte written at its address, the old byte at every other. -/
theorem Mem.read_write (m : Mem) (a c : Nat) (b : Byte) (h : m.wf = true) :
    (m.write a b).read c = if c = a then b else m.read c := by
  induction m with
  | nil =>
    by_cases hb : b = unlisted <;> by_cases hc : c = a <;> simp [Mem.write, Mem.read, hb, hc, eq_comm]; intro h; omega
  | cons x r ih =>
    have hx := (Mem.wf_cons x r).1 h
    have ha : ∀ {d : Nat}, d ≤ x.1 → Mem.read r d = unlisted := fun hd => by
      rcases Nat.lt_or_eq_of_le hd with hd | rfl
      · exact Mem.read_above (Mem.above_mono hd hx.2.1)
      · exact Mem.read_above hx.2.1
    unfold Mem.write
    split
    · split
      · by_cases hc : c = a
        · subst hc; rw [if_pos rfl, Mem.read, if_neg (by omega), if_pos (by assumption)]; symm; assumption
        · rw [if_neg hc]
      · by_cases hc : c = a
        · subst hc; rw [if_pos rfl, Mem.read, if_pos rfl]
        · rw [if_neg hc, Mem.read, if_neg (fun e => hc e.symm)]
          by_cases hl : c < a
          · rw [if_pos hl, Mem.read, if_neg (by omega), if_pos (by omega)]
          · rw [if_neg hl]
    · split
      · rename_i hl he
        subst he
        split
        · by_cases hc : c = x.1
          · subst hc; rw [if_pos rfl, ha (Nat.le_refl _)]; symm; assumption
          · rw [if_neg hc, Mem.read, if_neg (fun e => hc e.symm)]
            by_cases hd : c < x.1
            · rw [if_pos hd, ha (Nat.le_of_lt hd)]
            · rw [if_neg hd]
        · by_cases hc : c = x.1
          · subst hc; rw [if_pos rfl, Mem.read, if_pos rfl]
          · rw [if_neg hc, Mem.read, Mem.read, if_neg (fun e : x.1 = c => hc e.symm), if_neg (fun e : x.1 = c => hc e.symm)]
      · rename_i hl he
        rw [Mem.read, ih hx.2.2, Mem.read]
        by_cases hc : c = a
        · subst hc; rw [if_pos rfl, if_pos rfl, if_neg (fun e => he e.symm), if_neg (by omega)]
        · rw [if_neg hc, if_neg hc]

/-- Bytes written one after the other lie at rising addresses; every other address keeps its byte. -/
theorem Mem.read_writeBytes (m : Mem) (a c : Nat) (bs : List Byte) (h : m.wf = true) :
    (m.writeBytes a bs).read c = if a ≤ c then (bs[c - a]?).getD (m.read c) else m.read c := by
  induction bs generalizing m a with
  | nil => simp [Mem.writeBytes]
  | cons b r ih =>
    rw [Mem.writeBytes, ih _ _ (Mem.write_wf m a b h), Mem.read_write m a c b h]
    by_cases hc : c = a
    · subst hc; rw [if_neg (by omega), if_pos rfl, if_pos (Nat.le_refl _), Nat.sub_self]; rfl
    · rw [if_neg hc]
      by_cases hl : a ≤ c
      · rw [if_pos (by omega), if_pos hl, show c - a = (c - (a + 1)) + 1 by omega, List.getElem?_cons_succ]
      · rw [if_neg (by omega), if_neg hl]

end Sys2Proof.Machine
end

