-- ==== Sys2Proof/Laws/MemoryFrame.lean ====
section
/-! SUPPORT. The operations that leave memory as it is: one lemma for each. The others are in MemoryForm.lean. -/

namespace Sys2Proof.Machine

theorem foldl_mem {α : Type} {f : State → α → State} (h : ∀ s x, (f s x).mem = s.mem) (l : List α) (s : State) :
    (l.foldl f s).mem = s.mem := by
  induction l generalizing s with
  | nil => rfl
  | cons x l ih => rw [List.foldl_cons, ih, h]

theorem foldl_fst_mem {α β : Type} {f : State × β → α → State × β} (h : ∀ a x, (f a x).1.mem = a.1.mem) (l : List α)
    (a : State × β) : (l.foldl f a).1.mem = a.1.mem := by
  induction l generalizing a with
  | nil => rfl
  | cons x l ih => rw [List.foldl_cons, ih, h]

@[simp] theorem State.setCell_mem (s : State) (p : PCell) (c : Cell) : (State.setCell s p c).mem = s.mem := by
  rfl

@[simp] theorem act_ite_mem {c : Prop} [Decidable c] {a b : Act} {s : State} (ha : a.1.mem = s.mem) (hb : b.1.mem = s.mem) :
    (if c then a else b).1.mem = s.mem := by split <;> assumption

@[simp] theorem State.modCell_mem (s : State) (p : PCell) (f : Cell → Cell) : (State.modCell s p f).mem = s.mem := by
  unfold State.modCell
  simp only [State.setCell_mem]

@[simp] theorem State.modPort_mem (s : State) (e : EPort) (f : Port → Port) : (State.modPort s e f).mem = s.mem := by
  unfold State.modPort
  simp only [State.modCell_mem]

@[simp] theorem State.modQuad_mem (s : State) (q : QuadNo) (f : Quad → Quad) : (State.modQuad s q f).mem = s.mem := by
  rfl

@[simp] theorem State.out_mem (s : State) (o : Out) : (State.out s o).mem = s.mem := by
  rfl

@[simp] theorem State.setIrq_mem (s : State) (bit : Nat) : (State.setIrq s bit).mem = s.mem := by
  rfl

@[simp] theorem State.loseN_mem (s : State) (n : Nat) : (State.loseN s n).mem = s.mem := by
  unfold State.loseN
  simp only [apply_ite State.mem, ite_self, State.setIrq_mem]

@[simp] theorem State.intake_mem (s : State) (i : Fin 5) (r : Report) : (State.intake s i r).mem = s.mem := by
  unfold State.intake
  dsimp only
  repeat' split
  all_goals simp only [State.loseN_mem, State.setIrq_mem]

@[simp] theorem State.reportN_mem (s : State) (level : BitVec 4) (src : BitVec 16) (cls : Byte) (sev : Sev) (count : Nat) (detail : BitVec 96) :
     (State.reportN s level src cls sev count detail).mem = s.mem := by
  unfold State.reportN
  simp only [State.intake_mem]

@[simp] theorem State.report_mem (s : State) (level : BitVec 4) (src : BitVec 16) (cls : Byte) (sev : Sev) (detail : BitVec 96) :
     (State.report s level src cls sev detail).mem = s.mem := by
  unfold State.report
  simp only [State.reportN_mem]

@[simp] theorem State.tfFault_mem (s : State) (e : EPort) (tile : Nat) (code : Code) (op : Byte) (row : Nat) :
     (State.tfFault s e tile code op row).mem = s.mem := by
  unfold State.tfFault
  simp only [State.modCell_mem]

@[simp] theorem State.present_mem (s : State) (e : EPort) (op tag : Byte) (tile : Nat) (code : Code) (detail : Word) (row : Nat) :
     (State.present s e op tag tile code detail row).mem = s.mem := by
  unfold State.present
  simp only [apply_ite State.mem, ite_self, State.out_mem, State.tfFault_mem]

@[simp] theorem State.complete_mem (s : State) (e : EPort) (c : Cmd) (code : Code) (detail : Word) (row : Nat) :
     (State.complete s e c code detail row).mem = s.mem := by
  unfold State.complete
  simp only [State.modCell_mem, State.present_mem]

@[simp] theorem State.putCmd_mem (s : State) (e : EPort) (c : Cmd) : (State.putCmd s e c).mem = s.mem := by
  unfold State.putCmd
  simp only [State.modPort_mem]

@[simp] theorem State.addNdet_mem (s : State) (n : Nat) : (State.addNdet s n).mem = s.mem := by
  rfl

@[simp] theorem State.modRecOf_mem (s : State) (step : BitVec 48) (f : StepRec → StepRec) : (State.modRecOf s step f).mem = s.mem := by
  rfl

@[simp] theorem State.flagStep_mem (s : State) (step : BitVec 48) (f : RecFlag) : (State.flagStep s step f).mem = s.mem := by
  unfold State.flagStep
  simp only [apply_ite State.mem, ite_self, State.modRecOf_mem]

@[simp] theorem State.digestLoss_mem (s : State) (x : DEntry) : (State.digestLoss s x).mem = s.mem := by
  unfold State.digestLoss
  simp only [State.report_mem, State.flagStep_mem]

@[simp] theorem State.diverge_mem (s : State) (own : DEntry) : (State.diverge s own).mem = s.mem := by
  unfold State.diverge
  simp only [apply_ite State.mem, apply_ite Prod.fst, ite_self, State.intake_mem, State.flagStep_mem, foldl_mem, foldl_fst_mem, implies_true]

@[simp] theorem State.ownEntry_mem (s : State) (x : DEntry) : (State.ownEntry s x).mem = s.mem := by
  unfold State.ownEntry
  dsimp only
  repeat' split
  all_goals simp only [State.digestLoss_mem, State.diverge_mem]

@[simp] theorem State.peerEntry_mem (s : State) (x : DEntry) : (State.peerEntry s x).mem = s.mem := by
  unfold State.peerEntry
  repeat' split
  all_goals simp only [State.digestLoss_mem, State.diverge_mem]

@[simp] theorem State.fold_mem (s : State) (id : BitVec 16) (unit : List Byte) : (State.fold s id unit).mem = s.mem := by
  unfold State.fold
  simp only [apply_ite State.mem, ite_self, State.ownEntry_mem]

@[simp] theorem State.atAclk_mem (s : State) (k : Nat) : (State.atAclk s k).mem = s.mem := by
  rfl

@[simp] theorem State.passes_mem (s t : State) : (State.passes s t).mem = t.mem := by
  unfold State.passes
  split <;> rfl

@[simp] theorem State.atTick_mem (s : State) (now : Tick) : (State.atTick s now).mem = s.mem := by
  unfold State.atTick
  simp only [apply_ite State.mem, ite_self, State.passes_mem]

@[simp] theorem State.cycle_mem (s : State) : (State.cycle s).mem = s.mem := by
  unfold State.cycle
  simp only [apply_ite State.mem, ite_self]

@[simp] theorem State.idle_mem (s : State) : (State.idle s).mem = s.mem := by
  unfold State.idle
  simp only [apply_ite State.mem, ite_self, State.cycle_mem, State.passes_mem]

@[simp] theorem State.served_mem (s : State) (c : Cba) (skip : Option Nat) : (State.served s c skip).mem = s.mem := by
  rfl

@[simp] theorem State.serve_mem (s : State) (skip : Option Nat) : (State.serve s skip).mem = s.mem := by
  rfl

@[simp] theorem State.askLevel_mem (s : State) (n want : Nat) : (State.askLevel s n want).mem = s.mem := by
  unfold State.askLevel
  simp only [State.serve_mem]

@[simp] theorem State.setPwr_mem (s : State) (p : PCell) (w : Pwr) : (State.setPwr s p w).mem = s.mem := by
  unfold State.setPwr
  simp only [State.askLevel_mem, State.modCell_mem]

@[simp] theorem State.shutdown_mem (s : State) (p : PCell) : (State.shutdown s p).mem = s.mem := by
  unfold State.shutdown
  simp only [apply_ite State.mem, ite_self, State.askLevel_mem, State.modCell_mem, State.setPwr_mem]

@[simp] theorem State.enable_mem (s : State) (p : PCell) : (State.enable s p).mem = s.mem := by
  unfold State.enable
  simp only [apply_ite State.mem, ite_self, State.askLevel_mem, State.modCell_mem]

@[simp] theorem State.dropGrant_mem (s : State) (e : EPort) : (State.dropGrant s e).mem = s.mem := by
  rfl

@[simp] theorem State.modGen_mem (s : State) (idx : BitVec 12) (f : Gen → Gen) : (State.modGen s idx f).mem = s.mem := by
  rfl

@[simp] theorem State.geoWrite_mem (s : State) : (State.geoWrite s).mem = s.mem := by
  unfold State.geoWrite
  simp only []

@[simp] theorem State.geoRewriteBy_mem (s : State) (mb : Option Nat) : (State.geoRewriteBy s mb).mem = s.mem := by
  unfold State.geoRewriteBy
  simp only [apply_ite State.mem, ite_self, State.report_mem, State.geoWrite_mem]

@[simp] theorem State.geoRewrite_mem (s : State) : (State.geoRewrite s).mem = s.mem := by
  unfold State.geoRewrite
  simp only [State.geoRewriteBy_mem]

@[simp] theorem State.sendOf_mem (s : State) (step : BitVec 48) (type flags : Byte) (dst vshard stream : BitVec 16) (payload : List Byte) :
     (State.sendOf s step type flags dst vshard stream payload).mem = s.mem := by
  unfold State.sendOf
  simp only [apply_ite State.mem, ite_self]

@[simp] theorem State.send_mem (s : State) (type flags : Byte) (dst vshard stream : BitVec 16) (payload : List Byte) :
     (State.send s type flags dst vshard stream payload).mem = s.mem := by
  unfold State.send
  simp only [State.sendOf_mem]

@[simp] theorem State.sendVoid_mem (s : State) (replay notBefore : Nat) (cause : Byte) (hold : Bool) :
     (State.sendVoid s replay notBefore cause hold).mem = s.mem := by
  unfold State.sendVoid
  simp only [State.send_mem]

@[simp] theorem State.modRec_mem (s : State) (f : StepRec → StepRec) : (State.modRec s f).mem = s.mem := by
  unfold State.modRec
  split <;> simp only []

@[simp] theorem State.voidPort_mem (s : State) (e : EPort) : (State.voidPort s e).mem = s.mem := by
  unfold State.voidPort
  simp only [State.modPort_mem, State.present_mem, foldl_mem, implies_true]

@[simp] theorem State.noteVoid_mem (s : State) (e : EPort) (req : BitVec 12) (status : BitVec 2) :
     (State.noteVoid s e req status).mem = s.mem := by
  unfold State.noteVoid
  simp only [apply_ite State.mem, ite_self, State.report_mem, State.tfFault_mem]

@[simp] theorem State.voidReads_mem (s : State) : (State.voidReads s).mem = s.mem := by
  unfold State.voidReads
  simp only
  refine foldl_mem ?_ _ _
  intro t o
  split <;> simp only [apply_ite State.mem, State.noteVoid_mem, ite_self]

@[simp] theorem State.voidCleanup_mem (s : State) : (State.voidCleanup s).mem = s.mem := by
  unfold State.voidCleanup
  simp only [State.voidReads_mem, State.voidPort_mem, foldl_mem, implies_true]

@[simp] theorem State.enterHold_mem (s : State) : (State.enterHold s).mem = s.mem := by
  unfold State.enterHold
  simp only [apply_ite State.mem, ite_self, State.modRec_mem]

@[simp] theorem State.tellReplay_mem (s : State) (r : Nat) : (State.tellReplay s r).mem = s.mem := by
  unfold State.tellReplay
  simp only [apply_ite State.mem, ite_self, State.out_mem]

@[simp] theorem State.leaderAnnounce_mem (s : State) (notBefore : Nat) : (State.leaderAnnounce s notBefore).mem = s.mem := by
  unfold State.leaderAnnounce
  simp only [State.sendVoid_mem, State.tellReplay_mem]

@[simp] theorem State.leaderTake_mem (s : State) (nb : Nat) (hold : Bool) : (State.leaderTake s nb hold).mem = s.mem := by
  unfold State.leaderTake
  simp only [apply_ite State.mem, ite_self, State.leaderAnnounce_mem, State.sendVoid_mem]

@[simp] theorem State.tellMaster_mem (s : State) : (State.tellMaster s).mem = s.mem := by
  unfold State.tellMaster
  simp only [apply_ite State.mem, ite_self, State.out_mem]

@[simp] theorem State.request_mem (s : State) : (State.request s).mem = s.mem := by
  unfold State.request
  simp only [apply_ite State.mem, ite_self, State.leaderTake_mem, State.sendVoid_mem, State.tellMaster_mem]

@[simp] theorem State.stopStep_mem (s : State) (cause : Byte) : (State.stopStep s cause).mem = s.mem := by
  unfold State.stopStep
  simp only [apply_ite State.mem, ite_self, State.report_mem, State.out_mem, State.voidCleanup_mem]

@[simp] theorem State.beginVoid_mem (s : State) (cause : Byte) : (State.beginVoid s cause).mem = s.mem := by
  unfold State.beginVoid
  simp only [apply_ite State.mem, ite_self, State.request_mem, State.stopStep_mem]

@[simp] theorem State.wantHold_mem (s : State) (cause : Byte) : (State.wantHold s cause).mem = s.mem := by
  unfold State.wantHold
  simp only [apply_ite State.mem, ite_self, State.enterHold_mem, State.request_mem, State.stopStep_mem]

@[simp] theorem State.instFatal_mem (s : State) (cause : Byte) : (State.instFatal s cause).mem = s.mem := by
  unfold State.instFatal
  simp only [State.wantHold_mem]

@[simp] theorem State.uncorr_mem (s : State) (level : BitVec 4) (src : BitVec 16) (addr struct : Nat) :
     (State.uncorr s level src addr struct).mem = s.mem := by
  unfold State.uncorr
  simp only [State.beginVoid_mem, State.report_mem]

@[simp] theorem State.putRun_mem (s : State) (q : QuadNo) (r : Run) : (State.putRun s q r).mem = s.mem := by
  unfold State.putRun
  simp only [State.modQuad_mem]

@[simp] theorem State.dropRun_mem (s : State) (q : QuadNo) (seq : Nat) : (State.dropRun s q seq).mem = s.mem := by
  unfold State.dropRun
  simp only [State.modQuad_mem]

@[simp] theorem State.heldRecord_mem (s : State) (q : QuadNo) (r : Run) (code : Code) (detail : Word) :
     (State.heldRecord s q r code detail).mem = s.mem := by
  unfold State.heldRecord
  simp only [State.report_mem]

@[simp] theorem State.runFault_mem (s : State) (r : Run) (code : Code) (detail : Word) : (State.runFault s r code detail).mem = s.mem := by
  unfold State.runFault
  split <;> simp only [State.tfFault_mem]

@[simp] theorem State.cancelStash_mem (s : State) (uid : Option Nat) : (State.cancelStash s uid).mem = s.mem := by
  unfold State.cancelStash
  split <;> simp only []

@[simp] theorem State.forgetRun_mem (s : State) (seq : Nat) : (State.forgetRun s seq).mem = s.mem := by
  rfl

@[simp] theorem State.retireRun_mem (s : State) (q : QuadNo) (r : Run) (code : Code) (detail : Word) :
     (State.retireRun s q r code detail).mem = s.mem := by
  unfold State.retireRun
  simp only [apply_ite State.mem, ite_self, State.putRun_mem, State.dropRun_mem, State.forgetRun_mem]

@[simp] theorem State.tellWaiters_mem (s : State) (q : QuadNo) (seq : Nat) (code : Code) (detail : Word) :
     (State.tellWaiters s q seq code detail).mem = s.mem := by
  unfold State.tellWaiters
  simp only [apply_ite State.mem, ite_self, State.complete_mem, State.dropRun_mem, foldl_mem, implies_true]

@[simp] theorem State.noteSkipped_mem (s : State) (q : QuadNo) (r : Run) : (State.noteSkipped s q r).mem = s.mem := by
  unfold State.noteSkipped
  simp only [apply_ite State.mem, ite_self, State.reportN_mem]

@[simp] theorem State.endRun_mem (s : State) (q : QuadNo) (r : Run) (code : Code) (detail : Word) (pennant : Bool) :
     (State.endRun s q r code detail pennant).mem = s.mem := by
  unfold State.endRun
  simp only [apply_ite State.mem, ite_self, State.tellWaiters_mem, State.heldRecord_mem, State.runFault_mem, State.noteSkipped_mem,
      State.retireRun_mem]

@[simp] theorem State.settlePort_mem (s : State) (e : EPort) : (State.settlePort s e).mem = s.mem := by
  unfold State.settlePort
  simp only [State.complete_mem, foldl_mem, implies_true]

@[simp] theorem State.admitLate_mem (s : State) : (State.admitLate s).mem = s.mem := by
  unfold State.admitLate
  simp only [apply_ite State.mem, ite_self, State.geoRewrite_mem, State.out_mem]

@[simp] theorem State.settle_mem (s : State) : (State.settle s).mem = s.mem := by
  rw [State.settle, State.admitLate_mem]
  exact foldl_mem (fun s e => State.settlePort_mem s e) _ s

@[simp] theorem State.jackfail_mem (s : State) (p : PCell) (stage : Nat) (l : BitVec 16) : (State.jackfail s p stage l).mem = s.mem := by
  unfold State.jackfail
  simp only [State.report_mem]

@[simp] theorem State.noteSkips_mem (s : State) (l : List PCell) : (State.noteSkips s l).mem = s.mem := by
  unfold State.noteSkips
  simp only [apply_ite State.mem, ite_self, State.jackfail_mem, foldl_mem, implies_true]

@[simp] theorem State.nextFill_mem (s : State) : (State.nextFill s).mem = s.mem := by
  unfold State.nextFill
  dsimp only
  repeat' split
  all_goals simp only [State.enable_mem, State.geoRewrite_mem, State.modCell_mem, State.noteSkips_mem, State.setPwr_mem, State.wantHold_mem]

@[simp] theorem State.abortFill_mem (s : State) : (State.abortFill s).mem = s.mem := by
  unfold State.abortFill
  repeat' split
  all_goals simp only [apply_ite State.mem, ite_self, State.geoRewrite_mem, State.jackfail_mem, State.modCell_mem, State.nextFill_mem,
      State.request_mem, State.shutdown_mem]

@[simp] theorem State.retireCell_mem (s : State) (p : PCell) (cause : Nat) : (State.retireCell s p cause).mem = s.mem := by
  unfold State.retireCell
  dsimp only
  repeat' split
  all_goals simp only [State.abortFill_mem, State.geoRewrite_mem, State.modCell_mem, State.nextFill_mem, State.report_mem,
      State.request_mem, State.shutdown_mem, State.stopStep_mem]

@[simp] theorem State.fenceCmds_mem (s : State) (e : EPort) : (State.fenceCmds s e).mem = s.mem := by
  unfold State.fenceCmds
  simp only [State.cancelStash_mem, State.modCell_mem, State.present_mem, foldl_mem, implies_true]

@[simp] theorem State.fenceRuns_mem (s : State) (e : EPort) : (State.fenceRuns s e).mem = s.mem := by
  unfold State.fenceRuns
  split
  · rfl
  · exact foldl_mem (fun s q => foldl_mem (fun s r => by rw [State.endRun_mem, State.cancelStash_mem]) _ s) _ s

@[simp] theorem State.fence_mem (s : State) (e : EPort) (no reason ident : Nat) : (State.fence s e no reason ident).mem = s.mem := by
  unfold State.fence
  simp only [apply_ite State.mem, ite_self, State.dropGrant_mem, State.fenceCmds_mem, State.fenceRuns_mem, State.geoRewrite_mem,
      State.modPort_mem, State.report_mem, State.settle_mem]

@[simp] theorem State.fenceRetire_mem (s : State) (e : EPort) (no reason ident : Nat) :
     (State.fenceRetire s e no reason ident).mem = s.mem := by
  unfold State.fenceRetire
  simp only [apply_ite State.mem, ite_self, State.fence_mem, State.retireCell_mem]

@[simp] theorem State.violation_mem (s : State) (e : EPort) (no ident : Nat) : (State.violation s e no ident).mem = s.mem := by
  unfold State.violation
  simp only [apply_ite State.mem, ite_self, State.fenceRetire_mem, State.modPort_mem, State.report_mem]

@[simp] theorem State.recordId_mem (s : State) (x : IdSample) (start : Bool) : (State.recordId s x start).mem = s.mem := by
  unfold State.recordId
  simp only [State.modPort_mem]

@[simp] theorem State.sampleId_mem (s : State) (x : IdSample) : (State.sampleId s x).mem = s.mem := by
  unfold State.sampleId
  simp only [apply_ite State.mem, ite_self, State.fenceRetire_mem, State.recordId_mem]

@[simp] theorem State.corrected_mem (s : State) (p : PCell) (t : TileNo) (row : RowNo) : (State.corrected s p t row).mem = s.mem := by
  unfold State.corrected
  simp only [State.modCell_mem, State.report_mem]

@[simp] theorem State.rowUncorr_mem (s : State) (p : PCell) (t : TileNo) (row : RowNo) : (State.rowUncorr s p t row).mem = s.mem := by
  unfold State.rowUncorr
  simp only [apply_ite State.mem, ite_self, State.retireCell_mem, State.uncorr_mem, State.modCell_mem, State.beginVoid_mem]

@[simp] theorem State.rowEcc_mem (s : State) (p : PCell) (t : TileNo) (row : RowNo) (x_1 : Ecc) :
     (State.rowEcc s p t row x_1).mem = s.mem := by
  cases x_1 <;> unfold State.rowEcc <;> simp only [State.rowUncorr_mem, State.corrected_mem]

@[simp] theorem State.rowEccs_mem (s : State) (p : PCell) (ecc : List RowEcc) (l : List (TileNo × RowNo)) :
     (State.rowEccs s p ecc l).mem = s.mem := by
  unfold State.rowEccs
  simp only [State.rowEcc_mem, foldl_mem, implies_true]

@[simp] theorem State.rvEcc_mem (s : State) (p : PCell) (entry : Nat) (x_1 : Ecc) : (State.rvEcc s p entry x_1).mem = s.mem := by
  cases x_1 <;> (unfold State.rvEcc; simp only [State.uncorr_mem, State.report_mem])

@[simp] theorem State.startTcfg_mem (s : State) (e : EPort) (c : Cmd) : (State.startTcfg s e c).mem = s.mem := by
  unfold State.startTcfg
  simp only [apply_ite State.mem, ite_self, State.complete_mem, State.modCell_mem]

@[simp] theorem State.startTzero_mem (s : State) (e : EPort) (c : Cmd) : (State.startTzero s e c).mem = s.mem := by
  unfold State.startTzero
  simp only [apply_ite State.mem, ite_self, State.complete_mem, State.modCell_mem]

@[simp] theorem State.startTrelease_mem (s : State) (e : EPort) (c : Cmd) : (State.startTrelease s e c).mem = s.mem := by
  unfold State.startTrelease
  simp only [State.complete_mem, State.modCell_mem]

@[simp] theorem State.startTmove_mem (s : State) (e : EPort) (c : Cmd) (ecc : List RowEcc) : (State.startTmove s e c ecc).mem = s.mem := by
  unfold State.startTmove
  dsimp only
  repeat' split
  all_goals simp only [State.rowUncorr_mem, State.rowEccs_mem, State.modCell_mem, State.complete_mem]

@[simp] theorem State.startRvread_mem (s : State) (e : EPort) (c : Cmd) : (State.startRvread s e c).mem = s.mem := by
  unfold State.startRvread
  simp only [apply_ite State.mem, ite_self, State.complete_mem, State.modCell_mem]

@[simp] theorem State.accessPennant_mem (s : State) (e : EPort) (cls : Byte) (t : TileNo) (row : RowNo) :
     (State.accessPennant s e cls t row).mem = s.mem := by
  unfold State.accessPennant
  simp only [State.report_mem]

@[simp] theorem State.hazard_mem (s : State) (e : EPort) (t : TileNo) (row : RowNo) : (State.hazard s e t row).mem = s.mem := by
  unfold State.hazard
  simp only [State.accessPennant_mem, State.addNdet_mem, State.tfFault_mem]

@[simp] theorem State.readOperand_mem (s : State) (e : EPort) (req : BitVec 12) (ecc : Ecc) :
     (State.readOperand s e req ecc).1.mem = s.mem := by
  unfold State.readOperand
  dsimp only
  repeat' split
  all_goals simp only [State.accessPennant_mem, State.hazard_mem, State.rowEcc_mem, State.tfFault_mem]

@[simp] theorem State.lateOperand_mem (s old : State) (e : EPort) (req : BitVec 12) (ecc : Ecc) :
     (State.lateOperand s old e req ecc).mem = s.mem := by
  unfold State.lateOperand
  split <;> simp only [State.rowEcc_mem]

@[simp] theorem State.operandRead_mem (s : State) (e : EPort) (a b : BitVec 12) (aclk : Nat) (eccA eccB : Ecc) :
     (State.operandRead s e a b aclk eccA eccB).mem = s.mem := by
  unfold State.operandRead
  simp only [apply_ite State.mem, apply_ite Prod.fst, ite_self, State.noteVoid_mem, State.lateOperand_mem, State.readOperand_mem,
      State.violation_mem, State.out_mem, State.atAclk_mem]

@[simp] theorem State.reduce_mem (s : State) (old : Cell) (chk : RedStop) (e : EPort) (k : TileCfg) (t : TileNo) (row : RowNo) (data : Row) (rctl : Byte) (ecc : List RowEcc) (rvEcc : Ecc) :
     (State.reduce s old chk e k t row data rctl ecc rvEcc).mem = s.mem := by
  unfold State.reduce
  dsimp only
  repeat' split
  all_goals simp only [State.modCell_mem, State.rowEccs_mem, State.rvEcc_mem, State.hazard_mem, State.accessPennant_mem]

@[simp] theorem State.dropWrite_mem (s : State) (e : EPort) (t : TileNo) (row : RowNo) (code : Code) :
     (State.dropWrite s e t row code).mem = s.mem := by
  unfold State.dropWrite
  simp only [State.tfFault_mem]

@[simp] theorem State.takeWrite_mem (s : State) (e : EPort) (t : TileNo) (row : RowNo) (data : Row) (rctl : Byte) (ecc : List RowEcc) (rvEcc : Ecc) (x : Tile) (k : TileCfg) :
     (State.takeWrite s e t row data rctl ecc rvEcc x k).mem = s.mem := by
  unfold State.takeWrite
  simp only [State.fold_mem, State.modCell_mem, State.reduce_mem]

@[simp] theorem State.resultWrite_mem (s : State) (e : EPort) (t : TileNo) (row : RowNo) (data : Row) (rctl : Byte) (aclk : Nat) (ecc : List RowEcc) (rvEcc : Ecc) :
     (State.resultWrite s e t row data rctl aclk ecc rvEcc).mem = s.mem := by
  unfold State.resultWrite
  dsimp only
  repeat' split
  all_goals simp only [State.accessPennant_mem, State.atAclk_mem, State.dropWrite_mem, State.hazard_mem, State.takeWrite_mem,
      State.violation_mem]

@[simp] theorem State.writeBack_mem (s : State) (p : PCell) (t : TileNo) (row : RowNo) : (State.writeBack s p t row).mem = s.mem := by
  unfold State.writeBack
  simp only [State.modCell_mem]

@[simp] theorem State.took_mem (s : State) (ps : List (Nat × Nat)) : (State.took s ps).mem = s.mem := by
  rfl

@[simp] theorem State.sendAway_mem (s : State) (kind : AwayKind) (pa : Nat) (data : List Byte) (ini : Initiator) :
     (State.sendAway s kind pa data ini).mem = s.mem := by
  rfl

@[simp] theorem State.modMsp_mem (s : State) (m : Fin 6) (f : Msp → Msp) : (State.modMsp s m f).mem = s.mem := by
  rfl

theorem State.issueTxn_mem (s : State) (line : Nat) (write : Bool) (qos : Nat) (x : State × Fin 6 × BitVec 12)
    (h : s.issueTxn line write qos = some x) : x.1.mem = s.mem := by
  simp only [State.issueTxn] at h
  repeat' split at h
  all_goals first | (cases h; simp only [State.out_mem, State.modMsp_mem]) | cases h

@[simp] theorem State.deny_mem (s : State) (line struct : Nat) : (State.deny s line struct).mem = s.mem := by
  unfold State.deny
  split <;> simp only [State.uncorr_mem]

@[simp] theorem State.missOut_mem (s : State) (line : Nat) : (State.missOut s line).mem = s.mem := by
  unfold State.missOut
  split <;> simp only [apply_ite State.mem, apply_ite Prod.fst, ite_self, State.modQuad_mem, foldl_mem, foldl_fst_mem, implies_true]

@[simp] theorem State.missWaits_mem (s : State) (line qos : Nat) : (State.missWaits s line qos).mem = s.mem := by
  unfold State.missWaits
  simp only [apply_ite State.mem, apply_ite Prod.fst, ite_self, foldl_mem, foldl_fst_mem, implies_true]

@[simp] theorem State.missesGo_mem (s : State) (m : Fin 6) : (State.missesGo s m).mem = s.mem := by
  unfold State.missesGo
  dsimp only
  split
  · rfl
  · refine foldl_mem (fun s x => ?_) _ _
    split
    · rename_i h
      rw [State.missOut_mem]
      exact State.issueTxn_mem _ _ _ _ _ h
    · rfl

@[simp] theorem State.fetch_mem (s : State) (line : Nat) (ini : Initiator) : (State.fetch s line ini).mem = s.mem := by
  unfold State.fetch
  split
  · rw [State.sendAway_mem]
  · split
    · rfl
    · split
      · rename_i h
        rw [State.missOut_mem]
        exact State.issueTxn_mem _ _ _ _ _ h
      · split
        · exact State.deny_mem ..
        · exact State.missWaits_mem ..

@[simp] theorem State.fetchPieces_mem (s : State) (ps : List (Nat × Nat)) (ini : Initiator) : (State.fetchPieces s ps ini).mem = s.mem := by
  unfold State.fetchPieces
  simp only [State.fetch_mem, foldl_mem, implies_true]

@[simp] theorem State.writeBackLine_mem (s : State) (l : Line) (qos : Nat) : (State.writeBackLine s l qos).mem = s.mem := by
  unfold State.writeBackLine
  split
  · rfl
  · split
    · split
      · rfl
      · exact State.deny_mem ..
    · rename_i h
      exact State.issueTxn_mem _ _ _ _ _ h

@[simp] theorem State.makeRoom_mem (s : State) (line qos : Nat) : (State.makeRoom s line qos).1.mem = s.mem := by
  unfold State.makeRoom
  dsimp only
  repeat' split
  all_goals simp only [State.writeBackLine_mem]

@[simp] theorem State.touchLine_mem (s : State) (line : Nat) (lanes : Byte) (qos : Nat) :
     (State.touchLine s line lanes qos).mem = s.mem := by
  unfold State.touchLine
  simp only [apply_ite State.mem, ite_self, State.makeRoom_mem]

@[simp] theorem State.cacheError_mem (s : State) (l : Line) (qos : Nat) : (State.cacheError s l qos).mem = s.mem := by
  unfold State.cacheError
  simp only [apply_ite State.mem, ite_self, State.writeBackLine_mem]

@[simp] theorem State.cacheEcc_mem (s : State) (line qos : Nat) (ecc : Ecc) : (State.cacheEcc s line qos ecc).mem = s.mem := by
  unfold State.cacheEcc
  split <;> simp only [State.cacheError_mem, State.uncorr_mem, State.report_mem]

@[simp] theorem State.tableUncorr_mem (s : State) (level : BitVec 4) (src : BitVec 16) (addr struct : Nat) :
     (State.tableUncorr s level src addr struct).mem = s.mem := by
  unfold State.tableUncorr
  simp only [State.uncorr_mem]

@[simp] theorem State.mspUncorr_mem (s : State) (m : Fin 6) (t : Txn) (struct : Nat) : (State.mspUncorr s m t struct).mem = s.mem := by
  unfold State.mspUncorr
  simp only [State.modMsp_mem, State.uncorr_mem]

@[simp] theorem State.mspCorrected_mem (s : State) (m : Fin 6) (t : Txn) (struct : Nat) :
     (State.mspCorrected s m t struct).mem = s.mem := by
  unfold State.mspCorrected
  simp only [State.report_mem]

@[simp] theorem State.mspViolation_mem (s : State) (m : Fin 6) (no ident : Nat) : (State.mspViolation s m no ident).mem = s.mem := by
  unfold State.mspViolation
  simp only [apply_ite State.mem, ite_self, State.mspUncorr_mem, State.instFatal_mem, State.report_mem, State.modMsp_mem, foldl_mem,
      implies_true]

@[simp] theorem State.mspWritten_mem (s : State) (m : Fin 6) (id : BitVec 12) (status : BitVec 2) :
     (State.mspWritten s m id status).mem = s.mem := by
  unfold State.mspWritten
  repeat' split
  all_goals simp only [State.modMsp_mem, State.mspCorrected_mem, State.mspUncorr_mem, State.mspViolation_mem]

@[simp] theorem State.mspLate_mem (s : State) (m : Fin 6) (id : BitVec 12) (now : Tick) : (State.mspLate s m id now).mem = s.mem := by
  unfold State.mspLate
  dsimp only
  repeat' split
  all_goals simp only [State.atTick_mem, State.mspUncorr_mem]

@[simp] theorem State.identsEnd_mem (s : State) : (State.identsEnd s).mem = s.mem := by
  unfold State.identsEnd
  simp only [apply_ite State.mem, ite_self, State.setPwr_mem, foldl_mem, implies_true]

@[simp] theorem State.mspIdent_mem (s : State) (m : Fin 6) (data : Word) : (State.mspIdent s m data).mem = s.mem := by
  unfold State.mspIdent
  simp only [apply_ite State.mem, ite_self, State.identsEnd_mem, State.modMsp_mem, State.mspViolation_mem, State.out_mem]

@[simp] theorem State.mspNoIdent_mem (s : State) (m : Fin 6) : (State.mspNoIdent s m).mem = s.mem := by
  unfold State.mspNoIdent
  simp only [apply_ite State.mem, ite_self, State.identsEnd_mem, State.modMsp_mem]

@[simp] theorem State.defaultAnswer_mem (s : State) (q : QuadNo) (addr : PAddr) (port : BitVec 5) (write : Bool) :
     (State.defaultAnswer s q addr port write).mem = s.mem := by
  unfold State.defaultAnswer
  simp only [State.modQuad_mem, State.report_mem]

@[simp] theorem State.poolTimeouts_mem (s : State) (target nclk : Nat) : (State.poolTimeouts s target nclk).mem = s.mem := by
  unfold State.poolTimeouts
  simp only [apply_ite State.mem, ite_self, State.uncorr_mem, foldl_mem, implies_true]

@[simp] theorem State.grant_mem (s : State) (target nclk : Nat) (arrivals : List Packet) (credits : List VChan) :
     (State.grant s target nclk arrivals credits).mem = s.mem := by
  unfold State.grant
  dsimp only
  repeat' split
  all_goals simp only [State.modQuad_mem, State.out_mem, State.poolTimeouts_mem]

@[simp] theorem State.turnRound_mem (s : State) (n : Fin 11) (up : Bool) : (State.turnRound s n up).mem = s.mem := by
  rfl

@[simp] theorem State.linkReport_mem (s : State) (l : Link) (cls : Byte) (sev : Sev) (replays : Nat) :
     (State.linkReport s l cls sev replays).mem = s.mem := by
  unfold State.linkReport
  simp only [State.report_mem]

@[simp] theorem State.setLinkFails_mem (s : State) (l : Link) (n : Nat) : (State.setLinkFails s l n).mem = s.mem := by
  rfl

@[simp] theorem State.modWq_mem (s : State) (w : Fin 4) (f : Wq → Wq) : (State.modWq s w f).mem = s.mem := by
  rfl

@[simp] theorem State.dropLost_mem (s : State) (lost : List Nat) : (State.dropLost s lost).mem = s.mem := by
  unfold State.dropLost
  simp only [State.out_mem, State.geoRewrite_mem]

@[simp] theorem State.afterReach_mem (s : State) (l : Link) (fails : Nat) (reach : BitVec 8) :
     (State.afterReach s l fails reach).mem = s.mem := by
  unfold State.afterReach
  simp only [apply_ite State.mem, ite_self, State.beginVoid_mem, State.wantHold_mem, State.dropLost_mem, State.geoRewrite_mem,
      State.instFatal_mem, State.linkReport_mem]

@[simp] theorem State.wqDown_mem (s : State) (w : Fin 4) (st : WqState) (reach : BitVec 8) : (State.wqDown s w st reach).mem = s.mem := by
  unfold State.wqDown
  simp only [State.modWq_mem, State.afterReach_mem]

@[simp] theorem State.attachLost_mem (s : State) (l : Link) (fails : Nat) : (State.attachLost s l fails).mem = s.mem := by
  unfold State.attachLost
  simp only [State.linkReport_mem, State.instFatal_mem]

@[simp] theorem State.linkDown_mem (s : State) (link : Link) (reach : BitVec 8) : (State.linkDown s link reach).mem = s.mem := by
  unfold State.linkDown
  dsimp only
  repeat' split
  all_goals simp only [State.afterReach_mem, State.wqDown_mem, State.linkReport_mem, State.beginVoid_mem, State.turnRound_mem,
      State.attachLost_mem, State.fence_mem, State.retireCell_mem]

@[simp] theorem State.flitFail_mem (s : State) (link : Link) (replayed : Bool) (reach : BitVec 8) :
     (State.flitFail s link replayed reach).mem = s.mem := by
  unfold State.flitFail
  dsimp only
  repeat' split
  all_goals simp only [State.linkDown_mem, State.modWq_mem, State.linkReport_mem, State.setLinkFails_mem]

@[simp] theorem State.startLs_mem (s : State) (e : EPort) (c : Cmd) : (State.startLs s e c).mem = s.mem := by
  unfold State.startLs
  dsimp only
  repeat' split
  all_goals simp only [State.complete_mem, State.modCell_mem, State.putCmd_mem]

@[simp] theorem State.stopLs_mem (s : State) (e : EPort) (c : Cmd) (p : LsProg) (code : Code) (detail : Word) :
     (State.stopLs s e c p code detail).mem = s.mem := by
  unfold State.stopLs
  simp only [State.complete_mem, State.modCell_mem]

@[simp] theorem State.lsAfter_mem (s : State) (e : EPort) (c : Cmd) (p : LsProg) : (State.lsAfter s e c p).mem = s.mem := by
  unfold State.lsAfter
  repeat' split
  all_goals simp only [State.complete_mem, State.putCmd_mem, State.stopLs_mem]

@[simp] theorem State.keepWalk_mem (s : State) (q : QuadNo) (va : Nat) : (State.keepWalk s q va).mem = s.mem := by
  rfl

@[simp] theorem State.cacheLeaves_mem (s : State) (q : QuadNo) (ps : List (Nat × Nat)) : (State.cacheLeaves s q ps).mem = s.mem := by
  unfold State.cacheLeaves
  simp only [State.keepWalk_mem, foldl_mem, implies_true]

@[simp] theorem State.walkEcc_mem (s : State) (reads : List Nat) (qos : Nat) (ecc : Ecc) : (State.walkEcc s reads qos ecc).mem = s.mem := by
  unfold State.walkEcc
  split <;> simp only [State.cacheEcc_mem]

@[simp] theorem State.failUncorr_mem (s : State) (e : EPort) (tag : Byte) : (State.failUncorr s e tag).mem = s.mem := by
  unfold State.failUncorr
  split <;> simp only [State.cancelStash_mem, State.complete_mem]

@[simp] theorem State.seekRow_mem (s : State) (e : EPort) (tag : Byte) (ps : List (Nat × Nat)) (ini : Initiator) :
     (State.seekRow s e tag ps ini).mem = s.mem := by
  unfold State.seekRow
  simp only [apply_ite State.mem, ite_self, State.failUncorr_mem, State.fetchPieces_mem]

@[simp] theorem State.rowWalk_mem (s : State) (e : EPort) (tag : Byte) (row : Nat) (store : Bool) (ecc : Ecc) :
     (State.rowWalk s e tag row store ecc).mem = s.mem := by
  unfold State.rowWalk
  dsimp only
  repeat' split
  all_goals simp only [State.defaultAnswer_mem, State.lsAfter_mem, State.putCmd_mem, State.cacheLeaves_mem, State.walkEcc_mem,
      State.failUncorr_mem, State.seekRow_mem]

@[simp] theorem State.landRows_mem (e : EPort) (t : TileNo) (n : Nat) (s : State) (p : LsProg) :
     (State.landRows e t n s p).1.mem = s.mem := by
  induction n generalizing s p with
  | zero => rfl
  | succ n ih =>
    unfold State.landRows
    split
    · rfl
    · simp only [ih, State.modCell_mem]

@[simp] theorem State.loadRow_mem (s : State) (e : EPort) (tag : Byte) (row : Nat) (ecc : Ecc) :
     (State.loadRow s e tag row ecc).mem = s.mem := by
  unfold State.loadRow
  dsimp only
  repeat' split
  all_goals simp only [State.lsAfter_mem, State.landRows_mem, State.failUncorr_mem, State.took_mem, State.walkEcc_mem, State.seekRow_mem]

@[simp] theorem State.rowDefault_mem (s : State) (e : EPort) (tag : Byte) (row : Nat) (store : Bool) (addr : Nat) :
     (State.rowDefault s e tag row store addr).mem = s.mem := by
  unfold State.rowDefault
  split <;> simp only [apply_ite State.mem, ite_self, State.lsAfter_mem]

@[simp] theorem State.modEntry_mem (s : State) (uid : Nat) (f : SEntry → SEntry) : (State.modEntry s uid f).mem = s.mem := by
  rfl

@[simp] theorem State.placeEntry_mem (s : State) (q : QuadNo) (uid : Nat) : (State.placeEntry s q uid).mem = s.mem := by
  unfold State.placeEntry
  simp only [State.modEntry_mem]

@[simp] theorem State.stashPennant_mem (s : State) (k : Put) (cls : Byte) (x : Nat) : (State.stashPennant s k cls x).mem = s.mem := by
  unfold State.stashPennant
  simp only [State.report_mem]

@[simp] theorem State.register_mem (s : State) (k : Put) (mark : Bool) : (State.register s k mark).mem = s.mem := by
  unfold State.register
  simp only [apply_ite State.mem, ite_self, State.stashPennant_mem]

@[simp] theorem State.deliver_mem (s : State) (p : PCell) (t : TileNo) (x : SEntry) : (State.deliver s p t x).mem = s.mem := by
  unfold State.deliver
  simp only [State.modCell_mem, State.modEntry_mem]

@[simp] theorem State.startStashget_mem (s : State) (e : EPort) (c : Cmd) : (State.startStashget s e c).mem = s.mem := by
  unfold State.startStashget
  dsimp only
  repeat' split
  all_goals simp only [State.complete_mem, State.modEntry_mem, State.putCmd_mem, State.stashPennant_mem]

@[simp] theorem State.sliceEcc_mem (s : State) (x : SEntry) (row : Nat) (ecc : Ecc) : (State.sliceEcc s x row ecc).mem = s.mem := by
  unfold State.sliceEcc
  dsimp only
  repeat' split
  all_goals simp only [State.tableUncorr_mem, State.report_mem, State.cacheEcc_mem]

theorem readRows_mem {α : Type} (rows : List α) (ecc : α → Ecc) (f : State → α → Ecc → State) (s : State)
    (h : ∀ s x k, (f s x k).mem = s.mem) : (readRows rows ecc f s).1.mem = s.mem := by
  unfold readRows
  dsimp only
  split
  · exact (h ..).trans (foldl_mem (fun s x => h s x _) _ _)
  · exact foldl_mem (fun s x => h s x _) _ _

@[simp] theorem State.putReads_mem (s : State) (p : PCell) (t : TileNo) (x : Tile) (ecc : List RowEcc) :
     (State.putReads s p t x ecc).1.mem = s.mem := by
  unfold State.putReads
  simp only [State.rowEcc_mem, readRows_mem, implies_true]

@[simp] theorem State.getReads_mem (s : State) (t : TileNo) (x : SEntry) (ecc : List RowEcc) :
     (State.getReads s t x ecc).1.mem = s.mem := by
  unfold State.getReads
  simp only [State.sliceEcc_mem, readRows_mem, implies_true]

@[simp] theorem State.startRunGet_mem (s : State) (q : QuadNo) (r : Run) (p : PCell) (c : TileCfg) :
     (State.startRunGet s q r p c).mem = s.mem := by
  unfold State.startRunGet
  dsimp only
  repeat' split
  all_goals simp only [State.endRun_mem, State.modEntry_mem, State.putRun_mem, State.stashPennant_mem]

@[simp] theorem State.runUncorr_mem (s : State) (q : QuadNo) (seq : Nat) : (State.runUncorr s q seq).mem = s.mem := by
  unfold State.runUncorr
  split <;> simp only [State.cancelStash_mem, State.tellWaiters_mem, State.dropRun_mem, State.forgetRun_mem]

@[simp] theorem State.seek_mem (s : State) (q : QuadNo) (seq : Nat) (ps : List (Nat × Nat)) (ini : Initiator) :
     (State.seek s q seq ps ini).mem = s.mem := by
  unfold State.seek
  simp only [apply_ite State.mem, ite_self, State.runUncorr_mem, State.fetchPieces_mem]

@[simp] theorem State.unregister_mem (s : State) (uid : Nat) : (State.unregister s uid).mem = s.mem := by
  rfl

@[simp] theorem State.stashTimeout_mem (s : State) (w : StashWho) : (State.stashTimeout s w).mem = s.mem := by
  unfold State.stashTimeout
  repeat' split
  all_goals simp only [State.putCmd_mem, State.putRun_mem, State.stashPennant_mem]

@[simp] theorem State.stashAbort_mem (s : State) : (State.stashAbort s).mem = s.mem := by
  unfold State.stashAbort
  simp only [State.complete_mem, State.endRun_mem, State.stashPennant_mem, foldl_mem, implies_true]

@[simp] theorem State.stashRefill_mem (s : State) (q : QuadNo) : (State.stashRefill s q).mem = s.mem := by
  unfold State.stashRefill
  split <;> simp only [apply_ite State.mem, ite_self, State.took_mem, State.modEntry_mem, State.placeEntry_mem, State.fetchPieces_mem]

@[simp] theorem State.walked_mem (s : State) (q : QuadNo) (vas : List Nat) (ini : Initiator) :
     (State.walked s q vas ini).1.mem = s.mem := by
  unfold State.walked
  dsimp only
  repeat' split
  all_goals simp only [State.cacheLeaves_mem, State.fetchPieces_mem]

@[simp] theorem State.walkedFor_mem (s : State) (q : QuadNo) (seq : Nat) (vas : List Nat) (ini : Initiator) :
     (State.walkedFor s q seq vas ini).1.mem = s.mem := by
  unfold State.walkedFor
  simp only [apply_ite State.mem, apply_ite Prod.fst, ite_self, State.runUncorr_mem, State.walked_mem]

theorem State.keeping_mem (s : State) (q : QuadNo) (ls : List Leaf) (f : State → State) (h : ∀ t : State, (f t).mem = t.mem) :
    (s.keeping q ls f).mem = s.mem := by
  unfold State.keeping
  split
  · exact h s
  · rw [State.modQuad_mem, h, State.modQuad_mem]

@[simp] theorem State.answerLine_mem (s : State) (q : QuadNo) (r : Run) (pa : Nat) (write : Bool) (va : Nat) :
     (State.answerLine s q r pa write va).1.mem = s.mem := by
  unfold State.answerLine
  simp only [apply_ite State.mem, apply_ite Prod.fst, ite_self, State.defaultAnswer_mem]

@[simp] theorem State.answerRun_mem (s : State) (q : QuadNo) (r : Run) (l : List (Nat × Bool)) :
     (State.answerRun s q r l).1.mem = s.mem := by
  unfold State.answerRun
  simp only [State.answerLine_mem, foldl_fst_mem, implies_true]

@[simp] theorem State.noteDefaults_mem (s : State) (q : QuadNo) (vas : List Nat) (write : Bool) :
     (State.noteDefaults s q vas write).mem = s.mem := by
  unfold State.noteDefaults
  simp only [State.defaultAnswer_mem, foldl_mem, implies_true]

@[simp] theorem State.posted_mem (s : State) (q : QuadNo) (l : List (Nat × Byte)) (ini : Initiator) :
     (State.posted s q l ini).mem = s.mem := by
  unfold State.posted
  simp only [State.sendAway_mem, foldl_mem, implies_true]

@[simp] theorem State.askNext_mem (s : State) (k : Kick) : (State.askNext s k).1.mem = s.mem := by
  unfold State.askNext
  repeat' split
  all_goals simp only [State.modGen_mem]

@[simp] theorem State.badKick_mem (s : State) (r : RouteId) (q : QuadNo) : (State.badKick s r q).mem = s.mem := by
  unfold State.badKick
  simp only [State.report_mem]

theorem State.takeKick_mem (s : State) (src : KickSrc) (r : RouteId) (x : State × Nat) (h : s.takeKick src r = some x) :
    x.1.mem = s.mem := by
  simp only [State.takeKick] at h
  repeat' split at h
  all_goals first | (cases h; simp only [State.askNext_mem]) | cases h

@[simp] theorem State.claim_mem (s : State) (r : Run) (ranges : List (Nat × Nat)) : (State.claim s r ranges).1.mem = s.mem := by
  unfold State.claim
  dsimp only
  repeat' split
  all_goals simp only [State.addNdet_mem]

@[simp] theorem State.claimAcc_mem (s : State) (r : Run) (dv : View) : (State.claimAcc s r dv).1.mem = s.mem := by
  unfold State.claimAcc
  dsimp only
  repeat' split
  all_goals simp only [State.addNdet_mem]

@[simp] theorem State.parStale_mem (s : State) (idx : BitVec 12) (route : Nat) (ctr : BitVec 16) :
     (State.parStale s idx route ctr).mem = s.mem := by
  unfold State.parStale
  simp only [State.report_mem]

@[simp] theorem State.writeNext_mem (s : State) (d : Desc) (route : RouteId) : (State.writeNext s d route).mem = s.mem := by
  unfold State.writeNext
  split <;> simp only [apply_ite State.mem, ite_self, State.modGen_mem, State.parStale_mem]

@[simp] theorem State.genRelease_mem (s : State) (route : RouteId) : (State.genRelease s route).mem = s.mem := by
  unfold State.genRelease
  split <;> simp only [apply_ite State.mem, ite_self, State.askNext_mem]

@[simp] theorem State.genLate_mem (s : State) (route : RouteId) : (State.genLate s route).mem = s.mem := by
  unfold State.genLate
  repeat' split
  all_goals simp only [State.report_mem]

@[simp] theorem State.tickKick_mem (s : State) (route : RouteId) : (State.tickKick s route).mem = s.mem := by
  unfold State.tickKick
  split
  · rfl
  · split
    · rfl
    · simp only []
      split
      · rename_i h; have w := State.takeKick_mem _ _ _ _ h; exact w
      · exact State.badKick_mem ..

@[simp] theorem foldBytes_mem (id : BitVec 16) (n : Nat) (s : State) (bs : List Byte) : (foldBytes id n s bs).1.mem = s.mem := by
  induction n generalizing s bs with
  | zero => rfl
  | succ n ih =>
    unfold foldBytes
    split
    · rfl
    · rw [ih, State.fold_mem]

@[simp] theorem State.landRow_mem (s : State) (l : LCell) (t : TileNo) (rb row : Nat) (data : Row) :
     (State.landRow s l t rb row data).mem = s.mem := by
  unfold State.landRow
  repeat' split
  all_goals simp only [State.modCell_mem]

@[simp] theorem State.landUnits_mem (s : State) (q : QuadNo) (r : Run) (u : Nat) : (State.landUnits s q r u).1.mem = s.mem := by
  unfold State.landUnits
  simp only [apply_ite State.mem, ite_self, State.fold_mem, State.landRow_mem, State.putRun_mem, foldl_mem, implies_true]

@[simp] theorem State.srcEcc_mem (s : State) (q : QuadNo) (r : Run) (u : Nat) (rows : List RowEcc) (ecc : Ecc) :
     (State.srcEcc s q r u rows ecc).1.mem = s.mem := by
  unfold State.srcEcc
  split <;> simp only [State.cacheEcc_mem, State.rowEcc_mem, readRows_mem, implies_true]

@[simp] theorem State.lineDefault_mem (s : State) (q : QuadNo) (route : RouteId) (pa va : Nat) (write : Bool) :
     (State.lineDefault s q route pa va write).mem = s.mem := by
  unfold State.lineDefault
  split <;> simp only [apply_ite State.mem, ite_self, State.putRun_mem, State.answerLine_mem]

@[simp] theorem State.enterWindow_mem (s : State) (q : QuadNo) (r : Run) (rows : List (Nat × Option Nat)) :
     (State.enterWindow s q r rows).mem = s.mem := by
  unfold State.enterWindow
  simp only [State.putRun_mem, State.modQuad_mem, State.answerRun_mem]

@[simp] theorem State.indexWindow_mem (s : State) (route : RouteId) (ecc : Ecc) : (State.indexWindow s route ecc).mem = s.mem := by
  unfold State.indexWindow
  dsimp only
  repeat' split
  all_goals simp only [State.enterWindow_mem, State.putRun_mem, State.took_mem, State.walkEcc_mem, State.runUncorr_mem, State.seek_mem,
      State.walkedFor_mem]

@[simp] theorem State.windowReads_mem (s : State) (q : QuadNo) (r : Run) (x : Window) (rows : List RowEcc) (ecc : Ecc) :
     (State.windowReads s q r x rows ecc).1.mem = s.mem := by
  unfold State.windowReads
  split <;> simp only [State.cacheEcc_mem, State.rowEcc_mem, readRows_mem, implies_true]

@[simp] theorem State.foldParts_mem (id : BitVec 16) (l : List Window) (s : State) : (State.foldParts id l s).1.mem = s.mem := by
  induction l generalizing s with
  | nil => rfl
  | cons x l ih =>
    unfold State.foldParts
    split
    · rfl
    · exact (ih _).trans (foldl_mem (fun s y => State.fold_mem ..) _ _)

@[simp] theorem State.foldDone_mem (s : State) (route : RouteId) (w : Nat) (rows : List RowEcc) (ecc : Ecc) :
     (State.foldDone s route w rows ecc).mem = s.mem := by
  unfold State.foldDone
  split
  · rfl
  · split
    · rfl
    · refine State.keeping_mem _ _ _ _ fun t => ?_
      dsimp only
      split
      · rfl
      · split
        · exact State.seek_mem ..
        · split
          · exact (State.runUncorr_mem ..).trans ((State.windowReads_mem ..).trans (State.took_mem ..))
          · rw [State.putRun_mem, State.foldParts_mem]
            split
            · exact (State.addNdet_mem ..).trans ((State.windowReads_mem ..).trans (State.took_mem ..))
            · exact (State.windowReads_mem ..).trans (State.took_mem ..)

@[simp] theorem State.startRkick_mem (s : State) (e : EPort) (c : Cmd) : (State.startRkick s e c).mem = s.mem := by
  unfold State.startRkick
  split
  · exact State.complete_mem ..
  · rename_i h; exact (State.putCmd_mem ..).trans (State.takeKick_mem _ _ _ _ h)

@[simp] theorem State.startRwait_mem (s : State) (e : EPort) (c : Cmd) : (State.startRwait s e c).mem = s.mem := by
  unfold State.startRwait
  repeat' split
  all_goals simp only [State.complete_mem, State.dropRun_mem, State.putCmd_mem, foldl_mem, implies_true]

@[simp] theorem State.badBeat_mem (s : State) (e : EPort) (op tag : Byte) (no : Nat) : (State.badBeat s e op tag no).mem = s.mem := by
  unfold State.badBeat
  simp only [apply_ite State.mem, ite_self, State.present_mem, State.violation_mem]

@[simp] theorem State.rvReads_mem (s : State) (e : EPort) (c : Cmd) (l : List (BitVec 7 × Ecc)) : (State.rvReads s e c l).mem = s.mem := by
  unfold State.rvReads
  dsimp only
  repeat' split
  all_goals simp only [State.putCmd_mem, State.rvEcc_mem, foldl_mem, implies_true]

@[simp] theorem State.cgRequest_mem (s : State) (e : EPort) (amt : BitVec 12) (aclk : Nat) :
     (State.cgRequest s e amt aclk).mem = s.mem := by
  unfold State.cgRequest
  simp only [apply_ite State.mem, ite_self, State.served_mem, State.atAclk_mem, State.out_mem]

@[simp] theorem State.refill_mem (s : State) (now : Tick) : (State.refill s now).mem = s.mem := by
  unfold State.refill
  simp only [apply_ite State.mem, ite_self, State.atTick_mem, State.serve_mem]

@[simp] theorem State.epErr_mem (s : State) (e : EPort) (v : BitVec 2) : (State.epErr s e v).mem = s.mem := by
  unfold State.epErr
  simp only [apply_ite State.mem, ite_self, State.beginVoid_mem, State.fence_mem, State.report_mem,
      State.retireCell_mem, State.stopStep_mem]

@[simp] theorem State.sendBlocks_mem (s : State) (r : Run) (dst shard level phase : Nat) (bs : List MergeBlk) :
     (State.sendBlocks s r dst shard level phase bs).mem = s.mem := by
  unfold State.sendBlocks
  try dsimp only
  all_goals try simp only [State.send_mem, foldl_fst_mem, implies_true]

@[simp] theorem State.mergeEnter_mem (s : State) (r : Run) (p : Nat) : (State.mergeEnter s r p).1.mem = s.mem := by
  unfold State.mergeEnter
  dsimp only
  repeat' split
  all_goals simp only [State.sendBlocks_mem]

@[simp] theorem State.mergeAdd_mem (s : State) (r : Run) (b : MergeBlk) : (State.mergeAdd s r b).1.mem = s.mem := by
  unfold State.mergeAdd
  dsimp only
  repeat' split
  all_goals simp only []

@[simp] theorem State.mergeTake_mem (s : State) (r : Run) (b : Nat) : (State.mergeTake s r b).1.mem = s.mem := by
  unfold State.mergeTake
  dsimp only
  repeat' split
  all_goals simp only []

@[simp] theorem State.mergePull_mem (s : State) (r : Run) : (State.mergePull s r).1.mem = s.mem := by
  unfold State.mergePull
  dsimp only
  repeat' split
  all_goals simp only [foldl_fst_mem, State.mergeAdd_mem, State.mergeTake_mem, implies_true]

@[simp] theorem mergeAdvance_mem (n : Nat) (s : State) (r : Run) : (mergeAdvance n s r).1.mem = s.mem := by
  induction n generalizing s r with
  | zero => rfl
  | succ n ih =>
    unfold mergeAdvance
    simp only [apply_ite State.mem, apply_ite Prod.fst, ih, State.mergeEnter_mem, State.mergePull_mem, ite_self]

@[simp] theorem State.sendPar_mem (s : State) (dst : Nat) (last : Bool) (pre : List Byte) (body : List Byte) :
     (State.sendPar s dst last pre body).mem = s.mem := by
  unfold State.sendPar
  simp only [State.send_mem]

@[simp] theorem State.sendRebuild_mem (s : State) (dst group kind : Nat) (odd : Bool) (member line count : Nat) (body : List Byte) :
     (State.sendRebuild s dst group kind odd member line count body).mem = s.mem := by
  unfold State.sendRebuild
  simp only [State.send_mem]

@[simp] theorem State.sendDelta_mem (s : State) (g : Gen) (k : Nat) (ds : List Row) : (State.sendDelta s g k ds).mem = s.mem := by
  unfold State.sendDelta
  simp only [apply_ite State.mem, ite_self, State.sendPar_mem]

@[simp] theorem State.parityUnit_mem (s : State) (q : QuadNo) (r : Run) (k : Nat) (ecc : Ecc) :
     (State.parityUnit s q r k ecc).mem = s.mem := by
  unfold State.parityUnit
  split
  · rfl
  · extract_lets ls va vas w
    have hw : w.1.mem = s.mem := State.walkedFor_mem ..
    clear_value w vas va ls
    split
    · rfl
    · split
      · exact hw
      · split
        · exact (State.endRun_mem ..).trans hw
        · split
          · exact (State.seek_mem ..).trans hw
          · split
            · exact (State.runUncorr_mem ..).trans ((State.walkEcc_mem ..).trans hw)
            · exact (State.putRun_mem ..).trans ((State.sendDelta_mem ..).trans ((foldl_mem (fun s d => State.fold_mem ..) _ _).trans
                ((State.answerRun_mem ..).trans ((State.walkEcc_mem ..).trans ((State.took_mem ..).trans hw)))))

@[simp] theorem State.takeDelta_mem (s : State) (m : XMsg) : (State.takeDelta s m).mem = s.mem := by
  unfold State.takeDelta
  simp only [apply_ite State.mem, ite_self, State.sendPar_mem]

@[simp] theorem State.takeParAck_mem (s : State) (m : XMsg) : (State.takeParAck s m).mem = s.mem := by
  unfold State.takeParAck
  simp only [apply_ite State.mem, ite_self]

@[simp] theorem State.sendMirror_mem (s : State) : (State.sendMirror s).mem = s.mem := by
  unfold State.sendMirror
  simp only [apply_ite State.mem, apply_ite Prod.fst, ite_self, State.sendPar_mem, foldl_mem, foldl_fst_mem, implies_true]

@[simp] theorem State.mirrorAgain_mem (s : State) : (State.mirrorAgain s).mem = s.mem := by
  unfold State.mirrorAgain
  simp only [apply_ite State.mem, ite_self, State.sendMirror_mem]

@[simp] theorem State.takeMirror_mem (s : State) (m : XMsg) : (State.takeMirror s m).mem = s.mem := by
  unfold State.takeMirror
  dsimp only
  repeat' split
  all_goals simp only [apply_ite State.mem, apply_ite Prod.fst, ite_self, State.sendPar_mem, foldl_mem, foldl_fst_mem, implies_true]

@[simp] theorem State.pull_mem (src n : Nat) (s : State) (r : Rebuild) : (State.pull src n s r).1.mem = s.mem := by
  induction n generalizing s r with
  | zero => rfl
  | succ n ih =>
    unfold State.pull
    dsimp only
    split
    · rfl
    · rw [ih, State.sendRebuild_mem]

@[simp] theorem State.pullAll_mem (s : State) (r : Rebuild) : (State.pullAll s r).1.mem = s.mem := by
  exact foldl_fst_mem (fun a i => State.pull_mem ..) _ _

@[simp] theorem State.solveLine_mem (s : State) (r : Rebuild) (j : Nat) : (State.solveLine s r j).mem = s.mem := by
  unfold State.solveLine
  simp only [apply_ite State.mem, ite_self, State.sendRebuild_mem, foldl_mem, implies_true]

@[simp] theorem State.sendMirrors_mem (s : State) (r : Rebuild) : (State.sendMirrors s r).mem = s.mem := by
  unfold State.sendMirrors
  simp only [State.sendRebuild_mem, foldl_mem, implies_true]

@[simp] theorem State.setRebuild_mem (s : State) (h m : Option Rebuild) : (State.setRebuild s h m).mem = s.mem := by
  rfl

@[simp] theorem State.replacementFails_mem (s : State) (chip : BitVec 16) : (State.replacementFails s chip).mem = s.mem := by
  unfold State.replacementFails
  simp only [apply_ite State.mem, ite_self, State.setRebuild_mem]

@[simp] theorem State.covered_mem (s : State) (r : Rebuild) : (State.covered s r).mem = s.mem := by
  unfold State.covered
  simp only [apply_ite State.mem, ite_self]

@[simp] theorem State.nextSlot_mem (s : State) (r : Rebuild) : (State.nextSlot s r).mem = s.mem := by
  unfold State.nextSlot
  simp only [apply_ite State.mem, ite_self, State.covered_mem, State.sendMirrors_mem, State.sendRebuild_mem, State.pullAll_mem,
      State.setRebuild_mem]

@[simp] theorem State.solveReady_mem (s : State) (r : Rebuild) (js : List Nat) : (State.solveReady s r js).mem = s.mem := by
  unfold State.solveReady
  simp only [State.nextSlot_mem, State.pullAll_mem, State.solveLine_mem, foldl_mem, implies_true]

@[simp] theorem State.combine_mem (s : State) (r : Rebuild) (src line : Nat) (rows : List Row) :
     (State.combine s r src line rows).mem = s.mem := by
  unfold State.combine
  simp only [State.solveReady_mem]

@[simp] theorem State.badLine_mem (s : State) (r : Rebuild) (src j : Nat) : (State.badLine s r src j).mem = s.mem := by
  unfold State.badLine
  simp only [apply_ite State.mem, ite_self, State.solveReady_mem, State.sendRebuild_mem, State.setRebuild_mem]

@[simp] theorem State.readImage_mem (s : State) (j : Nat) (odd : Bool) (n : Nat) : (State.readImage s j odd n).mem = s.mem := by
  unfold State.readImage
  split
  · rfl
  · split
    · exact foldl_mem (fun s x => State.cacheEcc_mem ..) _ _
    · rfl

@[simp] theorem State.answerPull_mem (s : State) (m : XMsg) (fails : List (Nat × Nat)) : (State.answerPull s m fails).mem = s.mem := by
  unfold State.answerPull
  simp only [apply_ite State.mem, ite_self, State.readImage_mem, State.sendRebuild_mem, foldl_mem, implies_true]

@[simp] theorem State.takeShare_mem (s : State) (m : XMsg) (rows : List Row) : (State.takeShare s m rows).mem = s.mem := by
  rfl

@[simp] theorem State.installMark_mem (s : State) (w : BitVec 128) : (State.installMark s w).mem = s.mem := by
  unfold State.installMark
  simp only [apply_ite State.mem, ite_self]

@[simp] theorem State.holderMsg_mem (s : State) (r : Rebuild) (m : XMsg) (rows : List Row) : (State.holderMsg s r m rows).mem = s.mem := by
  unfold State.holderMsg
  dsimp only
  repeat' split
  all_goals simp only [State.setRebuild_mem, State.takeShare_mem, State.combine_mem, State.badLine_mem]

@[simp] theorem State.startRebuild_mem (s : State) (role : Byte) (lost : List Nat) (holders : BitVec 2) (two : Bool) :
     (State.startRebuild s role lost holders two).mem = s.mem := by
  unfold State.startRebuild
  simp only [apply_ite State.mem, ite_self, State.nextSlot_mem, State.pullAll_mem, State.setRebuild_mem]

@[simp] theorem State.takeParity_mem (s : State) (m : XMsg) : (State.takeParity s m).mem = s.mem := by
  unfold State.takeParity
  split <;> simp only [State.takeDelta_mem, State.takeMirror_mem, State.takeParAck_mem]

@[simp] theorem State.sendDigest_mem (s : State) (step : BitVec 48) (es : List DEntry) : (State.sendDigest s step es).mem = s.mem := by
  unfold State.sendDigest
  simp only [State.sendOf_mem]

@[simp] theorem State.restartStreams_mem (s : State) : (State.restartStreams s).mem = s.mem := by
  rfl

@[simp] theorem State.endDigest_mem (s : State) : (State.endDigest s).mem = s.mem := by
  unfold State.endDigest
  simp only [apply_ite State.mem, ite_self, State.sendDigest_mem, State.ownEntry_mem, State.restartStreams_mem, foldl_mem, implies_true]

@[simp] theorem State.digestExchange_mem (s : State) (now : Tick) : (State.digestExchange s now).mem = s.mem := by
  unfold State.digestExchange
  simp only [apply_ite State.mem, ite_self, State.atTick_mem, State.sendDigest_mem, foldl_mem, implies_true]

@[simp] theorem State.openRec_mem (s : State) (opened : Tick) : (State.openRec s opened).mem = s.mem := by
  rfl

@[simp] theorem State.applyJob_mem (s : State) (c : JobCfg) : (State.applyJob s c).mem = s.mem := by
  unfold State.applyJob
  simp only []

@[simp] theorem State.applyDet_mem (s : State) (b : Bool) : (State.applyDet s b).mem = s.mem := by
  rfl

@[simp] theorem State.applyDeferred_mem (s : State) : (State.applyDeferred s).mem = s.mem := by
  unfold State.applyDeferred
  dsimp only
  repeat' split
  all_goals simp only [State.applyDet_mem, State.applyJob_mem, foldl_mem, implies_true]

@[simp] theorem State.flipReport_mem (s : State) (g : Gen) : (State.flipReport s g).mem = s.mem := by
  unfold State.flipReport
  simp only [apply_ite State.mem, ite_self, State.parStale_mem, State.report_mem]

@[simp] theorem State.flipAll_mem (s : State) : (State.flipAll s).mem = s.mem := by
  unfold State.flipAll
  simp only [State.flipReport_mem, foldl_mem, implies_true]

@[simp] theorem State.steadyWaits_mem (s : State) : (State.steadyWaits s).mem = s.mem := by
  rfl

@[simp] theorem State.releaseWaits_mem (s : State) : (State.releaseWaits s).mem = s.mem := by
  unfold State.releaseWaits
  simp only [State.askNext_mem, State.steadyWaits_mem, foldl_mem, implies_true]

@[simp] theorem State.mapTables_mem (s : State) : (State.mapTables s).mem = s.mem := by
  unfold State.mapTables
  simp only [State.report_mem, foldl_mem, implies_true]

@[simp] theorem State.unitsBoundary_mem (s : State) : (State.unitsBoundary s).mem = s.mem := by
  unfold State.unitsBoundary
  simp only [State.flipAll_mem, State.mapTables_mem]

@[simp] theorem State.ckptFail_mem (s : State) (g : Gen) : (State.ckptFail s g).mem = s.mem := by
  unfold State.ckptFail
  simp only [State.report_mem]

@[simp] theorem State.fixHome_mem (s : State) : (State.fixHome s).mem = s.mem := by
  unfold State.fixHome
  simp only [apply_ite State.mem, ite_self]

@[simp] theorem State.activate_mem (s : State) : (State.activate s).mem = s.mem := by
  unfold State.activate
  simp only [State.setPwr_mem, foldl_mem, implies_true]

@[simp] theorem State.armPeers_mem (s : State) : (State.armPeers s).mem = s.mem := by
  unfold State.armPeers
  simp only [apply_ite State.mem, ite_self, foldl_mem, implies_true]

@[simp] theorem State.applyStepUs_mem (s : State) (anchor : Tick) : (State.applyStepUs s anchor).mem = s.mem := by
  unfold State.applyStepUs
  split <;> simp only []

@[simp] theorem State.park_mem (s : State) : (State.park s).mem = s.mem := by
  rfl

@[simp] theorem State.rekick_mem (s : State) : (State.rekick s).mem = s.mem := by
  unfold State.rekick
  simp only [State.askNext_mem, foldl_mem, implies_true]

@[simp] theorem State.launchIds_mem (s : State) (ids : List IdSample) : (State.launchIds s ids).mem = s.mem := by
  unfold State.launchIds
  simp only [State.sampleId_mem, foldl_mem, implies_true]

@[simp] theorem State.countMarks_mem (s : State) : (State.countMarks s).mem = s.mem := by
  rfl

@[simp] theorem State.markCarried_mem (s : State) : (State.markCarried s).mem = s.mem := by
  rfl

@[simp] theorem State.dueTick_mem (s : State) (now : Tick) : (State.dueTick s now).mem = s.mem := by
  unfold State.dueTick
  simp only [apply_ite State.mem, ite_self, State.atTick_mem, State.markCarried_mem]

@[simp] theorem State.decideTick_mem (s : State) (now : Tick) : (State.decideTick s now).mem = s.mem := by
  unfold State.decideTick
  simp only [apply_ite State.mem, ite_self, State.out_mem, State.markCarried_mem, State.atTick_mem]

@[simp] theorem State.newVoid_mem (s : State) (cause : Byte) : (State.newVoid s cause).mem = s.mem := by
  unfold State.newVoid
  simp only [apply_ite State.mem, ite_self, State.enterHold_mem, State.report_mem, State.request_mem]

@[simp] theorem State.replay_mem (s : State) : (State.replay s).mem = s.mem := by
  unfold State.replay
  simp only [State.activate_mem, State.rekick_mem, State.mirrorAgain_mem, State.modRec_mem]

@[simp] theorem State.replayTick_mem (s : State) (now : Tick) : (State.replayTick s now).mem = s.mem := by
  unfold State.replayTick
  simp only [apply_ite State.mem, ite_self, State.atTick_mem, State.newVoid_mem, State.replay_mem]

@[simp] theorem State.agreeTimeout_mem (s : State) (now : Tick) : (State.agreeTimeout s now).mem = s.mem := by
  unfold State.agreeTimeout
  simp only [apply_ite State.mem, ite_self, State.atTick_mem, State.newVoid_mem]

@[simp] theorem State.mapRow_mem (s : State) (p : PCell) (t : TileNo) (row : RowNo) (failing : List (Fin 8)) :
     (State.mapRow s p t row failing).1.mem = s.mem := by
  unfold State.mapRow
  simp only [apply_ite State.mem, apply_ite Prod.fst, ite_self, State.report_mem, State.modCell_mem, foldl_fst_mem, implies_true]

@[simp] theorem State.rowTested_mem (s : State) (t : RowTest) : (State.rowTested s t).mem = s.mem := by
  unfold State.rowTested
  simp only [apply_ite State.mem, ite_self, State.retireCell_mem, State.mapRow_mem, State.modCell_mem]

@[simp] theorem State.cleanupDone_mem (s : State) (tests : List RowTest) : (State.cleanupDone s tests).mem = s.mem := by
  unfold State.cleanupDone
  simp only [apply_ite State.mem, ite_self, State.enterHold_mem, State.rowTested_mem, foldl_mem, implies_true]

@[simp] theorem State.modXsp_mem (s : State) (x : Fin 2) (f : Xsp → Xsp) : (State.modXsp s x f).mem = s.mem := by
  rfl

@[simp] theorem State.xspViolation_mem (s : State) (x : Fin 2) (no : Nat) (seq : BitVec 32) :
     (State.xspViolation s x no seq).mem = s.mem := by
  unfold State.xspViolation
  simp only [apply_ite State.mem, ite_self, State.beginVoid_mem, State.instFatal_mem, State.modXsp_mem, State.report_mem]

@[simp] theorem State.heard_mem (s : State) (m : XMsg) : (State.heard s m).mem = s.mem := by
  rfl

@[simp] theorem State.xspIntake_mem (s : State) (x : Fin 2) (m : XMsg) : (State.xspIntake s x m).1.mem = s.mem := by
  unfold State.xspIntake
  repeat' split
  all_goals simp only [State.heard_mem, State.xspViolation_mem]

theorem State.onMsg_mem (s : State) (x : Fin 2) (m : XMsg) (type : Byte) (f : State → State) (h : ∀ s, (f s).mem = s.mem) :
    (s.onMsg x m type f).mem = s.mem := by
  unfold State.onMsg
  simp only [apply_ite State.mem, h, State.xspIntake_mem, ite_self]

@[simp] theorem State.adoptVoids_mem (s : State) (v : BitVec 16) : (State.adoptVoids s v).mem = s.mem := by
  unfold State.adoptVoids
  simp only [apply_ite State.mem, ite_self]

@[simp] theorem State.loopCheck_mem (s : State) : (State.loopCheck s).mem = s.mem := by
  unfold State.loopCheck
  simp only [apply_ite State.mem, ite_self, State.report_mem]

@[simp] theorem State.joinVoid_mem (s : State) (m : XMsg) (v : BitVec 16) : (State.joinVoid s m v).mem = s.mem := by
  unfold State.joinVoid
  simp only [apply_ite State.mem, ite_self, State.stopStep_mem, State.enterHold_mem, State.request_mem, State.adoptVoids_mem,
      State.loopCheck_mem, State.report_mem]

@[simp] theorem State.leadRequest_mem (s : State) (nb : Nat) (hold : Bool) : (State.leadRequest s nb hold).mem = s.mem := by
  unfold State.leadRequest
  simp only [apply_ite State.mem, ite_self, State.enterHold_mem, State.leaderTake_mem]

@[simp] theorem State.takeAnnounce_mem (s : State) (r : Nat) : (State.takeAnnounce s r).mem = s.mem := by
  unfold State.takeAnnounce
  simp only [apply_ite State.mem, ite_self, State.newVoid_mem, State.tellReplay_mem]

@[simp] theorem State.takeHold_mem (s : State) : (State.takeHold s).mem = s.mem := by
  unfold State.takeHold
  simp only [apply_ite State.mem, ite_self, State.enterHold_mem]

@[simp] theorem State.takeVoid_mem (s : State) (m : XMsg) : (State.takeVoid s m).mem = s.mem := by
  unfold State.takeVoid
  simp only [apply_ite State.mem, ite_self, State.joinVoid_mem, State.leadRequest_mem, State.takeAnnounce_mem,
      State.takeHold_mem]

@[simp] theorem State.heartbeat_mem (s : State) (now : Tick) : (State.heartbeat s now).mem = s.mem := by
  unfold State.heartbeat
  simp only [apply_ite State.mem, ite_self, State.atTick_mem, State.send_mem, foldl_mem, implies_true]

@[simp] theorem State.peerLost_mem (s : State) (chip : BitVec 16) (now : Tick) : (State.peerLost s chip now).mem = s.mem := by
  unfold State.peerLost
  dsimp only
  repeat' split
  all_goals simp only [State.report_mem, State.wantHold_mem, State.replacementFails_mem, State.atTick_mem]

@[simp] theorem State.takeDigest_mem (s : State) (m : XMsg) : (State.takeDigest s m).mem = s.mem := by
  unfold State.takeDigest
  simp only [apply_ite State.mem, ite_self, State.peerEntry_mem, State.flagStep_mem, foldl_mem, implies_true]

@[simp] theorem State.syncPulse_mem (s : State) (now : Tick) : (State.syncPulse s now).mem = s.mem := by
  unfold State.syncPulse
  simp only [apply_ite State.mem, ite_self, State.atTick_mem, State.send_mem]

@[simp] theorem State.holdover_mem (s : State) (now : Tick) : (State.holdover s now).mem = s.mem := by
  unfold State.holdover
  simp only [apply_ite State.mem, ite_self, State.atTick_mem]

@[simp] theorem State.steer_mem (s : State) (e : Int) : (State.steer s e).mem = s.mem := by
  unfold State.steer
  simp only [apply_ite State.mem, ite_self, State.out_mem]

@[simp] theorem State.takeValue_mem (s : State) (m : XMsg) : (State.takeValue s m).mem = s.mem := by
  unfold State.takeValue
  dsimp only
  repeat' split
  all_goals simp only [State.out_mem, State.steer_mem]

@[simp] theorem State.timingFlit_mem (s : State) (g launch : Tick) (clErr : BitVec 16) (load : Bool) :
     (State.timingFlit s g launch clErr load).mem = s.mem := by
  unfold State.timingFlit
  simp only [apply_ite State.mem, ite_self]

@[simp] theorem State.setWord_mem (s : State) (w : BitVec 64) : (State.setWord s w).mem = s.mem := by
  rfl

@[simp] theorem State.trained_mem (s : State) (w : Fin 4) (reversed both : Bool) (w0 w1 w2 w3 : BitVec 64) :
     (State.trained s w reversed both w0 w1 w2 w3).mem = s.mem := by
  unfold State.trained
  simp only [apply_ite State.mem, ite_self, State.setWord_mem, State.geoRewrite_mem, State.out_mem, State.modWq_mem, foldl_mem,
      implies_true]

@[simp] theorem State.trainLate_mem (s : State) (w : Fin 4) : (State.trainLate s w).mem = s.mem := by
  unfold State.trainLate
  simp only [apply_ite State.mem, ite_self, State.modWq_mem]

@[simp] theorem State.leavePackage_mem (s : State) : (State.leavePackage s).mem = s.mem := by
  unfold State.leavePackage
  simp only [State.instFatal_mem, State.report_mem]

@[simp] theorem State.startBoot_mem (s : State) : (State.startBoot s).mem = s.mem := by
  unfold State.startBoot
  simp only [apply_ite State.mem, ite_self]

@[simp] theorem State.joinSet_mem (s : State) (l : List (BitVec 64)) (gtc : Tick) (canon : BitVec 8) :
     (State.joinSet s l gtc canon).mem = s.mem := by
  unfold State.joinSet
  simp only [apply_ite State.mem, ite_self, State.out_mem, State.setWord_mem, State.startBoot_mem, foldl_mem, implies_true]

@[simp] theorem State.passWords_mem (s : State) : (State.passWords s).mem = s.mem := by
  exact foldl_mem (fun s i => by split <;> rfl) _ _

@[simp] theorem State.takePresent_mem (s : State) (reach : BitVec 8) (gtc : Tick) (canon : BitVec 8) :
     (State.takePresent s reach gtc canon).mem = s.mem := by
  unfold State.takePresent
  simp only [apply_ite State.mem, ite_self, State.geoRewrite_mem]

@[simp] theorem State.comeLate_mem (s : State) (l : List (BitVec 64)) : (State.comeLate s l).mem = s.mem := by
  unfold State.comeLate
  simp only [State.startBoot_mem, State.setWord_mem, foldl_mem, implies_true]

@[simp] theorem State.settlement_mem (s : State) (words : List (BitVec 64)) (reach : BitVec 8) (gtc : Tick) (canon : BitVec 8) (late : Bool) :
     (State.settlement s words reach gtc canon late).mem = s.mem := by
  unfold State.settlement
  simp only [apply_ite State.mem, ite_self, State.comeLate_mem, State.leavePackage_mem, State.joinSet_mem, State.setWord_mem,
      State.passWords_mem, State.takePresent_mem, foldl_mem, implies_true]

@[simp] theorem State.peerWord_mem (s : State) (w : BitVec 64) (canon : Bool) : (State.peerWord s w canon).mem = s.mem := by
  unfold State.peerWord
  simp only [apply_ite State.mem, ite_self, State.geoRewrite_mem, State.setWord_mem]

@[simp] theorem State.lateJoin_mem (s : State) (id : BitVec 3) : (State.lateJoin s id).mem = s.mem := by
  unfold State.lateJoin
  simp only [apply_ite State.mem, ite_self]

@[simp] theorem State.laterReplay_mem (s : State) (nb : Nat) : (State.laterReplay s nb).mem = s.mem := by
  unfold State.laterReplay
  simp only [apply_ite State.mem, ite_self, State.request_mem, State.leaderTake_mem]

@[simp] theorem State.voidReport_mem (s : State) (id : BitVec 3) (cause : Byte) (hold : HoldAsk) (nb : Tick) :
     (State.voidReport s id cause hold nb).mem = s.mem := by
  unfold State.voidReport
  simp only [apply_ite State.mem, ite_self, State.stopStep_mem, State.beginVoid_mem, State.laterReplay_mem, State.wantHold_mem]

@[simp] theorem State.ringWrite_mem (s : State) (r : Report) (coal : Bool) : (State.ringWrite s r coal).mem = s.mem := by
  unfold State.ringWrite
  simp only [apply_ite State.mem, ite_self, State.setIrq_mem]

@[simp] theorem State.enterCoal_mem (s : State) : (State.enterCoal s).mem = s.mem := by
  unfold State.enterCoal
  simp only [apply_ite State.mem, ite_self, State.setIrq_mem]

@[simp] theorem State.tableAdd_mem (s : State) (r : Report) : (State.tableAdd s r).mem = s.mem := by
  unfold State.tableAdd
  simp only [apply_ite State.mem, ite_self, State.loseN_mem]

@[simp] theorem State.recordOne_mem (s : State) (r : Report) : (State.recordOne s r).mem = s.mem := by
  unfold State.recordOne
  simp only [apply_ite State.mem, ite_self, State.enterCoal_mem, State.ringWrite_mem, State.loseN_mem, State.tableAdd_mem]

@[simp] theorem State.drain_mem (s : State) : (State.drain s).mem = s.mem := by
  unfold State.drain
  dsimp only
  repeat' split
  all_goals simp only [State.ringWrite_mem]

@[simp] theorem State.flushBegin_mem (s : State) : (State.flushBegin s).mem = s.mem := by
  unfold State.flushBegin
  simp only [State.enterCoal_mem]

@[simp] theorem State.noticeFalls_mem (s : State) : (State.noticeFalls s).mem = s.mem := by
  unfold State.noticeFalls
  simp only [apply_ite State.mem, ite_self, State.flushBegin_mem]

@[simp] theorem State.noticeRises_mem (s : State) : (State.noticeRises s).mem = s.mem := by
  rfl

@[simp] theorem State.resetRises_mem (s : State) (r : Release) : (State.resetRises s r).mem = s.mem := by
  unfold State.resetRises
  simp only [apply_ite State.mem, ite_self, State.recordId_mem, State.report_mem, foldl_mem, implies_true]

@[simp] theorem State.startFails_mem (s : State) (p : PCell) (stage : Nat) : (State.startFails s p stage).mem = s.mem := by
  unfold State.startFails
  simp only [apply_ite State.mem, ite_self, State.jackfail_mem, State.modCell_mem, State.shutdown_mem]

@[simp] theorem State.checkIds_mem (s : State) : (State.checkIds s).mem = s.mem := by
  unfold State.checkIds
  simp only [apply_ite State.mem, ite_self, State.fenceRetire_mem, State.jackfail_mem, foldl_mem, implies_true]

@[simp] theorem State.startWiped_mem (s : State) (bad : List PCell) : (State.startWiped s bad).mem = s.mem := by
  unfold State.startWiped
  simp only [apply_ite State.mem, ite_self, State.checkIds_mem, State.modCell_mem, State.startFails_mem, foldl_mem,
      implies_true]

@[simp] theorem State.modMb_mem (s : State) (n : Nat) (f : Mbox → Mbox) : (State.modMb s n f).mem = s.mem := by
  rfl

@[simp] theorem State.respond_mem (s : State) (n : Nat) (bits : BitVec 2048) : (State.respond s n bits).mem = s.mem := by
  unfold State.respond
  simp only [State.modMb_mem, State.setIrq_mem]

@[simp] theorem State.wipeFails_mem (s : State) (p : PCell) : (State.wipeFails s p).mem = s.mem := by
  unfold State.wipeFails
  dsimp only
  repeat' split
  all_goals simp only [State.startFails_mem, State.modCell_mem]

@[simp] theorem State.chunk_mem (s : State) : (State.chunk s).mem = s.mem := by
  unfold State.chunk
  split <;> simp only [apply_ite State.mem, ite_self, State.respond_mem]

@[simp] theorem State.buildMap_mem (s : State) : (State.buildMap s).mem = s.mem := by
  unfold State.buildMap
  refine foldl_mem (fun s l => ?_) _ _
  dsimp only
  repeat' split
  all_goals rfl

@[simp] theorem State.finishStart_mem (s : State) : (State.finishStart s).mem = s.mem := by
  unfold State.finishStart
  simp only [apply_ite State.mem, ite_self, State.buildMap_mem, State.geoRewrite_mem, State.geoWrite_mem, State.shutdown_mem, foldl_mem,
      implies_true]

@[simp] theorem State.sendWords_mem (s : State) : (State.sendWords s).mem = s.mem := by
  unfold State.sendWords
  simp only [apply_ite State.mem, ite_self, State.out_mem, foldl_mem, implies_true]

@[simp] theorem State.askToJoin_mem (s : State) : (State.askToJoin s).mem = s.mem := by
  unfold State.askToJoin
  simp only [apply_ite State.mem, ite_self, State.out_mem]

@[simp] theorem State.verified_mem (s : State) : (State.verified s).mem = s.mem := by
  unfold State.verified
  simp only [apply_ite State.mem, ite_self, State.sendWords_mem, State.askToJoin_mem, State.finishStart_mem, State.respond_mem]

@[simp] theorem State.recordIds_mem (s : State) (p : PCell) (ids : List IdSample) : (State.recordIds s p ids).mem = s.mem := by
  unfold State.recordIds
  simp only [State.recordId_mem, foldl_mem, implies_true]

@[simp] theorem State.fenceIds_mem (s : State) (p : PCell) (ids : List IdSample) : (State.fenceIds s p ids).mem = s.mem := by
  refine foldl_mem (fun s b => ?_) _ _
  split
  · simp only [apply_ite State.mem, State.fence_mem, ite_self]
  · exact State.fence_mem ..

@[simp] theorem State.setFillStage_mem (s : State) (f : Fill) (n : BitVec 3) : (State.setFillStage s f n).mem = s.mem := by
  rfl

@[simp] theorem State.passOver_mem (s : State) (f : Fill) : (State.passOver s f).mem = s.mem := by
  unfold State.passOver
  simp only [State.noteSkips_mem, State.nextFill_mem, State.modCell_mem]

@[simp] theorem State.mapFill_mem (s : State) (f : Fill) : (State.mapFill s f).mem = s.mem := by
  unfold State.mapFill
  simp only [apply_ite State.mem, ite_self, State.geoRewrite_mem, State.nextFill_mem, State.modCell_mem, State.passOver_mem]

@[simp] theorem State.wipeCell_mem (s : State) (p : PCell) : (State.wipeCell s p).mem = s.mem := by
  unfold State.wipeCell
  simp only [State.modCell_mem]

@[simp] theorem State.softRepair_mem (s : State) (p : PCell) (rows : List RowTest) : (State.softRepair s p rows).1.mem = s.mem := by
  unfold State.softRepair
  simp only [apply_ite State.mem, apply_ite Prod.fst, ite_self, State.mapRow_mem, foldl_fst_mem, implies_true]

@[simp] theorem State.fillStage_mem (s : State) (pass : Bool) (ids : List IdSample) (rows : List RowTest) :
     (State.fillStage s pass ids rows).mem = s.mem := by
  unfold State.fillStage
  dsimp only
  repeat' split
  all_goals simp only [State.mapFill_mem, State.fenceIds_mem, State.recordIds_mem, State.softRepair_mem, State.wipeCell_mem,
      State.setPwr_mem, State.setFillStage_mem, State.abortFill_mem]

@[simp] theorem State.stageFails_mem (s : State) (p : PCell) (stage : Nat) : (State.stageFails s p stage).mem = s.mem := by
  unfold State.stageFails
  simp only [apply_ite State.mem, ite_self, State.jackfail_mem, State.geoRewriteBy_mem, State.report_mem, State.modCell_mem,
      State.shutdown_mem, State.startFails_mem]

@[simp] theorem State.repairPasses_mem (s : State) (p : PCell) (ids : List IdSample) : (State.repairPasses s p ids).mem = s.mem := by
  unfold State.repairPasses
  simp only [apply_ite State.mem, ite_self, State.stageFails_mem, State.geoRewriteBy_mem, State.report_mem, State.modCell_mem,
      State.recordIds_mem]

@[simp] theorem State.reachOff_mem (s : State) (p : PCell) (pass : Bool) : (State.reachOff s p pass).mem = s.mem := by
  unfold State.reachOff
  simp only [apply_ite State.mem, ite_self, State.jackfail_mem, State.geoRewriteBy_mem, State.report_mem, State.enable_mem,
      State.modCell_mem, State.setPwr_mem]

@[simp] theorem State.bistEnds_mem (s : State) (p : PCell) (pass : Bool) (ids : List IdSample) (rows : List RowTest) :
     (State.bistEnds s p pass ids rows).mem = s.mem := by
  unfold State.bistEnds
  simp only [apply_ite State.mem, ite_self, State.modCell_mem, State.softRepair_mem, State.stageFails_mem, State.setPwr_mem,
      State.repairPasses_mem]

@[simp] theorem State.powerStage_mem (s : State) (p : PCell) (pass : Bool) (ids : List IdSample) (rows : List RowTest) :
     (State.powerStage s p pass ids rows).mem = s.mem := by
  unfold State.powerStage
  dsimp only
  repeat' split
  all_goals simp only [State.bistEnds_mem, State.stageFails_mem, State.wipeCell_mem, State.reachOff_mem, State.modCell_mem,
      State.setPwr_mem]

@[simp] theorem State.liveError_mem (s : State) (w : ScrubWord) : (State.liveError s w).mem = s.mem := by
  unfold State.liveError
  dsimp only
  repeat' split
  all_goals simp only [State.tableUncorr_mem, State.report_mem, State.instFatal_mem, State.cacheEcc_mem]

@[simp] theorem State.scrub_mem (s : State) (w : ScrubWord) (ecc : Ecc) : (State.scrub s w ecc).mem = s.mem := by
  unfold State.scrub
  dsimp only
  repeat' split
  all_goals simp only [State.liveError_mem, State.report_mem, State.cacheEcc_mem]

@[simp] theorem State.tapInstr_mem (s : State) (i : TapInstr) : (State.tapInstr s i).mem = s.mem := by
  unfold State.tapInstr
  simp only [apply_ite State.mem, ite_self, State.out_mem]

@[simp] theorem State.decerr_mem (s : State) (off : BitVec 24) (write : Bool) : (State.decerr s off write).mem = s.mem := by
  unfold State.decerr
  simp only [State.out_mem, State.report_mem]

@[simp] theorem State.cbOk_mem (s : State) (v : Word) : (State.cbOk s v).mem = s.mem := by
  unfold State.cbOk
  simp only [State.out_mem]

@[simp] theorem State.hostRead_mem (s : State) (off : BitVec 24) (be : BitVec 4) : (State.hostRead s off be).mem = s.mem := by
  unfold State.hostRead
  dsimp only
  repeat' split
  all_goals simp only [State.cbOk_mem, State.decerr_mem]

theorem State.busWrite_mem (s : State) (f : State → State) (h : ∀ s, (f s).mem = s.mem) : (s.busWrite f).mem = s.mem := by
  unfold State.busWrite
  simp only [apply_ite State.mem, h, State.cbOk_mem, ite_self]

@[simp] theorem State.irqClear_mem (s : State) (v : Word) : (State.irqClear s v).mem = s.mem := by
  unfold State.irqClear
  simp only [State.cbOk_mem]

@[simp] theorem State.irqEnable_mem (s : State) (v : Word) : (State.irqEnable s v).mem = s.mem := by
  unfold State.irqEnable
  simp only [State.cbOk_mem]

@[simp] theorem State.launchLo_mem (s : State) (v : Word) : (State.launchLo s v).mem = s.mem := by
  unfold State.launchLo
  simp only [apply_ite State.mem, ite_self, State.cbOk_mem]

@[simp] theorem State.launchHi_mem (s : State) (v : Word) : (State.launchHi s v).mem = s.mem := by
  unfold State.launchHi
  simp only [apply_ite State.mem, ite_self, State.cbOk_mem, State.out_mem, State.report_mem]

@[simp] theorem State.routeWrite_mem (s : State) (r : RouteId) (word : BitVec 5) (v : Word) :
     (State.routeWrite s r word v).mem = s.mem := by
  unfold State.routeWrite
  simp only [apply_ite State.mem, ite_self, State.cbOk_mem, State.decerr_mem]

@[simp] theorem State.requestWrite_mem (s : State) (n : Fin 8) (word : BitVec 6) (v : Word) :
     (State.requestWrite s n word v).mem = s.mem := by
  unfold State.requestWrite
  simp only [apply_ite State.mem, ite_self, State.cbOk_mem, State.decerr_mem]

@[simp] theorem State.ring_mem (s : State) (n : Fin 8) : (State.ring s n).mem = s.mem := by
  unfold State.ring
  simp only [apply_ite State.mem, ite_self, State.chunk_mem]

@[simp] theorem State.ack_mem (s : State) (n : Fin 8) : (State.ack s n).mem = s.mem := by
  unfold State.ack
  simp only [apply_ite State.mem, ite_self]

@[simp] theorem State.doorbell_mem (s : State) (n : Fin 8) (v : Word) : (State.doorbell s n v).mem = s.mem := by
  unfold State.doorbell
  simp only [apply_ite State.mem, ite_self, State.ack_mem, State.cbOk_mem, State.ring_mem]

@[simp] theorem State.faultClear_mem (s : State) (p : PCell) (v : Word) : (State.faultClear s p v).mem = s.mem := by
  unfold State.faultClear
  simp only [State.cbOk_mem, State.modCell_mem]

@[simp] theorem State.buntWrite_mem (s : State) (off : BitVec 24) (v : Word) : (State.buntWrite s off v).mem = s.mem := by
  unfold State.buntWrite
  split <;> simp only [apply_ite State.mem, ite_self, State.cbOk_mem, State.decerr_mem, State.modCell_mem, foldl_mem, implies_true]

@[simp] theorem State.hostWrite_mem (s : State) (off : BitVec 24) (be : BitVec 4) (v : Word) :
     (State.hostWrite s off be v).mem = s.mem := by
  simp only [State.hostWrite, apply_ite State.mem, apply_dite State.mem, State.decerr_mem, State.cbOk_mem, State.irqClear_mem,
    State.irqEnable_mem, State.launchLo_mem, State.launchHi_mem, State.doorbell_mem, State.requestWrite_mem, State.faultClear_mem,
    State.routeWrite_mem, State.buntWrite_mem, ite_self, dite_eq_ite]

@[simp] theorem ends_mem (s : State) (r : Resp) : (ends s r).1.mem = s.mem := by
  rfl

@[simp] theorem endsOk_mem (s : State) : (endsOk s).1.mem = s.mem := by
  unfold endsOk
  simp only [ends_mem]

@[simp] theorem goesOn_mem (s : State) : (goesOn s).1.mem = s.mem := by
  rfl

@[simp] theorem State.setCur_mem (s : State) (n : Fin 8) (r : MReq) : (State.setCur s n r).mem = s.mem := by
  rfl

@[simp] theorem State.acted_mem (n : Fin 8) (r : MReq) (y : Act) : (State.acted n r y).mem = y.1.mem := by
  unfold State.acted
  dsimp only
  repeat' split
  all_goals simp only [State.out_mem, State.setCur_mem]

theorem State.firmware_mem (s : State) (n : Fin 8) (mine : Nat → Bool) (act : Req → State → Act)
    (h : ∀ r s, (act r s).1.mem = s.mem) : (s.firmware n mine act).mem = s.mem := by
  unfold State.firmware
  split
  · rfl
  · split
    · rfl
    · split
      · exact (State.acted_mem ..).trans (h _ s)
      · split
        · rfl
        · split
          · rfl
          · exact (State.acted_mem ..).trans (h _ s)

theorem State.trisia_mem (s : State) (n : Fin 8) (op : Nat) (act : Req → State → Act)
    (h : ∀ r s, (act r s).1.mem = s.mem) : (s.trisia n op act).mem = s.mem := State.firmware_mem s n _ act h

@[simp] theorem State.mbRespond_mem (s : State) (n : Fin 8) (lost : Option (BitVec 3)) : (State.mbRespond s n lost).mem = s.mem := by
  unfold State.mbRespond
  repeat' split
  all_goals simp only [State.respond_mem]

@[simp] theorem State.awaits_mem (s : State) (ps : List (Nat × Nat)) : (State.awaits s ps).1.mem = s.mem := by
  unfold State.awaits
  simp only [apply_ite State.mem, apply_ite Prod.fst, ite_self, ends_mem, State.fetchPieces_mem]

theorem State.fwRead_mem (s : State) (ps : List (Nat × Nat)) (k : State → Act) (h : (k s).1.mem = s.mem) :
    (s.fwRead ps k).1.mem = s.mem := by
  unfold State.fwRead
  split
  · exact h
  · exact State.awaits_mem ..

theorem State.fwWalk_mem (s : State) (vas : List Nat) (k : State → Act) (h : (k (s.cacheLeaves 0 (pagesOf vas))).1.mem = s.mem) :
    (s.fwWalk vas k).1.mem = s.mem := by
  unfold State.fwWalk
  split
  · exact State.awaits_mem ..
  · exact h

@[simp] theorem State.noteRanged_mem (s : State) (q : QuadNo) (r : Run) : (State.noteRanged s q r).mem = s.mem := by
  unfold State.noteRanged
  simp only [apply_ite State.mem, ite_self, State.reportN_mem]

@[simp] theorem State.finishRun_mem (s : State) (q : QuadNo) (r : Run) : (State.finishRun s q r).mem = s.mem := by
  unfold State.finishRun
  repeat' split
  all_goals simp only [State.endRun_mem, State.fold_mem, State.noteRanged_mem]

@[simp] theorem State.stopRun_mem (s : State) (q : QuadNo) (r : Run) (code : Code) (detail : Word) (ix : Option (Nat × Word)) :
     (State.stopRun s q r code detail ix).mem = s.mem := by
  unfold State.stopRun
  split <;> simp only [State.endRun_mem, State.report_mem]

@[simp] theorem State.noteParity_mem (s : State) (r : Run) : (State.noteParity s r).mem = s.mem := by
  unfold State.noteParity
  simp only [apply_ite State.mem, ite_self]

@[simp] theorem State.runEnd_mem (s : State) (route : RouteId) : (State.runEnd s route).mem = s.mem := by
  unfold State.runEnd
  repeat' split
  all_goals simp only [State.finishRun_mem, State.noteParity_mem, State.stopRun_mem]

@[simp] theorem State.walkDone_mem (s : State) (w : Who) (ecc : Ecc) : (State.walkDone s w ecc).mem = s.mem := by
  unfold State.walkDone
  dsimp only
  repeat' split
  all_goals simp only [State.walkEcc_mem, State.runUncorr_mem, State.walkedFor_mem, State.rowWalk_mem]

@[simp] theorem State.defaultDone_mem (s : State) (q : QuadNo) (port : BitVec 5) (addr : PAddr) (write : Bool) (w : Who) :
     (State.defaultDone s q port addr write w).mem = s.mem := by
  unfold State.defaultDone
  dsimp only
  repeat' split
  all_goals simp only [State.lineDefault_mem, State.defaultAnswer_mem, State.rowDefault_mem]

@[simp] theorem State.prefetch_mem (s : State) (route : RouteId) : (State.prefetch s route).mem = s.mem := by
  unfold State.prefetch
  dsimp only
  repeat' split
  all_goals simp only [State.fetchPieces_mem, State.putRun_mem, State.walked_mem]

@[simp] theorem State.failWaits_mem (s : State) (line : Nat) : (State.failWaits s line).mem = s.mem := by
  unfold State.failWaits
  refine (foldl_mem (fun s q => foldl_mem (fun s r => State.runUncorr_mem ..) _ _) _ _).trans ?_
  exact foldl_mem (fun s e => foldl_mem (fun s c => State.failUncorr_mem ..) _ _) _ _

@[simp] theorem State.afterMsp_mem (t s : State) (m : Fin 6) (ids : List (BitVec 12)) : (State.afterMsp t s m ids).mem = t.mem := by
  unfold State.afterMsp
  simp only [apply_ite State.mem, apply_ite Prod.fst, ite_self, State.failWaits_mem, State.missesGo_mem, foldl_mem, foldl_fst_mem, implies_true]

@[simp] theorem State.info_mem (s : State) (x_1 : Req) : (State.info s x_1).1.mem = s.mem := by
  unfold State.info
  simp only [ends_mem]

@[simp] theorem State.identRead_mem (s : State) (r : Req) : (State.identRead s r).1.mem = s.mem := by
  unfold State.identRead
  dsimp only
  repeat' split
  all_goals simp only [ends_mem]

@[simp] theorem State.cellmapRead_mem (s : State) (x_1 : Req) : (State.cellmapRead s x_1).1.mem = s.mem := by
  unfold State.cellmapRead
  simp only [ends_mem]

@[simp] theorem State.steprecRead_mem (s : State) (r : Req) : (State.steprecRead s r).1.mem = s.mem := by
  unfold State.steprecRead
  dsimp only
  repeat' split
  all_goals simp only [ends_mem]

@[simp] theorem State.stashdirRead_mem (s : State) (r : Req) : (State.stashdirRead s r).1.mem = s.mem := by
  unfold State.stashdirRead
  simp only [apply_ite State.mem, apply_ite Prod.fst, ite_self, ends_mem]

@[simp] theorem State.gentabRead_mem (s : State) (r : Req) : (State.gentabRead s r).1.mem = s.mem := by
  unfold State.gentabRead
  simp only [apply_ite State.mem, apply_ite Prod.fst, ite_self, ends_mem]

@[simp] theorem State.fwMemRead_mem (s : State) (ecc : Ecc) (r : Req) : (State.fwMemRead s ecc r).1.mem = s.mem := by
  unfold State.fwMemRead
  split <;> simp only [apply_ite State.mem, apply_ite Prod.fst, ite_self, State.cacheEcc_mem, State.fwRead_mem, ends_mem]

@[simp] theorem State.jobConfigure_mem (s : State) (r : Req) : (State.jobConfigure s r).1.mem = s.mem := by
  unfold State.jobConfigure State.fwRead
  dsimp only
  repeat' split
  all_goals simp only [State.applyJob_mem, State.awaits_mem, ends_mem, endsOk_mem]

@[simp] theorem State.setDesc_mem (s : State) (i : RouteId) (d : Desc) : (State.setDesc s i d).mem = s.mem := by
  rfl

@[simp] theorem State.setDescs_mem (s : State) (first count : Nat) (bs : List Byte) : (State.setDescs s first count bs).mem = s.mem := by
  unfold State.setDescs
  simp only [State.setDesc_mem, foldl_mem, implies_true]

@[simp] theorem State.routeLoad_mem (s : State) (r : Req) : (State.routeLoad s r).1.mem = s.mem := by
  unfold State.routeLoad State.fwRead
  dsimp only
  repeat' split
  all_goals simp only [State.awaits_mem, State.setDescs_mem, ends_mem, endsOk_mem]

@[simp] theorem State.routeKick_mem (s : State) (n : Fin 8) (r : Req) : (State.routeKick s n r).1.mem = s.mem := by
  unfold State.routeKick
  dsimp only
  repeat' split
  all_goals first | rfl | exact State.badKick_mem .. | (rename_i h; exact State.takeKick_mem _ _ _ _ h)

@[simp] theorem State.routeArm_mem (s : State) (r : Req) : (State.routeArm s r).1.mem = s.mem := by
  unfold State.routeArm
  simp only [apply_ite State.mem, apply_ite Prod.fst, ite_self, ends_mem, endsOk_mem]

@[simp] theorem State.genRegister_mem (s : State) (r : Req) : (State.genRegister s r).1.mem = s.mem := by
  unfold State.genRegister
  dsimp only
  repeat' split
  all_goals simp only [ends_mem, endsOk_mem]

@[simp] theorem State.fwStashAbort_mem (s : State) (x_1 : Req) : (State.fwStashAbort s x_1).1.mem = s.mem := by
  unfold State.fwStashAbort
  simp only [State.stashAbort_mem, ends_mem]

@[simp] theorem State.cursorSet_mem (s : State) (r : Req) : (State.cursorSet s r).1.mem = s.mem := by
  unfold State.cursorSet
  simp only [endsOk_mem]

@[simp] theorem State.detSet_mem (s : State) (r : Req) : (State.detSet s r).1.mem = s.mem := by
  unfold State.detSet
  simp only [apply_ite State.mem, apply_ite Prod.fst, ite_self, State.applyDet_mem, ends_mem, endsOk_mem]

@[simp] theorem State.haltSet_mem (s : State) (r : Req) : (State.haltSet s r).1.mem = s.mem := by
  unfold State.haltSet
  simp only [apply_ite State.mem, apply_ite Prod.fst, ite_self, ends_mem, endsOk_mem]

@[simp] theorem State.fwPause_mem (s : State) (x_1 : Req) : (State.fwPause s x_1).1.mem = s.mem := by
  unfold State.fwPause
  simp only [endsOk_mem]

@[simp] theorem State.digestConfigure_mem (s : State) (r : Req) : (State.digestConfigure s r).1.mem = s.mem := by
  unfold State.digestConfigure
  simp only [apply_ite State.mem, apply_ite Prod.fst, ite_self, ends_mem, endsOk_mem]

@[simp] theorem State.xlateInvalidate_mem (s : State) (r : Req) : (State.xlateInvalidate s r).1.mem = s.mem := by
  unfold State.xlateInvalidate
  simp only [apply_ite State.mem, apply_ite Prod.fst, ite_self, ends_mem]

@[simp] theorem State.cacheFlush_mem (s : State) (r : Req) : (State.cacheFlush s r).1.mem = s.mem := by
  unfold State.cacheFlush
  simp only [apply_ite State.mem, apply_ite Prod.fst, ite_self, State.writeBackLine_mem, ends_mem, foldl_mem, implies_true]

@[simp] theorem State.buntGroup_mem (s : State) (r : Req) : (State.buntGroup s r).1.mem = s.mem := by
  unfold State.buntGroup
  simp only [apply_ite State.mem, apply_ite Prod.fst, ite_self, ends_mem, endsOk_mem]

@[simp] theorem State.unreached_mem (s : State) (write : Bool) (rs : List (Nat × Nat)) (c : Code) :
     (State.unreached s write rs c).1.mem = s.mem := by
  unfold State.unreached
  simp only [apply_ite State.mem, ite_self, State.noteDefaults_mem, ends_mem]

@[simp] theorem State.mismatch_mem (s : State) : (State.mismatch s).mem = s.mem := by
  unfold State.mismatch
  simp only [State.report_mem]

@[simp] theorem State.ctxRestore_mem (s : State) (r : Req) : (State.ctxRestore s r).1.mem = s.mem := by
  unfold State.ctxRestore
  split
  · refine act_ite_mem rfl (act_ite_mem rfl (act_ite_mem rfl (act_ite_mem rfl (act_ite_mem rfl ?_))))
    refine State.fwRead_mem _ _ _ (act_ite_mem rfl (act_ite_mem rfl ?_))
    exact State.fwRead_mem _ _ _ (act_ite_mem (State.modCell_mem ..) (State.modCell_mem ..))
  · rfl

@[simp] theorem State.parityConfigure_mem (s : State) (agree : Bool) (r : Req) : (State.parityConfigure s agree r).1.mem = s.mem := by
  unfold State.parityConfigure
  split <;> simp only [apply_ite State.mem, apply_ite Prod.fst, ite_self, ends_mem, endsOk_mem]

@[simp] theorem State.parityResync_mem (s : State) (x_1 : Req) : (State.parityResync s x_1).1.mem = s.mem := by
  unfold State.parityResync
  simp only [apply_ite State.mem, ite_self, State.startRebuild_mem, endsOk_mem]

@[simp] theorem State.stopRebuild_mem (s : State) (role : Nat) : (State.stopRebuild s role).mem = s.mem := by
  unfold State.stopRebuild
  simp only [apply_ite State.mem, ite_self, State.setRebuild_mem]

@[simp] theorem State.parityRebuild_mem (s : State) (stale two : Bool) (r : Req) : (State.parityRebuild s stale two r).1.mem = s.mem := by
  unfold State.parityRebuild
  simp only [apply_ite State.mem, apply_ite Prod.fst, ite_self, State.startRebuild_mem, endsOk_mem, State.stopRebuild_mem, ends_mem]

@[simp] theorem State.joinWith_mem (s : State) (r : Req) (bs : List Byte) (v : Nat) : (State.joinWith s r bs v).1.mem = s.mem := by
  unfold State.joinWith
  simp only [apply_ite State.mem, apply_ite Prod.fst, ite_self, State.applyJob_mem, State.setDescs_mem, ends_mem, endsOk_mem]

@[simp] theorem State.recoveryJoin_mem (s : State) (r : Req) : (State.recoveryJoin s r).1.mem = s.mem := by
  unfold State.recoveryJoin State.fwRead
  dsimp only
  repeat' split
  all_goals simp only [State.awaits_mem, State.joinWith_mem, ends_mem]

@[simp] theorem State.recoveryResume_mem (s : State) (x_1 : Req) : (State.recoveryResume s x_1).1.mem = s.mem := by
  unfold State.recoveryResume
  simp only [apply_ite State.mem, apply_ite Prod.fst, ite_self, ends_mem, endsOk_mem]

@[simp] theorem State.ckptArm_mem (s : State) (r : Req) : (State.ckptArm s r).1.mem = s.mem := by
  unfold State.ckptArm
  simp only [apply_ite State.mem, apply_ite Prod.fst, ite_self, ends_mem, endsOk_mem]

@[simp] theorem State.cellRepair_mem (s : State) (n : Fin 8) (r : Req) : (State.cellRepair s n r).1.mem = s.mem := by
  unfold State.cellRepair
  split <;> simp only [apply_ite State.mem, apply_ite Prod.fst, ite_self, State.enable_mem, State.modCell_mem, ends_mem, endsOk_mem]

@[simp] theorem State.pennantAck_mem (s : State) (r : Req) : (State.pennantAck s r).1.mem = s.mem := by
  unfold State.pennantAck
  simp only [apply_ite State.mem, apply_ite Prod.fst, ite_self, ends_mem, endsOk_mem]

@[simp] theorem State.logConfigure_mem (s : State) (r : Req) : (State.logConfigure s r).1.mem = s.mem := by
  unfold State.logConfigure
  simp only [apply_ite State.mem, apply_ite Prod.fst, ite_self, ends_mem, endsOk_mem]

@[simp] theorem State.powerConfigure_mem (s : State) (r : Req) : (State.powerConfigure s r).1.mem = s.mem := by
  unfold State.powerConfigure
  simp only [apply_ite State.mem, apply_ite Prod.fst, ite_self, State.serve_mem, ends_mem, endsOk_mem]

@[simp] theorem State.cellPower_mem (s : State) (n : Fin 8) (r : Req) : (State.cellPower s n r).1.mem = s.mem := by
  unfold State.cellPower
  split <;> simp only [apply_ite State.mem, apply_ite Prod.fst, ite_self, State.shutdown_mem, State.enable_mem, endsOk_mem,
      State.modCell_mem, ends_mem]

@[simp] theorem State.tickConfigure_mem (s : State) (r : Req) : (State.tickConfigure s r).1.mem = s.mem := by
  unfold State.tickConfigure
  simp only [apply_ite State.mem, apply_ite Prod.fst, ite_self, ends_mem, endsOk_mem]

@[simp] theorem State.mbGrant_mem (s : State) (r : Req) : (State.mbGrant s r).1.mem = s.mem := by
  unfold State.mbGrant
  simp only [apply_ite State.mem, apply_ite Prod.fst, ite_self, State.modMb_mem, ends_mem, endsOk_mem]

@[simp] theorem State.testRun_mem (s : State) (failing : Word) (r : Req) : (State.testRun s failing r).1.mem = s.mem := by
  unfold State.testRun
  simp only [apply_ite State.mem, apply_ite Prod.fst, ite_self, State.fwRead_mem, ends_mem]

end Sys2Proof.Machine
end

