-- ==== Sys2Proof/Laws/MemoryForm.lean ====
section
/-! SUPPORT. The operations that write memory keep its canonical form: one lemma for each. -/

namespace Sys2Proof.Machine

theorem foldl_wf {α : Type} {f : State → α → State} (h : ∀ s x, s.mem.wf = true → (f s x).mem.wf = true) (l : List α) (s : State)
    (hs : s.mem.wf = true) : (l.foldl f s).mem.wf = true := by
  induction l generalizing s with
  | nil => exact hs
  | cons x l ih => exact ih _ (h s x hs)

theorem foldl_fst_wf {α β : Type} {f : State × β → α → State × β} (h : ∀ a x, a.1.mem.wf = true → (f a x).1.mem.wf = true)
    (l : List α) (a : State × β) (ha : a.1.mem.wf = true) : (l.foldl f a).1.mem.wf = true := by
  induction l generalizing a with
  | nil => exact ha
  | cons x l ih => exact ih _ (h a x ha)

theorem foldl_mem_wf {α : Type} {f : Mem → α → Mem} (h : ∀ m x, m.wf = true → (f m x).wf = true) (l : List α) (m : Mem)
    (hm : m.wf = true) : (l.foldl f m).wf = true := by
  induction l generalizing m with
  | nil => exact hm
  | cons x l ih => exact ih _ (h m x hm)

theorem ite_wf {c : Prop} [Decidable c] {a b : State} (ha : a.mem.wf = true) (hb : b.mem.wf = true) :
    (if c then a else b).mem.wf = true := by
  split <;> assumption

theorem ckpt_wf {s : State} (c : Ckpt) (h : s.mem.wf = true) : ({ s with ckpt := c } : State).mem.wf = true := h

theorem act_ite_wf {c : Prop} [Decidable c] {a b : Act} (ha : a.1.mem.wf = true) (hb : b.1.mem.wf = true) :
    (if c then a else b).1.mem.wf = true := by split <;> assumption

theorem State.fwRead_wf {s : State} {ps : List (Nat × Nat)} {k : State → Act} (h : s.mem.wf = true)
    (hk : ∀ t : State, t.mem.wf = true → (k t).1.mem.wf = true) : (s.fwRead ps k).1.mem.wf = true := by
  unfold State.fwRead
  split
  · exact hk s h
  · rw [State.awaits_mem]; exact h

theorem State.fwWalk_wf {s : State} {vas : List Nat} {k : State → Act} (h : s.mem.wf = true)
    (hk : ∀ t : State, t.mem.wf = true → (k t).1.mem.wf = true) : (s.fwWalk vas k).1.mem.wf = true := by
  unfold State.fwWalk
  split
  · rw [State.awaits_mem]; exact h
  · exact hk _ (by rw [State.cacheLeaves_mem]; exact h)

theorem State.keeping_wf {s : State} (q : QuadNo) (ls : List Leaf) {f : State → State} (h : s.mem.wf = true)
    (hf : ∀ t : State, t.mem.wf = true → (f t).mem.wf = true) : (s.keeping q ls f).mem.wf = true := by
  unfold State.keeping
  split
  · exact hf s h
  · rw [State.modQuad_mem]
    exact hf _ (by rw [State.modQuad_mem]; exact h)

theorem State.writeMem_wf (s : State) (pa : Nat) (bs : List Byte) (ini : Initiator) (h : s.mem.wf = true) :
     (State.writeMem s pa bs ini).mem.wf = true := by
  have w := Mem.writeBytes_wf s.mem pa bs h
  unfold State.writeMem
  split
  · exact h
  · dsimp only
    split
    · rw [foldl_mem (fun s l => State.touchLine_mem ..)]
      exact w
    · rw [foldl_mem (fun s l => State.sendAway_mem ..)]
      exact w

theorem State.fillLine_wf (s : State) (line : Nat) (data : Row) (qos : Nat) (h : s.mem.wf = true) :
     (State.fillLine s line data qos).mem.wf = true := by
  unfold State.fillLine
  extract_lets lay room
  have hl : ∀ (t : State) (old : Line), t.mem.wf = true → (lay t old).mem.wf = true := fun t old ht => foldl_mem_wf (fun m k hm => by
    split
    · exact hm
    · exact Mem.writeBytes_wf _ _ _ hm) _ _ ht
  have hr : room.1.mem.wf = true := by rw [State.makeRoom_mem]; exact h
  clear_value lay room
  split
  · exact hl _ _ h
  · split
    · exact hl _ _ hr
    · exact hr

theorem State.mspRead_wf (s : State) (m : Fin 6) (id : BitVec 12) (seq : BitVec 4) (status : BitVec 2) (data : Row) (h : s.mem.wf = true) :
     (State.mspRead s m id seq status data).mem.wf = true := by
  unfold State.mspRead
  split <;> simp only [apply_ite State.mem, apply_ite Mem.wf, ite_self, State.fillLine_wf, State.modMsp_mem, State.mspCorrected_mem,
      State.mspUncorr_mem, State.mspViolation_mem, h]

theorem State.writePieces_wf (s : State) (p : PCell) (ps : List (Nat × Nat)) (bytes : List Byte) (ks : List Nat) (h : s.mem.wf = true) :
     (State.writePieces s p ps bytes ks).mem.wf = true := by
  exact foldl_wf (fun s k hs => by split <;> first | exact hs | exact State.writeMem_wf _ _ _ _ hs) _ _ h

theorem State.storeRow_wf (s : State) (e : EPort) (tag : Byte) (row : RowNo) (piece : Nat) (ecc : Ecc) (h : s.mem.wf = true) :
     (State.storeRow s e tag row piece ecc).mem.wf = true := by
  unfold State.storeRow
  dsimp only
  repeat' split
  all_goals simp only [State.putCmd_mem, State.lsAfter_mem, State.writePieces_wf, State.rowEcc_mem, State.rowUncorr_mem,
      State.failUncorr_mem, h]

theorem State.finishRow_wf (s : State) (e : EPort) (c : Cmd) (p : LsProg) (h : s.mem.wf = true) :
     (State.finishRow s e c p).1.mem.wf = true := by
  unfold State.finishRow
  split <;> simp only [apply_ite State.mem, apply_ite Mem.wf, apply_ite Prod.fst, ite_self, State.writePieces_wf, h]

theorem State.preemptPort_wf (s : State) (e : EPort) (h : s.mem.wf = true) : (State.preemptPort s e).mem.wf = true := by
  refine foldl_wf (fun s c hs => ?_) _ _ h
  dsimp only
  split
  · repeat' split
    all_goals simp only [State.complete_mem, State.stopLs_mem, State.finishRow_wf, hs]
  · exact hs

theorem State.preemptCell_wf (s : State) (p : PCell) (h : s.mem.wf = true) : (State.preemptCell s p).mem.wf = true := by
  unfold State.preemptCell
  simp only [State.preemptPort_wf, h]

theorem State.storeEntry_wf (s : State) (x : SEntry) (rows : List Row) (h : s.mem.wf = true) :
     (State.storeEntry s x rows).mem.wf = true := by
  unfold State.storeEntry
  simp only [apply_ite State.mem, apply_ite Mem.wf, ite_self, State.writeMem_wf, State.modEntry_mem, h]

theorem State.spillOne_wf (s : State) (x : SEntry) (h : s.mem.wf = true) : (State.spillOne s x).mem.wf = true := by
  unfold State.spillOne
  split <;> simp only [apply_ite State.mem, apply_ite Mem.wf, ite_self, State.writeMem_wf, State.modEntry_mem, h]

theorem State.spillUntil_wf (q : QuadNo) (size : Nat) (l : List SEntry) (s : State) (h : s.mem.wf = true) :
    (State.spillUntil q size l s).mem.wf = true := by
  induction l generalizing s with
  | nil => exact h
  | cons x l ih =>
    unfold State.spillUntil
    split
    · exact h
    · split
      · exact h
      · exact ih _ (State.spillOne_wf _ _ h)

theorem State.spillFor_wf (s : State) (q : QuadNo) (size : Nat) (h : s.mem.wf = true) : (State.spillFor s q size).mem.wf = true := by
  exact State.spillUntil_wf _ _ _ _ h

theorem State.tryPut_wf (s : State) (k : Put) (h : s.mem.wf = true) : (State.tryPut s k).1.mem.wf = true := by
  unfold State.tryPut
  dsimp only
  repeat' split
  all_goals simp only [State.placeEntry_mem, State.register_mem, State.addNdet_mem, State.spillFor_wf, h]

theorem State.portPut_wf (s : State) (e : EPort) (c : Cmd) (k : Put) (h : s.mem.wf = true) : (State.portPut s e c k).mem.wf = true := by
  have w := State.tryPut_wf s k h
  unfold State.portPut
  split <;> rename_i e <;> rw [e] at w <;> simp only [State.putCmd_mem, State.complete_mem, State.stashPennant_mem] <;> exact w

theorem State.startStashput_wf (s : State) (e : EPort) (c : Cmd) (h : s.mem.wf = true) : (State.startStashput s e c).mem.wf = true := by
  unfold State.startStashput
  dsimp only
  repeat' split
  all_goals simp only [State.stashPennant_mem, State.portPut_wf, State.complete_mem, h]

theorem State.portTransfer_wf (s : State) (e : EPort) (tag : Byte) (ecc : List RowEcc) (h : s.mem.wf = true) :
     (State.portTransfer s e tag ecc).mem.wf = true := by
  unfold State.portTransfer
  dsimp only
  repeat' split
  all_goals simp only [State.deliver_mem, State.took_mem, State.getReads_mem, State.seekRow_mem, State.storeEntry_wf,
      State.failUncorr_mem, State.putReads_mem, State.stashPennant_mem, State.complete_mem, h]

theorem State.runPut_wf (s : State) (q : QuadNo) (r : Run) (k : Put) (h : s.mem.wf = true) : (State.runPut s q r k).mem.wf = true := by
  have w := State.tryPut_wf s k h
  unfold State.runPut
  split <;> rename_i e <;> rw [e] at w <;> simp only [State.putRun_mem, State.endRun_mem, State.stashPennant_mem] <;> exact w

theorem State.startRunPut_wf (s : State) (q : QuadNo) (r : Run) (p : PCell) (h : s.mem.wf = true) :
     (State.startRunPut s q r p).mem.wf = true := by
  unfold State.startRunPut
  simp only [apply_ite State.mem, apply_ite Mem.wf, ite_self, State.runPut_wf, State.stashPennant_mem, State.endRun_mem, h]

theorem State.runTransfer_wf (s : State) (route : RouteId) (ecc : List RowEcc) (h : s.mem.wf = true) :
     (State.runTransfer s route ecc).mem.wf = true := by
  unfold State.runTransfer
  dsimp only
  repeat' split
  all_goals simp only [foldl_mem, implies_true, State.deliver_mem, State.took_mem, State.getReads_mem, State.seek_mem,
      State.storeEntry_wf, State.fold_mem, State.runUncorr_mem, State.putReads_mem, State.stashPennant_mem, State.endRun_mem, h]

theorem State.spillEntry_wf (s t : State) (uid : Nat) (h : s.mem.wf = true) (e : s.spillEntry uid = some t) : t.mem.wf = true := by
  simp only [State.spillEntry] at e
  repeat' split at e
  all_goals first | (cases e; simp only [State.placeEntry_mem, State.spillFor_wf, h]) | cases e

theorem State.bind_spill_wf {s t : State} {o : Option Nat} (h : s.mem.wf = true) (e : o.bind s.spillEntry = some t) :
    t.mem.wf = true := by
  cases o with
  | none => cases e
  | some u => exact State.spillEntry_wf s t u h e

theorem State.stashSpill_wf (s : State) (w : StashWho) (h : s.mem.wf = true) : (State.stashSpill s w).mem.wf = true := by
  unfold State.stashSpill
  repeat' split
  all_goals first
    | exact h
    | (rename_i e _ _ _; exact State.bind_spill_wf h e)
    | (rename_i e _ _ _; exact State.portPut_wf _ _ _ _ (by rw [State.unregister_mem]; exact State.bind_spill_wf h e))
    | (rename_i e _ _ _; exact State.runPut_wf _ _ _ _ (by rw [State.unregister_mem]; exact State.bind_spill_wf h e))

theorem State.spaceFreed_wf (s : State) (w : StashWho) (h : s.mem.wf = true) : (State.spaceFreed s w).mem.wf = true := by
  unfold State.spaceFreed
  repeat' split
  all_goals first | exact h | exact State.portPut_wf _ _ _ _ h | exact State.runPut_wf _ _ _ _ h

theorem State.vwrite_wf (s : State) (q : QuadNo) (va : Nat) (b : Byte) (ini : Initiator) (h : s.mem.wf = true) :
     (State.vwrite s q va b ini).mem.wf = true := by
  unfold State.vwrite
  split
  · split
    · exact State.writeMem_wf _ _ _ _ h
    · split
      · exact h
      · exact Mem.writeBytes_wf _ _ _ h
  · exact h

theorem State.vwrites_wf (s : State) (q : QuadNo) (l : List (Nat × Byte)) (ini : Initiator) (h : s.mem.wf = true) :
     (State.vwrites s q l ini).mem.wf = true := by
  unfold State.vwrites
  rw [State.posted_mem]
  exact foldl_wf (fun s x hs => State.vwrite_wf _ _ _ _ _ hs) _ _ h

theorem State.putMem_wf (s : State) (q : QuadNo) (v : View) (o : RunOut) (ini : Initiator) (h : s.mem.wf = true) :
     (State.putMem s q v o ini).mem.wf = true := by
  exact State.vwrites_wf _ _ _ _ (State.vwrites_wf _ _ _ _ h)

theorem State.beginRun_wf (s : State) (q : QuadNo) (r : Run) (h : s.mem.wf = true) : (State.beginRun s q r).mem.wf = true := by
  unfold State.beginRun
  dsimp only
  repeat' split
  all_goals simp only [State.claim_mem, State.claimAcc_mem, State.writeNext_mem, State.startRunGet_mem, State.startRunPut_wf,
      State.putRun_mem, State.endRun_mem, h]

theorem State.startKick_wf (s : State) (k : Kick) (h : s.mem.wf = true) : (State.startKick s k).mem.wf = true := by
  unfold State.startKick
  dsimp only
  repeat' split
  all_goals simp only [State.beginRun_wf, State.complete_mem, State.modQuad_mem, h]

theorem State.runStart_wf (s : State) (q : QuadNo) (h : s.mem.wf = true) : (State.runStart s q).mem.wf = true := by
  unfold State.runStart
  dsimp only
  repeat' split
  all_goals simp only [State.startKick_wf, State.askNext_mem, h]

theorem State.putT_wf (s : State) (q : QuadNo) (r : Run) (u : Nat) (h : s.mem.wf = true) : (State.putT s q r u).1.mem.wf = true := by
  unfold State.putT
  dsimp only
  split
  · exact h
  · exact State.putMem_wf _ _ _ _ _ h

theorem State.cutT_wf (s : State) (q : QuadNo) (r : Run) (u i0 : Nat) (h : s.mem.wf = true) : (State.cutT s q r u i0).mem.wf = true := by
  exact State.putMem_wf _ _ _ _ _ h

theorem State.workUnit_wf (s : State) (q : QuadNo) (r : Run) (u : Nat) (h : s.mem.wf = true) :
     (State.workUnit s q r u).1.mem.wf = true := by
  unfold State.workUnit
  split <;> simp only [apply_ite State.mem, apply_ite Mem.wf, apply_ite Prod.fst, ite_self, State.landUnits_mem, State.putRun_mem,
      foldBytes_mem, State.putT_wf, State.answerRun_mem, State.endRun_mem, State.cutT_wf, State.putMem_wf, h]

theorem State.workKept_wf (s : State) (q : QuadNo) (r : Run) (u : Nat) (h : s.mem.wf = true) :
     (State.workKept s q r u).1.mem.wf = true := by
  unfold State.workKept
  simp only [apply_ite State.mem, apply_ite Mem.wf, apply_ite Prod.fst, ite_self, State.modQuad_mem, State.workUnit_wf, h]

theorem advance_wf (q : QuadNo) (n : Nat) (s : State) (r : Run) (h : s.mem.wf = true) : (advance q n s r).mem.wf = true := by
  induction n generalizing s r with
  | zero => exact h
  | succ n ih =>
    unfold advance
    split
    · have w := State.workKept_wf s q r r.next h
      split
      · rename_i e; rw [e] at w; exact ih _ _ w
      · rename_i e; rw [e] at w; exact w
    · rw [State.putRun_mem]; exact h

theorem State.unitCome_wf (s : State) (q : QuadNo) (r : Run) (u : Nat) (h : s.mem.wf = true) : (State.unitCome s q r u).mem.wf = true := by
  unfold State.unitCome
  simp only [advance_wf, h]

theorem State.lineArrives_wf (s : State) (route : RouteId) (u : Nat) (rows : List RowEcc) (ecc : Ecc) (h : s.mem.wf = true) :
     (State.lineArrives s route u rows ecc).mem.wf = true := by
  unfold State.lineArrives
  split
  · exact h
  · refine State.keeping_wf _ _ h fun t ht => ?_
    dsimp only
    repeat' split
    all_goals simp only [State.walkedFor_mem, State.seek_mem, State.runUncorr_mem, State.unitCome_wf, State.srcEcc_mem, State.took_mem, ht]

theorem State.lineFaults_wf (s : State) (route : RouteId) (u : Nat) (ecc : UnitEcc) (h : s.mem.wf = true) :
     (State.lineFaults s route u ecc).mem.wf = true := by
  unfold State.lineFaults
  split
  · exact h
  · refine State.keeping_wf _ _ h fun t ht => ?_
    dsimp only
    repeat' split
    all_goals simp only [State.walkedFor_mem, State.seek_mem, State.runUncorr_mem, State.unitCome_wf, State.srcEcc_mem, State.took_mem, ht]

theorem State.applyPartial_wf (s : State) (route : RouteId) (w row : Nat) (ecc : Ecc) (h : s.mem.wf = true) :
     (State.applyPartial s route w row ecc).mem.wf = true := by
  unfold State.applyPartial
  split
  · exact h
  · split
    · exact h
    · refine State.keeping_wf _ _ h fun t ht => ?_
      split
      · exact ht
      · extract_lets d off at' away need leaves own
        clear_value d off at' away need leaves own
        split
        · exact ht
        · split
          · rw [State.seek_mem]; exact ht
          · split
            · rw [State.runUncorr_mem, State.walkEcc_mem]; exact ht
            · rw [State.putRun_mem, foldl_mem (fun s y => State.sendAway_mem ..)]
              refine foldl_wf (fun s c hs => ?_) _ _ (by rw [State.walkEcc_mem, State.took_mem]; exact ht)
              split
              · split
                · exact Mem.writeBytes_wf _ _ _ hs
                · exact State.writeMem_wf _ _ _ _ hs
              · exact hs

theorem State.startCmd_wf (s : State) (e : EPort) (c0 : Cmd) (ecc : List RowEcc) (h : s.mem.wf = true) :
     (State.startCmd s e c0 ecc).mem.wf = true := by
  unfold State.startCmd
  dsimp only
  repeat' split
  all_goals simp only [State.startStashget_mem, State.startStashput_wf, State.startRvread_mem, State.startRwait_mem, State.startRkick_mem,
      State.startTrelease_mem, State.startTmove_mem, State.startTzero_mem, State.startLs_mem, State.startTcfg_mem, State.putCmd_mem, h]

theorem State.startNext_wf (s : State) (e : EPort) (ecc : List RowEcc) (h : s.mem.wf = true) : (State.startNext s e ecc).mem.wf = true := by
  unfold State.startNext
  dsimp only
  repeat' split
  all_goals simp only [State.startCmd_wf, State.settle_mem, h]

theorem State.takeBeat_wf (s : State) (e : EPort) (op tag : Byte) (arg : BitVec 112) (ecc : List RowEcc) (rvEcc : List (BitVec 7 × Ecc)) (h : s.mem.wf = true) :
     (State.takeBeat s e op tag arg ecc rvEcc).mem.wf = true := by
  unfold State.takeBeat
  simp only [apply_ite State.mem, apply_ite Mem.wf, ite_self, State.startNext_wf, State.rvReads_mem, State.modPort_mem, State.badBeat_mem,
      State.violation_mem, State.present_mem, h]

theorem State.mergePart_wf (s : State) (q : QuadNo) (r : Run) (u b st n : Nat) (h : s.mem.wf = true) :
     (State.mergePart s q r u b st n).1.mem.wf = true := by
  unfold State.mergePart
  dsimp only
  repeat' split
  all_goals simp only [foldBytes_mem, State.answerRun_mem, State.putMem_wf, State.endRun_mem, h]

theorem State.mergeWrite_wf (s : State) (q : QuadNo) (r : Run) (h : s.mem.wf = true) : (State.mergeWrite s q r).mem.wf = true := by
  unfold State.mergeWrite
  have w : ∀ (l : List (Nat × Nat × Nat × Nat)) (a : State × Option Run), a.1.mem.wf = true →
      (l.foldl (fun (a : State × Option Run) p => match a.2 with
        | none => a
        | some r => a.1.mergePart q r p.1 p.2.1 p.2.2.1 p.2.2.2) a).1.mem.wf = true :=
    fun l a ha => foldl_fst_wf (fun a p ha => by split <;> first | exact ha | exact State.mergePart_wf _ _ _ _ _ _ _ ha) l a ha
  simp only []
  split
  · exact w _ _ h
  · rw [State.putRun_mem]; exact w _ _ h

theorem State.mergeRun_wf (s : State) (q : QuadNo) (r : Run) (h : s.mem.wf = true) : (State.mergeRun s q r).mem.wf = true := by
  unfold State.mergeRun
  simp only [apply_ite State.mem, apply_ite Mem.wf, ite_self, State.mergeWrite_wf, State.walkedFor_mem, State.putRun_mem,
      mergeAdvance_mem, h]

theorem State.mergeBlock_wf (s : State) (q : QuadNo) (r : Run) (b : Nat) (ecc : Ecc) (h : s.mem.wf = true) :
     (State.mergeBlock s q r b ecc).mem.wf = true := by
  unfold State.mergeBlock
  dsimp only
  repeat' split
  all_goals simp only [State.took_mem, State.answerRun_mem, State.walkEcc_mem, State.runUncorr_mem, State.seek_mem, State.endRun_mem,
      State.walkedFor_mem, State.mergeRun_wf, h]

theorem State.takePartial_wf (s t : State) (x : Partial) (h : s.mem.wf = true) (e : s.takePartial x = some t) : t.mem.wf = true := by
  dsimp only [State.takePartial] at e
  rw [Option.ite_none_left_eq_some] at e
  rw [← Option.some.inj e.2]
  split
  · split
    · exact State.mergeRun_wf _ _ _ h
    · exact h
  · exact h

theorem State.takeLines_wf (s : State) (m : XMsg) (rows : List Row) (h : s.mem.wf = true) : (State.takeLines s m rows).mem.wf = true := by
  refine foldl_wf (fun s x hs => ?_) _ _ h
  split
  · rw [State.noteDefaults_mem]; exact State.vwrites_wf _ _ _ _ hs
  · exact hs

theorem State.memberMsg_wf (s : State) (r : Rebuild) (m : XMsg) (rows : List Row) (h : s.mem.wf = true) :
     (State.memberMsg s r m rows).mem.wf = true := by
  unfold State.memberMsg
  dsimp only
  repeat' split
  all_goals simp only [foldl_mem, implies_true, State.covered_mem, State.setRebuild_mem, State.installMark_mem, State.takeLines_wf, h]

theorem State.takeRebuildMsg_wf (s : State) (m : XMsg) (fails : List (Nat × Nat)) (h : s.mem.wf = true) :
     (State.takeRebuildMsg s m fails).mem.wf = true := by
  unfold State.takeRebuildMsg
  dsimp only
  repeat' split
  all_goals simp only [State.holderMsg_mem, State.memberMsg_wf, State.answerPull_mem, h]

theorem State.vwriteAll_wf (s : State) (q : QuadNo) (va : Nat) (bs : List Byte) (ini : Initiator) (h : s.mem.wf = true) :
     (State.vwriteAll s q va bs ini).mem.wf = true := by
  exact State.vwrites_wf _ _ _ _ h

theorem State.vwriteNoted_wf (s : State) (q : QuadNo) (va : Nat) (bs : List Byte) (h : s.mem.wf = true) :
     (State.vwriteNoted s q va bs).mem.wf = true := by
  unfold State.vwriteNoted
  rw [State.noteDefaults_mem]
  exact State.vwriteAll_wf _ _ _ _ _ h

theorem State.writeTable_wf (s : State) (b : Nat) (l : List Nat) (h : s.mem.wf = true) : (State.writeTable s b l).mem.wf = true := by
  exact foldl_wf (fun s i hs => State.vwriteNoted_wf _ _ _ _ hs) _ _ h

theorem State.writeCkpt_wf (s : State) (head : List Byte) (step : BitVec 48) (h : s.mem.wf = true) :
     (State.writeCkpt s head step).mem.wf = true := by
  exact State.vwriteAll_wf _ _ _ _ _ (State.writeTable_wf _ _ _ (State.vwriteAll_wf _ _ _ _ _ h))

theorem State.ckptFinish_wf (s : State) (h : s.mem.wf = true) : (State.ckptFinish s).mem.wf = true := by
  exact ite_wf (ckpt_wf _ (by rw [State.noteDefaults_mem]; exact h)) (ckpt_wf _ (State.writeCkpt_wf s _ _ h))

theorem State.ckptHeader_wf (s : State) (h : s.mem.wf = true) : (State.ckptHeader s).mem.wf = true := by
  unfold State.ckptHeader
  simp only [apply_ite State.mem, apply_ite Mem.wf, ite_self, State.ckptFinish_wf, State.walked_mem, h]

theorem State.armCkpt_wf (s : State) (h : s.mem.wf = true) : (State.armCkpt s).mem.wf = true := by
  unfold State.armCkpt
  simp only [apply_ite State.mem, apply_ite Mem.wf, apply_ite Prod.fst, ite_self, foldl_mem, foldl_fst_mem, implies_true, State.ckptHeader_wf, State.vwriteNoted_wf, h]

theorem State.drainCopy_wf (s : State) (g : Gen) (src dst n : Nat) (h : s.mem.wf = true) :
     (State.drainCopy s g src dst n).mem.wf = true := by
  unfold State.drainCopy
  simp only [apply_ite State.mem, apply_ite Mem.wf, ite_self, State.modGen_mem, State.vwriteAll_wf, State.noteDefaults_mem,
      State.ckptFail_mem, h]

theorem State.drainDone_wf (s : State) (idx : BitVec 12) (ecc : Ecc) (h : s.mem.wf = true) : (State.drainDone s idx ecc).mem.wf = true := by
  unfold State.drainDone
  dsimp only
  repeat' split
  all_goals simp only [State.drainCopy_wf, State.took_mem, State.walkEcc_mem, State.fetchPieces_mem, State.walked_mem,
      State.ckptHeader_wf, h]

theorem State.launchStep_wf (s : State) (tick : Tick) (ids : List IdSample) (h : s.mem.wf = true) :
     (State.launchStep s tick ids).mem.wf = true := by
  unfold State.launchStep
  dsimp only
  repeat' split
  all_goals simp only [State.armCkpt_wf, State.mirrorAgain_mem, State.activate_mem, State.armPeers_mem, State.releaseWaits_mem,
      State.rekick_mem, State.countMarks_mem, State.applyStepUs_mem, State.park_mem, State.launchIds_mem, State.openRec_mem,
      State.modRec_mem, State.applyDeferred_mem, State.unitsBoundary_mem, State.restartStreams_mem, State.fixHome_mem, h]

theorem State.launchTick_wf (s : State) (now : Tick) (ids : List IdSample) (h : s.mem.wf = true) :
     (State.launchTick s now ids).mem.wf = true := by
  unfold State.launchTick
  dsimp only
  repeat' split
  all_goals simp only [State.launchStep_wf, State.atTick_mem, h]

theorem State.takeBoundary_wf (s : State) (td : Tick) (h : s.mem.wf = true) : (State.takeBoundary s td).mem.wf = true := by
  unfold State.takeBoundary
  simp only [apply_ite State.mem, ite_self, State.sendMirror_mem, State.applyStepUs_mem, State.park_mem, State.openRec_mem,
      State.armCkpt_wf, State.releaseWaits_mem, State.steadyWaits_mem, State.unitsBoundary_mem, State.applyDeferred_mem, State.modRec_mem,
      State.endDigest_mem, h]

theorem State.takeTick_wf (s : State) (now : Tick) (h : s.mem.wf = true) : (State.takeTick s now).mem.wf = true := by
  unfold State.takeTick
  dsimp only
  repeat' split
  all_goals simp only [State.atTick_mem, State.takeBoundary_wf, h]

theorem State.flushWrite_wf (s : State) (f : Flush) (h : s.mem.wf = true) : (State.flushWrite s f).mem.wf = true := by
  unfold State.flushWrite
  dsimp only
  split
  · exact h
  · rename_i e
    exact Mem.writeBytes_wf _ _ _ (by rw [State.issueTxn_mem _ _ _ _ _ e]; exact h)

theorem State.flushNext_wf (s : State) (h : s.mem.wf = true) : (State.flushNext s).mem.wf = true := by
  unfold State.flushNext
  split <;> simp only [apply_ite State.mem, apply_ite Mem.wf, ite_self, State.flushWrite_wf, h]

theorem State.recorder_wf (s : State) (h : s.mem.wf = true) : (State.recorder s).mem.wf = true := by
  unfold State.recorder
  dsimp only
  repeat' split
  all_goals simp only [State.recordOne_mem, State.flushNext_wf, State.ringWrite_mem, State.enterCoal_mem, h]

theorem State.flushAll_wf (s : State) (h : s.mem.wf = true) : (State.flushAll s).mem.wf = true := by
  exact foldl_wf (fun s _ hs => State.recorder_wf s hs) _ _ (by rw [State.flushBegin_mem]; exact h)

theorem State.loseLines_wf (s : State) (reset : Bool) (h : s.mem.wf = true) : (State.loseLines s reset).mem.wf = true := by
  exact foldl_mem_wf (fun m a hm => Mem.write_wf m a _ hm) _ _ h

theorem State.resetFalls_wf (s : State) (h : s.mem.wf = true) : (State.resetFalls s).mem.wf = true := by
  unfold State.resetFalls
  simp only [apply_ite State.mem, apply_ite Mem.wf, ite_self, State.loseLines_wf, h]

theorem State.wipe_wf (s : State) (h : s.mem.wf = true) : (State.wipe s).mem.wf = true := by
  unfold State.wipe
  simp only [State.loseLines_wf, h]

theorem State.transWiped_wf (s : State) (bad : List PCell) (h : s.mem.wf = true) : (State.transWiped s bad).mem.wf = true := by
  unfold State.transWiped
  split <;> simp only [foldl_mem, implies_true, State.wipeFails_mem, State.nextFill_mem, State.respond_mem, State.wipe_wf, h]

theorem State.wipeDone_wf (s : State) (bad : List PCell) (other : Bool) (h : s.mem.wf = true) :
     (State.wipeDone s bad other).mem.wf = true := by
  unfold State.wipeDone
  simp only [apply_ite State.mem, apply_ite Mem.wf, ite_self, State.report_mem, State.startWiped_mem, State.transWiped_wf, h]

theorem State.lineCome_wf (s : State) (route : RouteId) (unit : Nat) (rows : List RowEcc) (ecc : Ecc) (h : s.mem.wf = true) :
     (State.lineCome s route unit rows ecc).mem.wf = true := by
  unfold State.lineCome
  split <;> simp only [apply_ite State.mem, apply_ite Mem.wf, ite_self, State.lineArrives_wf, State.mergeBlock_wf, State.parityUnit_mem, h]

theorem State.lineBad_wf (s : State) (route : RouteId) (unit : UnitRead) (h : s.mem.wf = true) :
     (State.lineBad s route unit).mem.wf = true := by
  unfold State.lineBad
  split <;> simp only [apply_ite State.mem, apply_ite Mem.wf, ite_self, State.lineFaults_wf, State.mergeBlock_wf, State.parityUnit_mem, h]

theorem State.fwMemWrite_wf (s : State) (ecc : Ecc) (r : Req) (h : s.mem.wf = true) : (State.fwMemWrite s ecc r).1.mem.wf = true := by
  unfold State.fwMemWrite
  split <;> simp only [apply_ite State.mem, apply_ite Mem.wf, apply_ite Prod.fst, ite_self, State.writeMem_wf, endsOk_mem,
      State.cacheEcc_mem, ends_mem, h]

theorem State.fwPreempt_wf (s : State) (r : Req) (h : s.mem.wf = true) : (State.fwPreempt s r).1.mem.wf = true := by
  unfold State.fwPreempt
  dsimp only
  rw [endsOk_mem]
  exact foldl_wf (fun s p hs => State.preemptCell_wf s p hs) _ _ h

theorem State.snapshotExport_wf (s : State) (r : Req) (h : s.mem.wf = true) : (State.snapshotExport s r).1.mem.wf = true := by
  have w : ∀ s : State, s.mem.wf = true → ∀ (a : Nat) (l : List Byte), (s.writeMem a l).mem.wf = true := fun s hs a l =>
    State.writeMem_wf _ _ _ _ hs
  unfold State.snapshotExport
  extract_lets me base
  clear_value base me
  refine act_ite_wf (by rw [ends_mem]; exact h) ?_
  split
  · rw [ends_mem]; exact h
  · refine act_ite_wf (by rw [ends_mem]; exact h) (act_ite_wf (by rw [ends_mem]; exact h) (State.fwWalk_wf h fun t ht => ?_))
    split
    · rw [State.unreached_mem]; exact ht
    · refine State.fwRead_wf ht fun u hu => ?_
      extract_lets img
      clear_value img
      exact act_ite_wf (by rw [ends_mem]; exact hu) (by rw [ends_mem]; exact w u hu _ _)

theorem State.installSpilled_wf (s : State) (e : SEntry) (h : s.mem.wf = true) : (State.installSpilled s e).mem.wf = true := by
  unfold State.installSpilled
  split <;> simp only [State.writeMem_wf, State.modEntry_mem, h]

theorem State.installEntry_wf (s : State) (x : SEntry) (h : s.mem.wf = true) : (State.installEntry s x).mem.wf = true := by
  unfold State.installEntry
  simp only [apply_ite State.mem, apply_ite Mem.wf, ite_self, State.installSpilled_wf, State.placeEntry_mem, h]

theorem State.restoreTensor_wf (s : State) (x : Nat × Gen) (h : s.mem.wf = true) : (State.restoreTensor s x).mem.wf = true := by
  unfold State.restoreTensor
  refine foldl_fst_wf (fun a v ha => ?_) x.2.slots (s, x.1 + 256) h
  exact State.vwriteAll_wf _ _ _ _ _ ha

theorem State.restoreImage_wf (s : State) (img : List Byte) (secs : List (Nat × Gen)) (v : Nat) (step : BitVec 48) (h : s.mem.wf = true) :
     (State.restoreImage s img secs v step).mem.wf = true := by
  unfold State.restoreImage
  exact foldl_wf (fun s e hs => State.installEntry_wf s e hs) _ _ (foldl_wf (fun s x hs => State.restoreTensor_wf s x hs) _ _ h)

theorem State.resumeWith_wf (s : State) (r : Req) (base : Nat) (img : List Byte) (h : s.mem.wf = true) :
     (State.resumeWith s r base img).1.mem.wf = true := by
  unfold State.resumeWith
  dsimp only
  refine act_ite_wf h (act_ite_wf (by rw [ends_mem, State.mismatch_mem]; exact h) (act_ite_wf h (act_ite_wf h (act_ite_wf
    (by rw [State.awaits_mem]; exact h) (act_ite_wf h (State.fwRead_wf h fun t ht => State.fwWalk_wf ht fun u hu => ?_))))))
  split
  · rw [State.unreached_mem]; exact hu
  · exact State.restoreImage_wf _ _ _ _ _ hu

theorem State.fwResume_wf (s : State) (r : Req) (h : s.mem.wf = true) : (State.fwResume s r).1.mem.wf = true := by
  unfold State.fwResume State.fwRead
  simp only [apply_ite State.mem, apply_ite Mem.wf, apply_ite Prod.fst, ite_self, State.awaits_mem, State.resumeWith_wf, ends_mem,
      h]

theorem State.ctxSave_wf (s : State) (ecc : List RowEcc) (r : Req) (h : s.mem.wf = true) : (State.ctxSave s ecc r).1.mem.wf = true := by
  unfold State.ctxSave
  split <;> simp only [apply_ite State.mem, apply_ite Mem.wf, apply_ite Prod.fst, ite_self, implies_true, State.writeMem_wf,
      State.rowEcc_mem, readRows_mem, goesOn_mem, ends_mem, h]

theorem State.imageLoad_wf (s : State) (r : Req) (h : s.mem.wf = true) : (State.imageLoad s r).1.mem.wf = true := by
  unfold State.imageLoad
  dsimp only
  refine act_ite_wf h (act_ite_wf h (act_ite_wf h (act_ite_wf h (act_ite_wf h (act_ite_wf h (State.fwRead_wf h fun t ht => ?_))))))
  exact foldl_wf (fun s x hs => State.writeMem_wf _ _ _ _ hs) _ _ ht

theorem State.lifecycleSet_wf (s : State) (n : Fin 8) (fuseOk : Bool) (r : Req) (h : s.mem.wf = true) :
     (State.lifecycleSet s n fuseOk r).1.mem.wf = true := by
  unfold State.lifecycleSet
  split <;> simp only [apply_ite State.mem, apply_ite Mem.wf, apply_ite Prod.fst, ite_self, goesOn_mem, State.flushAll_wf, ends_mem, h]

end Sys2Proof.Machine
end

