-- ==== Sys2Proof/Laws/State.lean ====
section
/-! SUPPORT. What each update of the state leaves in each field: one lemma for each field and update, true by unfolding. -/

namespace Sys2Proof.Machine

@[simp] theorem State.out_free (s : State) (o : Out) : (s.out o).free = s.free := rfl
@[simp] theorem State.out_outs (s : State) (o : Out) :
    (s.out o).outs = s.outs ++ [o] := rfl
@[simp] theorem State.out_lines (s : State) (o : Out) : (s.out o).lines = s.lines := rfl
@[simp] theorem State.out_sram (s : State) (o : Out) : (s.out o).sram = s.sram := rfl
@[simp] theorem State.out_pins (s : State) (o : Out) : (s.out o).pins = s.pins := rfl
@[simp] theorem State.out_clk (s : State) (o : Out) : (s.out o).clk = s.clk := rfl
@[simp] theorem State.out_glob (s : State) (o : Out) : (s.out o).glob = s.glob := rfl
@[simp] theorem State.out_job (s : State) (o : Out) : (s.out o).job = s.job := rfl
@[simp] theorem State.out_step (s : State) (o : Out) : (s.out o).step = s.step := rfl
@[simp] theorem State.out_tmb (s : State) (o : Out) : (s.out o).tmb = s.tmb := rfl
@[simp] theorem State.out_cells (s : State) (o : Out) : (s.out o).cells = s.cells := rfl
@[simp] theorem State.out_quads (s : State) (o : Out) : (s.out o).quads = s.quads := rfl
@[simp] theorem State.out_fills (s : State) (o : Out) : (s.out o).fills = s.fills := rfl
@[simp] theorem State.out_rt (s : State) (o : Out) : (s.out o).rt = s.rt := rfl
@[simp] theorem State.out_stash (s : State) (o : Out) : (s.out o).stash = s.stash := rfl
@[simp] theorem State.out_gens (s : State) (o : Out) : (s.out o).gens = s.gens := rfl
@[simp] theorem State.out_par (s : State) (o : Out) : (s.out o).par = s.par := rfl
@[simp] theorem State.out_ckpt (s : State) (o : Out) : (s.out o).ckpt = s.ckpt := rfl
@[simp] theorem State.out_dig (s : State) (o : Out) : (s.out o).dig = s.dig := rfl
@[simp] theorem State.out_merge (s : State) (o : Out) : (s.out o).merge = s.merge := rfl
@[simp] theorem State.out_log (s : State) (o : Out) : (s.out o).log = s.log := rfl
@[simp] theorem State.out_mbs (s : State) (o : Out) : (s.out o).mbs = s.mbs := rfl
@[simp] theorem State.out_fwOrder (s : State) (o : Out) : (s.out o).fwOrder = s.fwOrder := rfl
@[simp] theorem State.out_msps (s : State) (o : Out) : (s.out o).msps = s.msps := rfl
@[simp] theorem State.out_net (s : State) (o : Out) : (s.out o).net = s.net := rfl
@[simp] theorem State.out_pkg (s : State) (o : Out) : (s.out o).pkg = s.pkg := rfl
@[simp] theorem State.out_cba (s : State) (o : Out) : (s.out o).cba = s.cba := rfl
@[simp] theorem State.out_tap (s : State) (o : Out) : (s.out o).tap = s.tap := rfl

@[simp] theorem State.setCell_free (s : State) (p : PCell) (c : Cell) : (s.setCell p c).free = s.free := rfl
@[simp] theorem State.setCell_outs (s : State) (p : PCell) (c : Cell) : (s.setCell p c).outs = s.outs := rfl
@[simp] theorem State.setCell_lines (s : State) (p : PCell) (c : Cell) : (s.setCell p c).lines = s.lines := rfl
@[simp] theorem State.setCell_sram (s : State) (p : PCell) (c : Cell) : (s.setCell p c).sram = s.sram := rfl
@[simp] theorem State.setCell_pins (s : State) (p : PCell) (c : Cell) : (s.setCell p c).pins = s.pins := rfl
@[simp] theorem State.setCell_clk (s : State) (p : PCell) (c : Cell) : (s.setCell p c).clk = s.clk := rfl
@[simp] theorem State.setCell_glob (s : State) (p : PCell) (c : Cell) : (s.setCell p c).glob = s.glob := rfl
@[simp] theorem State.setCell_job (s : State) (p : PCell) (c : Cell) : (s.setCell p c).job = s.job := rfl
@[simp] theorem State.setCell_step (s : State) (p : PCell) (c : Cell) : (s.setCell p c).step = s.step := rfl
@[simp] theorem State.setCell_tmb (s : State) (p : PCell) (c : Cell) : (s.setCell p c).tmb = s.tmb := rfl
@[simp] theorem State.setCell_cells (s : State) (p : PCell) (c : Cell) :
    (s.setCell p c).cells = s.cells.set p c := rfl
@[simp] theorem State.setCell_quads (s : State) (p : PCell) (c : Cell) : (s.setCell p c).quads = s.quads := rfl
@[simp] theorem State.setCell_fills (s : State) (p : PCell) (c : Cell) : (s.setCell p c).fills = s.fills := rfl
@[simp] theorem State.setCell_rt (s : State) (p : PCell) (c : Cell) : (s.setCell p c).rt = s.rt := rfl
@[simp] theorem State.setCell_stash (s : State) (p : PCell) (c : Cell) : (s.setCell p c).stash = s.stash := rfl
@[simp] theorem State.setCell_gens (s : State) (p : PCell) (c : Cell) : (s.setCell p c).gens = s.gens := rfl
@[simp] theorem State.setCell_par (s : State) (p : PCell) (c : Cell) : (s.setCell p c).par = s.par := rfl
@[simp] theorem State.setCell_ckpt (s : State) (p : PCell) (c : Cell) : (s.setCell p c).ckpt = s.ckpt := rfl
@[simp] theorem State.setCell_dig (s : State) (p : PCell) (c : Cell) : (s.setCell p c).dig = s.dig := rfl
@[simp] theorem State.setCell_merge (s : State) (p : PCell) (c : Cell) : (s.setCell p c).merge = s.merge := rfl
@[simp] theorem State.setCell_log (s : State) (p : PCell) (c : Cell) : (s.setCell p c).log = s.log := rfl
@[simp] theorem State.setCell_mbs (s : State) (p : PCell) (c : Cell) : (s.setCell p c).mbs = s.mbs := rfl
@[simp] theorem State.setCell_fwOrder (s : State) (p : PCell) (c : Cell) : (s.setCell p c).fwOrder = s.fwOrder := rfl
@[simp] theorem State.setCell_msps (s : State) (p : PCell) (c : Cell) : (s.setCell p c).msps = s.msps := rfl
@[simp] theorem State.setCell_net (s : State) (p : PCell) (c : Cell) : (s.setCell p c).net = s.net := rfl
@[simp] theorem State.setCell_pkg (s : State) (p : PCell) (c : Cell) : (s.setCell p c).pkg = s.pkg := rfl
@[simp] theorem State.setCell_cba (s : State) (p : PCell) (c : Cell) : (s.setCell p c).cba = s.cba := rfl
@[simp] theorem State.setCell_tap (s : State) (p : PCell) (c : Cell) : (s.setCell p c).tap = s.tap := rfl

@[simp] theorem State.modCell_free (s : State) (p : PCell) (f : Cell → Cell) : (s.modCell p f).free = s.free := rfl
@[simp] theorem State.modCell_outs (s : State) (p : PCell) (f : Cell → Cell) : (s.modCell p f).outs = s.outs := rfl
@[simp] theorem State.modCell_lines (s : State) (p : PCell) (f : Cell → Cell) : (s.modCell p f).lines = s.lines := rfl
@[simp] theorem State.modCell_sram (s : State) (p : PCell) (f : Cell → Cell) : (s.modCell p f).sram = s.sram := rfl
@[simp] theorem State.modCell_pins (s : State) (p : PCell) (f : Cell → Cell) : (s.modCell p f).pins = s.pins := rfl
@[simp] theorem State.modCell_clk (s : State) (p : PCell) (f : Cell → Cell) : (s.modCell p f).clk = s.clk := rfl
@[simp] theorem State.modCell_glob (s : State) (p : PCell) (f : Cell → Cell) : (s.modCell p f).glob = s.glob := rfl
@[simp] theorem State.modCell_job (s : State) (p : PCell) (f : Cell → Cell) : (s.modCell p f).job = s.job := rfl
@[simp] theorem State.modCell_step (s : State) (p : PCell) (f : Cell → Cell) : (s.modCell p f).step = s.step := rfl
@[simp] theorem State.modCell_tmb (s : State) (p : PCell) (f : Cell → Cell) : (s.modCell p f).tmb = s.tmb := rfl
@[simp] theorem State.modCell_cells (s : State) (p : PCell) (f : Cell → Cell) :
    (s.modCell p f).cells = s.cells.set p (f (s.cell p)) := rfl
@[simp] theorem State.modCell_quads (s : State) (p : PCell) (f : Cell → Cell) : (s.modCell p f).quads = s.quads := rfl
@[simp] theorem State.modCell_fills (s : State) (p : PCell) (f : Cell → Cell) : (s.modCell p f).fills = s.fills := rfl
@[simp] theorem State.modCell_rt (s : State) (p : PCell) (f : Cell → Cell) : (s.modCell p f).rt = s.rt := rfl
@[simp] theorem State.modCell_stash (s : State) (p : PCell) (f : Cell → Cell) : (s.modCell p f).stash = s.stash := rfl
@[simp] theorem State.modCell_gens (s : State) (p : PCell) (f : Cell → Cell) : (s.modCell p f).gens = s.gens := rfl
@[simp] theorem State.modCell_par (s : State) (p : PCell) (f : Cell → Cell) : (s.modCell p f).par = s.par := rfl
@[simp] theorem State.modCell_ckpt (s : State) (p : PCell) (f : Cell → Cell) : (s.modCell p f).ckpt = s.ckpt := rfl
@[simp] theorem State.modCell_dig (s : State) (p : PCell) (f : Cell → Cell) : (s.modCell p f).dig = s.dig := rfl
@[simp] theorem State.modCell_merge (s : State) (p : PCell) (f : Cell → Cell) : (s.modCell p f).merge = s.merge := rfl
@[simp] theorem State.modCell_log (s : State) (p : PCell) (f : Cell → Cell) : (s.modCell p f).log = s.log := rfl
@[simp] theorem State.modCell_mbs (s : State) (p : PCell) (f : Cell → Cell) : (s.modCell p f).mbs = s.mbs := rfl
@[simp] theorem State.modCell_fwOrder (s : State) (p : PCell) (f : Cell → Cell) : (s.modCell p f).fwOrder = s.fwOrder := rfl
@[simp] theorem State.modCell_msps (s : State) (p : PCell) (f : Cell → Cell) : (s.modCell p f).msps = s.msps := rfl
@[simp] theorem State.modCell_net (s : State) (p : PCell) (f : Cell → Cell) : (s.modCell p f).net = s.net := rfl
@[simp] theorem State.modCell_pkg (s : State) (p : PCell) (f : Cell → Cell) : (s.modCell p f).pkg = s.pkg := rfl
@[simp] theorem State.modCell_cba (s : State) (p : PCell) (f : Cell → Cell) : (s.modCell p f).cba = s.cba := rfl
@[simp] theorem State.modCell_tap (s : State) (p : PCell) (f : Cell → Cell) : (s.modCell p f).tap = s.tap := rfl

@[simp] theorem State.modPort_free (s : State) (e : EPort) (f : Port → Port) : (s.modPort e f).free = s.free := rfl
@[simp] theorem State.modPort_outs (s : State) (e : EPort) (f : Port → Port) : (s.modPort e f).outs = s.outs := rfl
@[simp] theorem State.modPort_lines (s : State) (e : EPort) (f : Port → Port) : (s.modPort e f).lines = s.lines := rfl
@[simp] theorem State.modPort_sram (s : State) (e : EPort) (f : Port → Port) : (s.modPort e f).sram = s.sram := rfl
@[simp] theorem State.modPort_pins (s : State) (e : EPort) (f : Port → Port) : (s.modPort e f).pins = s.pins := rfl
@[simp] theorem State.modPort_clk (s : State) (e : EPort) (f : Port → Port) : (s.modPort e f).clk = s.clk := rfl
@[simp] theorem State.modPort_glob (s : State) (e : EPort) (f : Port → Port) : (s.modPort e f).glob = s.glob := rfl
@[simp] theorem State.modPort_job (s : State) (e : EPort) (f : Port → Port) : (s.modPort e f).job = s.job := rfl
@[simp] theorem State.modPort_step (s : State) (e : EPort) (f : Port → Port) : (s.modPort e f).step = s.step := rfl
@[simp] theorem State.modPort_tmb (s : State) (e : EPort) (f : Port → Port) : (s.modPort e f).tmb = s.tmb := rfl
@[simp] theorem State.modPort_cells (s : State) (e : EPort) (f : Port → Port) :
    (s.modPort e f).cells = s.cells.set e.p ((s.cell e.p).setPort e.sep (f ((s.cell e.p).port e.sep))) := rfl
@[simp] theorem State.modPort_quads (s : State) (e : EPort) (f : Port → Port) : (s.modPort e f).quads = s.quads := rfl
@[simp] theorem State.modPort_fills (s : State) (e : EPort) (f : Port → Port) : (s.modPort e f).fills = s.fills := rfl
@[simp] theorem State.modPort_rt (s : State) (e : EPort) (f : Port → Port) : (s.modPort e f).rt = s.rt := rfl
@[simp] theorem State.modPort_stash (s : State) (e : EPort) (f : Port → Port) : (s.modPort e f).stash = s.stash := rfl
@[simp] theorem State.modPort_gens (s : State) (e : EPort) (f : Port → Port) : (s.modPort e f).gens = s.gens := rfl
@[simp] theorem State.modPort_par (s : State) (e : EPort) (f : Port → Port) : (s.modPort e f).par = s.par := rfl
@[simp] theorem State.modPort_ckpt (s : State) (e : EPort) (f : Port → Port) : (s.modPort e f).ckpt = s.ckpt := rfl
@[simp] theorem State.modPort_dig (s : State) (e : EPort) (f : Port → Port) : (s.modPort e f).dig = s.dig := rfl
@[simp] theorem State.modPort_merge (s : State) (e : EPort) (f : Port → Port) : (s.modPort e f).merge = s.merge := rfl
@[simp] theorem State.modPort_log (s : State) (e : EPort) (f : Port → Port) : (s.modPort e f).log = s.log := rfl
@[simp] theorem State.modPort_mbs (s : State) (e : EPort) (f : Port → Port) : (s.modPort e f).mbs = s.mbs := rfl
@[simp] theorem State.modPort_fwOrder (s : State) (e : EPort) (f : Port → Port) : (s.modPort e f).fwOrder = s.fwOrder := rfl
@[simp] theorem State.modPort_msps (s : State) (e : EPort) (f : Port → Port) : (s.modPort e f).msps = s.msps := rfl
@[simp] theorem State.modPort_net (s : State) (e : EPort) (f : Port → Port) : (s.modPort e f).net = s.net := rfl
@[simp] theorem State.modPort_pkg (s : State) (e : EPort) (f : Port → Port) : (s.modPort e f).pkg = s.pkg := rfl
@[simp] theorem State.modPort_cba (s : State) (e : EPort) (f : Port → Port) : (s.modPort e f).cba = s.cba := rfl
@[simp] theorem State.modPort_tap (s : State) (e : EPort) (f : Port → Port) : (s.modPort e f).tap = s.tap := rfl

@[simp] theorem State.modQuad_free (s : State) (q : QuadNo) (f : Quad → Quad) : (s.modQuad q f).free = s.free := rfl
@[simp] theorem State.modQuad_outs (s : State) (q : QuadNo) (f : Quad → Quad) : (s.modQuad q f).outs = s.outs := rfl
@[simp] theorem State.modQuad_lines (s : State) (q : QuadNo) (f : Quad → Quad) : (s.modQuad q f).lines = s.lines := rfl
@[simp] theorem State.modQuad_sram (s : State) (q : QuadNo) (f : Quad → Quad) : (s.modQuad q f).sram = s.sram := rfl
@[simp] theorem State.modQuad_pins (s : State) (q : QuadNo) (f : Quad → Quad) : (s.modQuad q f).pins = s.pins := rfl
@[simp] theorem State.modQuad_clk (s : State) (q : QuadNo) (f : Quad → Quad) : (s.modQuad q f).clk = s.clk := rfl
@[simp] theorem State.modQuad_glob (s : State) (q : QuadNo) (f : Quad → Quad) : (s.modQuad q f).glob = s.glob := rfl
@[simp] theorem State.modQuad_job (s : State) (q : QuadNo) (f : Quad → Quad) : (s.modQuad q f).job = s.job := rfl
@[simp] theorem State.modQuad_step (s : State) (q : QuadNo) (f : Quad → Quad) : (s.modQuad q f).step = s.step := rfl
@[simp] theorem State.modQuad_tmb (s : State) (q : QuadNo) (f : Quad → Quad) : (s.modQuad q f).tmb = s.tmb := rfl
@[simp] theorem State.modQuad_cells (s : State) (q : QuadNo) (f : Quad → Quad) : (s.modQuad q f).cells = s.cells := rfl
@[simp] theorem State.modQuad_quads (s : State) (q : QuadNo) (f : Quad → Quad) :
    (s.modQuad q f).quads = s.quads.set q (f (s.quad q)) := rfl
@[simp] theorem State.modQuad_fills (s : State) (q : QuadNo) (f : Quad → Quad) : (s.modQuad q f).fills = s.fills := rfl
@[simp] theorem State.modQuad_rt (s : State) (q : QuadNo) (f : Quad → Quad) : (s.modQuad q f).rt = s.rt := rfl
@[simp] theorem State.modQuad_stash (s : State) (q : QuadNo) (f : Quad → Quad) : (s.modQuad q f).stash = s.stash := rfl
@[simp] theorem State.modQuad_gens (s : State) (q : QuadNo) (f : Quad → Quad) : (s.modQuad q f).gens = s.gens := rfl
@[simp] theorem State.modQuad_par (s : State) (q : QuadNo) (f : Quad → Quad) : (s.modQuad q f).par = s.par := rfl
@[simp] theorem State.modQuad_ckpt (s : State) (q : QuadNo) (f : Quad → Quad) : (s.modQuad q f).ckpt = s.ckpt := rfl
@[simp] theorem State.modQuad_dig (s : State) (q : QuadNo) (f : Quad → Quad) : (s.modQuad q f).dig = s.dig := rfl
@[simp] theorem State.modQuad_merge (s : State) (q : QuadNo) (f : Quad → Quad) : (s.modQuad q f).merge = s.merge := rfl
@[simp] theorem State.modQuad_log (s : State) (q : QuadNo) (f : Quad → Quad) : (s.modQuad q f).log = s.log := rfl
@[simp] theorem State.modQuad_mbs (s : State) (q : QuadNo) (f : Quad → Quad) : (s.modQuad q f).mbs = s.mbs := rfl
@[simp] theorem State.modQuad_fwOrder (s : State) (q : QuadNo) (f : Quad → Quad) : (s.modQuad q f).fwOrder = s.fwOrder := rfl
@[simp] theorem State.modQuad_msps (s : State) (q : QuadNo) (f : Quad → Quad) : (s.modQuad q f).msps = s.msps := rfl
@[simp] theorem State.modQuad_net (s : State) (q : QuadNo) (f : Quad → Quad) : (s.modQuad q f).net = s.net := rfl
@[simp] theorem State.modQuad_pkg (s : State) (q : QuadNo) (f : Quad → Quad) : (s.modQuad q f).pkg = s.pkg := rfl
@[simp] theorem State.modQuad_cba (s : State) (q : QuadNo) (f : Quad → Quad) : (s.modQuad q f).cba = s.cba := rfl
@[simp] theorem State.modQuad_tap (s : State) (q : QuadNo) (f : Quad → Quad) : (s.modQuad q f).tap = s.tap := rfl

@[simp] theorem State.setIrq_free (s : State) (b : Nat) : (s.setIrq b).free = s.free := rfl
@[simp] theorem State.setIrq_outs (s : State) (b : Nat) : (s.setIrq b).outs = s.outs := rfl
@[simp] theorem State.setIrq_lines (s : State) (b : Nat) : (s.setIrq b).lines = s.lines := rfl
@[simp] theorem State.setIrq_sram (s : State) (b : Nat) : (s.setIrq b).sram = s.sram := rfl
@[simp] theorem State.setIrq_pins (s : State) (b : Nat) : (s.setIrq b).pins = s.pins := rfl
@[simp] theorem State.setIrq_clk (s : State) (b : Nat) : (s.setIrq b).clk = s.clk := rfl
@[simp] theorem State.setIrq_glob (s : State) (b : Nat) :
    (s.setIrq b).glob = { s.glob with irqSts := s.glob.irqSts ||| (1 <<< b) } := rfl
@[simp] theorem State.setIrq_job (s : State) (b : Nat) : (s.setIrq b).job = s.job := rfl
@[simp] theorem State.setIrq_step (s : State) (b : Nat) : (s.setIrq b).step = s.step := rfl
@[simp] theorem State.setIrq_tmb (s : State) (b : Nat) : (s.setIrq b).tmb = s.tmb := rfl
@[simp] theorem State.setIrq_cells (s : State) (b : Nat) : (s.setIrq b).cells = s.cells := rfl
@[simp] theorem State.setIrq_quads (s : State) (b : Nat) : (s.setIrq b).quads = s.quads := rfl
@[simp] theorem State.setIrq_fills (s : State) (b : Nat) : (s.setIrq b).fills = s.fills := rfl
@[simp] theorem State.setIrq_rt (s : State) (b : Nat) : (s.setIrq b).rt = s.rt := rfl
@[simp] theorem State.setIrq_stash (s : State) (b : Nat) : (s.setIrq b).stash = s.stash := rfl
@[simp] theorem State.setIrq_gens (s : State) (b : Nat) : (s.setIrq b).gens = s.gens := rfl
@[simp] theorem State.setIrq_par (s : State) (b : Nat) : (s.setIrq b).par = s.par := rfl
@[simp] theorem State.setIrq_ckpt (s : State) (b : Nat) : (s.setIrq b).ckpt = s.ckpt := rfl
@[simp] theorem State.setIrq_dig (s : State) (b : Nat) : (s.setIrq b).dig = s.dig := rfl
@[simp] theorem State.setIrq_merge (s : State) (b : Nat) : (s.setIrq b).merge = s.merge := rfl
@[simp] theorem State.setIrq_log (s : State) (b : Nat) : (s.setIrq b).log = s.log := rfl
@[simp] theorem State.setIrq_mbs (s : State) (b : Nat) : (s.setIrq b).mbs = s.mbs := rfl
@[simp] theorem State.setIrq_fwOrder (s : State) (b : Nat) : (s.setIrq b).fwOrder = s.fwOrder := rfl
@[simp] theorem State.setIrq_msps (s : State) (b : Nat) : (s.setIrq b).msps = s.msps := rfl
@[simp] theorem State.setIrq_net (s : State) (b : Nat) : (s.setIrq b).net = s.net := rfl
@[simp] theorem State.setIrq_pkg (s : State) (b : Nat) : (s.setIrq b).pkg = s.pkg := rfl
@[simp] theorem State.setIrq_cba (s : State) (b : Nat) : (s.setIrq b).cba = s.cba := rfl
@[simp] theorem State.setIrq_tap (s : State) (b : Nat) : (s.setIrq b).tap = s.tap := rfl

@[simp] theorem State.putCmd_free (s : State) (e : EPort) (c : Cmd) : (s.putCmd e c).free = s.free := rfl
@[simp] theorem State.putCmd_outs (s : State) (e : EPort) (c : Cmd) : (s.putCmd e c).outs = s.outs := rfl
@[simp] theorem State.putCmd_lines (s : State) (e : EPort) (c : Cmd) : (s.putCmd e c).lines = s.lines := rfl
@[simp] theorem State.putCmd_sram (s : State) (e : EPort) (c : Cmd) : (s.putCmd e c).sram = s.sram := rfl
@[simp] theorem State.putCmd_pins (s : State) (e : EPort) (c : Cmd) : (s.putCmd e c).pins = s.pins := rfl
@[simp] theorem State.putCmd_clk (s : State) (e : EPort) (c : Cmd) : (s.putCmd e c).clk = s.clk := rfl
@[simp] theorem State.putCmd_glob (s : State) (e : EPort) (c : Cmd) : (s.putCmd e c).glob = s.glob := rfl
@[simp] theorem State.putCmd_job (s : State) (e : EPort) (c : Cmd) : (s.putCmd e c).job = s.job := rfl
@[simp] theorem State.putCmd_step (s : State) (e : EPort) (c : Cmd) : (s.putCmd e c).step = s.step := rfl
@[simp] theorem State.putCmd_tmb (s : State) (e : EPort) (c : Cmd) : (s.putCmd e c).tmb = s.tmb := rfl
@[simp] theorem State.putCmd_quads (s : State) (e : EPort) (c : Cmd) : (s.putCmd e c).quads = s.quads := rfl
@[simp] theorem State.putCmd_fills (s : State) (e : EPort) (c : Cmd) : (s.putCmd e c).fills = s.fills := rfl
@[simp] theorem State.putCmd_rt (s : State) (e : EPort) (c : Cmd) : (s.putCmd e c).rt = s.rt := rfl
@[simp] theorem State.putCmd_stash (s : State) (e : EPort) (c : Cmd) : (s.putCmd e c).stash = s.stash := rfl
@[simp] theorem State.putCmd_gens (s : State) (e : EPort) (c : Cmd) : (s.putCmd e c).gens = s.gens := rfl
@[simp] theorem State.putCmd_par (s : State) (e : EPort) (c : Cmd) : (s.putCmd e c).par = s.par := rfl
@[simp] theorem State.putCmd_ckpt (s : State) (e : EPort) (c : Cmd) : (s.putCmd e c).ckpt = s.ckpt := rfl
@[simp] theorem State.putCmd_dig (s : State) (e : EPort) (c : Cmd) : (s.putCmd e c).dig = s.dig := rfl
@[simp] theorem State.putCmd_merge (s : State) (e : EPort) (c : Cmd) : (s.putCmd e c).merge = s.merge := rfl
@[simp] theorem State.putCmd_log (s : State) (e : EPort) (c : Cmd) : (s.putCmd e c).log = s.log := rfl
@[simp] theorem State.putCmd_mbs (s : State) (e : EPort) (c : Cmd) : (s.putCmd e c).mbs = s.mbs := rfl
@[simp] theorem State.putCmd_fwOrder (s : State) (e : EPort) (c : Cmd) : (s.putCmd e c).fwOrder = s.fwOrder := rfl
@[simp] theorem State.putCmd_msps (s : State) (e : EPort) (c : Cmd) : (s.putCmd e c).msps = s.msps := rfl
@[simp] theorem State.putCmd_net (s : State) (e : EPort) (c : Cmd) : (s.putCmd e c).net = s.net := rfl
@[simp] theorem State.putCmd_pkg (s : State) (e : EPort) (c : Cmd) : (s.putCmd e c).pkg = s.pkg := rfl
@[simp] theorem State.putCmd_cba (s : State) (e : EPort) (c : Cmd) : (s.putCmd e c).cba = s.cba := rfl
@[simp] theorem State.putCmd_tap (s : State) (e : EPort) (c : Cmd) : (s.putCmd e c).tap = s.tap := rfl

@[simp] theorem State.addNdet_free (s : State) (n : Nat) : (s.addNdet n).free = s.free := rfl
@[simp] theorem State.addNdet_outs (s : State) (n : Nat) : (s.addNdet n).outs = s.outs := rfl
@[simp] theorem State.addNdet_lines (s : State) (n : Nat) : (s.addNdet n).lines = s.lines := rfl
@[simp] theorem State.addNdet_sram (s : State) (n : Nat) : (s.addNdet n).sram = s.sram := rfl
@[simp] theorem State.addNdet_pins (s : State) (n : Nat) : (s.addNdet n).pins = s.pins := rfl
@[simp] theorem State.addNdet_clk (s : State) (n : Nat) : (s.addNdet n).clk = s.clk := rfl
@[simp] theorem State.addNdet_glob (s : State) (n : Nat) : (s.addNdet n).glob = s.glob := rfl
@[simp] theorem State.addNdet_job (s : State) (n : Nat) : (s.addNdet n).job = s.job := rfl
@[simp] theorem State.addNdet_step (s : State) (n : Nat) :
    (s.addNdet n).step = { s.step with ndet := satTo 0xFFFFFF (s.step.ndet + n) } := rfl
@[simp] theorem State.addNdet_tmb (s : State) (n : Nat) : (s.addNdet n).tmb = s.tmb := rfl
@[simp] theorem State.addNdet_cells (s : State) (n : Nat) : (s.addNdet n).cells = s.cells := rfl
@[simp] theorem State.addNdet_quads (s : State) (n : Nat) : (s.addNdet n).quads = s.quads := rfl
@[simp] theorem State.addNdet_fills (s : State) (n : Nat) : (s.addNdet n).fills = s.fills := rfl
@[simp] theorem State.addNdet_rt (s : State) (n : Nat) : (s.addNdet n).rt = s.rt := rfl
@[simp] theorem State.addNdet_stash (s : State) (n : Nat) : (s.addNdet n).stash = s.stash := rfl
@[simp] theorem State.addNdet_gens (s : State) (n : Nat) : (s.addNdet n).gens = s.gens := rfl
@[simp] theorem State.addNdet_par (s : State) (n : Nat) : (s.addNdet n).par = s.par := rfl
@[simp] theorem State.addNdet_ckpt (s : State) (n : Nat) : (s.addNdet n).ckpt = s.ckpt := rfl
@[simp] theorem State.addNdet_dig (s : State) (n : Nat) : (s.addNdet n).dig = s.dig := rfl
@[simp] theorem State.addNdet_merge (s : State) (n : Nat) : (s.addNdet n).merge = s.merge := rfl
@[simp] theorem State.addNdet_log (s : State) (n : Nat) : (s.addNdet n).log = s.log := rfl
@[simp] theorem State.addNdet_mbs (s : State) (n : Nat) : (s.addNdet n).mbs = s.mbs := rfl
@[simp] theorem State.addNdet_fwOrder (s : State) (n : Nat) : (s.addNdet n).fwOrder = s.fwOrder := rfl
@[simp] theorem State.addNdet_msps (s : State) (n : Nat) : (s.addNdet n).msps = s.msps := rfl
@[simp] theorem State.addNdet_net (s : State) (n : Nat) : (s.addNdet n).net = s.net := rfl
@[simp] theorem State.addNdet_pkg (s : State) (n : Nat) : (s.addNdet n).pkg = s.pkg := rfl
@[simp] theorem State.addNdet_cba (s : State) (n : Nat) : (s.addNdet n).cba = s.cba := rfl
@[simp] theorem State.addNdet_tap (s : State) (n : Nat) : (s.addNdet n).tap = s.tap := rfl

@[simp] theorem State.atAclk_free (s : State) (k : Nat) : (s.atAclk k).free = s.free := rfl
@[simp] theorem State.atAclk_outs (s : State) (k : Nat) : (s.atAclk k).outs = s.outs := rfl
@[simp] theorem State.atAclk_lines (s : State) (k : Nat) : (s.atAclk k).lines = s.lines := rfl
@[simp] theorem State.atAclk_sram (s : State) (k : Nat) : (s.atAclk k).sram = s.sram := rfl
@[simp] theorem State.atAclk_pins (s : State) (k : Nat) : (s.atAclk k).pins = s.pins := rfl
@[simp] theorem State.atAclk_clk (s : State) (k : Nat) :
    (s.atAclk k).clk = { s.clk with aclk := max s.clk.aclk k } := rfl
@[simp] theorem State.atAclk_glob (s : State) (k : Nat) : (s.atAclk k).glob = s.glob := rfl
@[simp] theorem State.atAclk_job (s : State) (k : Nat) : (s.atAclk k).job = s.job := rfl
@[simp] theorem State.atAclk_step (s : State) (k : Nat) : (s.atAclk k).step = s.step := rfl
@[simp] theorem State.atAclk_tmb (s : State) (k : Nat) : (s.atAclk k).tmb = s.tmb := rfl
@[simp] theorem State.atAclk_cells (s : State) (k : Nat) : (s.atAclk k).cells = s.cells := rfl
@[simp] theorem State.atAclk_quads (s : State) (k : Nat) : (s.atAclk k).quads = s.quads := rfl
@[simp] theorem State.atAclk_fills (s : State) (k : Nat) : (s.atAclk k).fills = s.fills := rfl
@[simp] theorem State.atAclk_rt (s : State) (k : Nat) : (s.atAclk k).rt = s.rt := rfl
@[simp] theorem State.atAclk_stash (s : State) (k : Nat) : (s.atAclk k).stash = s.stash := rfl
@[simp] theorem State.atAclk_gens (s : State) (k : Nat) : (s.atAclk k).gens = s.gens := rfl
@[simp] theorem State.atAclk_par (s : State) (k : Nat) : (s.atAclk k).par = s.par := rfl
@[simp] theorem State.atAclk_ckpt (s : State) (k : Nat) : (s.atAclk k).ckpt = s.ckpt := rfl
@[simp] theorem State.atAclk_dig (s : State) (k : Nat) : (s.atAclk k).dig = s.dig := rfl
@[simp] theorem State.atAclk_merge (s : State) (k : Nat) : (s.atAclk k).merge = s.merge := rfl
@[simp] theorem State.atAclk_log (s : State) (k : Nat) : (s.atAclk k).log = s.log := rfl
@[simp] theorem State.atAclk_mbs (s : State) (k : Nat) : (s.atAclk k).mbs = s.mbs := rfl
@[simp] theorem State.atAclk_fwOrder (s : State) (k : Nat) : (s.atAclk k).fwOrder = s.fwOrder := rfl
@[simp] theorem State.atAclk_msps (s : State) (k : Nat) : (s.atAclk k).msps = s.msps := rfl
@[simp] theorem State.atAclk_net (s : State) (k : Nat) : (s.atAclk k).net = s.net := rfl
@[simp] theorem State.atAclk_pkg (s : State) (k : Nat) : (s.atAclk k).pkg = s.pkg := rfl
@[simp] theorem State.atAclk_cba (s : State) (k : Nat) : (s.atAclk k).cba = s.cba := rfl
@[simp] theorem State.atAclk_tap (s : State) (k : Nat) : (s.atAclk k).tap = s.tap := rfl

@[simp] theorem State.setCur_free (s : State) (n : Fin 8) (r : MReq) : (s.setCur n r).free = s.free := rfl
@[simp] theorem State.setCur_outs (s : State) (n : Fin 8) (r : MReq) : (s.setCur n r).outs = s.outs := rfl
@[simp] theorem State.setCur_lines (s : State) (n : Fin 8) (r : MReq) : (s.setCur n r).lines = s.lines := rfl
@[simp] theorem State.setCur_sram (s : State) (n : Fin 8) (r : MReq) : (s.setCur n r).sram = s.sram := rfl
@[simp] theorem State.setCur_pins (s : State) (n : Fin 8) (r : MReq) : (s.setCur n r).pins = s.pins := rfl
@[simp] theorem State.setCur_clk (s : State) (n : Fin 8) (r : MReq) : (s.setCur n r).clk = s.clk := rfl
@[simp] theorem State.setCur_glob (s : State) (n : Fin 8) (r : MReq) : (s.setCur n r).glob = s.glob := rfl
@[simp] theorem State.setCur_job (s : State) (n : Fin 8) (r : MReq) : (s.setCur n r).job = s.job := rfl
@[simp] theorem State.setCur_step (s : State) (n : Fin 8) (r : MReq) : (s.setCur n r).step = s.step := rfl
@[simp] theorem State.setCur_tmb (s : State) (n : Fin 8) (r : MReq) : (s.setCur n r).tmb = s.tmb := rfl
@[simp] theorem State.setCur_cells (s : State) (n : Fin 8) (r : MReq) : (s.setCur n r).cells = s.cells := rfl
@[simp] theorem State.setCur_quads (s : State) (n : Fin 8) (r : MReq) : (s.setCur n r).quads = s.quads := rfl
@[simp] theorem State.setCur_fills (s : State) (n : Fin 8) (r : MReq) : (s.setCur n r).fills = s.fills := rfl
@[simp] theorem State.setCur_rt (s : State) (n : Fin 8) (r : MReq) : (s.setCur n r).rt = s.rt := rfl
@[simp] theorem State.setCur_stash (s : State) (n : Fin 8) (r : MReq) : (s.setCur n r).stash = s.stash := rfl
@[simp] theorem State.setCur_gens (s : State) (n : Fin 8) (r : MReq) : (s.setCur n r).gens = s.gens := rfl
@[simp] theorem State.setCur_par (s : State) (n : Fin 8) (r : MReq) : (s.setCur n r).par = s.par := rfl
@[simp] theorem State.setCur_ckpt (s : State) (n : Fin 8) (r : MReq) : (s.setCur n r).ckpt = s.ckpt := rfl
@[simp] theorem State.setCur_dig (s : State) (n : Fin 8) (r : MReq) : (s.setCur n r).dig = s.dig := rfl
@[simp] theorem State.setCur_merge (s : State) (n : Fin 8) (r : MReq) : (s.setCur n r).merge = s.merge := rfl
@[simp] theorem State.setCur_log (s : State) (n : Fin 8) (r : MReq) : (s.setCur n r).log = s.log := rfl
@[simp] theorem State.setCur_mbs (s : State) (n : Fin 8) (r : MReq) :
    (s.setCur n r).mbs = s.mbs.set n { s.mbs.get n with cur := some r } := rfl
@[simp] theorem State.setCur_fwOrder (s : State) (n : Fin 8) (r : MReq) : (s.setCur n r).fwOrder = s.fwOrder := rfl
@[simp] theorem State.setCur_msps (s : State) (n : Fin 8) (r : MReq) : (s.setCur n r).msps = s.msps := rfl
@[simp] theorem State.setCur_net (s : State) (n : Fin 8) (r : MReq) : (s.setCur n r).net = s.net := rfl
@[simp] theorem State.setCur_pkg (s : State) (n : Fin 8) (r : MReq) : (s.setCur n r).pkg = s.pkg := rfl
@[simp] theorem State.setCur_cba (s : State) (n : Fin 8) (r : MReq) : (s.setCur n r).cba = s.cba := rfl
@[simp] theorem State.setCur_tap (s : State) (n : Fin 8) (r : MReq) : (s.setCur n r).tap = s.tap := rfl

@[simp] theorem State.tfFault_free (s : State) (e : EPort) (t : Nat) (c : Code) (op : Byte) (r : Nat) : (s.tfFault e t c op r).free = s.free := rfl
@[simp] theorem State.tfFault_outs (s : State) (e : EPort) (t : Nat) (c : Code) (op : Byte) (r : Nat) : (s.tfFault e t c op r).outs = s.outs := rfl
@[simp] theorem State.tfFault_lines (s : State) (e : EPort) (t : Nat) (c : Code) (op : Byte) (r : Nat) : (s.tfFault e t c op r).lines = s.lines := rfl
@[simp] theorem State.tfFault_sram (s : State) (e : EPort) (t : Nat) (c : Code) (op : Byte) (r : Nat) : (s.tfFault e t c op r).sram = s.sram := rfl
@[simp] theorem State.tfFault_pins (s : State) (e : EPort) (t : Nat) (c : Code) (op : Byte) (r : Nat) : (s.tfFault e t c op r).pins = s.pins := rfl
@[simp] theorem State.tfFault_clk (s : State) (e : EPort) (t : Nat) (c : Code) (op : Byte) (r : Nat) : (s.tfFault e t c op r).clk = s.clk := rfl
@[simp] theorem State.tfFault_glob (s : State) (e : EPort) (t : Nat) (c : Code) (op : Byte) (r : Nat) : (s.tfFault e t c op r).glob = s.glob := rfl
@[simp] theorem State.tfFault_job (s : State) (e : EPort) (t : Nat) (c : Code) (op : Byte) (r : Nat) : (s.tfFault e t c op r).job = s.job := rfl
@[simp] theorem State.tfFault_step (s : State) (e : EPort) (t : Nat) (c : Code) (op : Byte) (r : Nat) : (s.tfFault e t c op r).step = s.step := rfl
@[simp] theorem State.tfFault_tmb (s : State) (e : EPort) (t : Nat) (c : Code) (op : Byte) (r : Nat) : (s.tfFault e t c op r).tmb = s.tmb := rfl
@[simp] theorem State.tfFault_quads (s : State) (e : EPort) (t : Nat) (c : Code) (op : Byte) (r : Nat) : (s.tfFault e t c op r).quads = s.quads := rfl
@[simp] theorem State.tfFault_fills (s : State) (e : EPort) (t : Nat) (c : Code) (op : Byte) (r : Nat) : (s.tfFault e t c op r).fills = s.fills := rfl
@[simp] theorem State.tfFault_rt (s : State) (e : EPort) (t : Nat) (c : Code) (op : Byte) (r : Nat) : (s.tfFault e t c op r).rt = s.rt := rfl
@[simp] theorem State.tfFault_stash (s : State) (e : EPort) (t : Nat) (c : Code) (op : Byte) (r : Nat) : (s.tfFault e t c op r).stash = s.stash := rfl
@[simp] theorem State.tfFault_gens (s : State) (e : EPort) (t : Nat) (c : Code) (op : Byte) (r : Nat) : (s.tfFault e t c op r).gens = s.gens := rfl
@[simp] theorem State.tfFault_par (s : State) (e : EPort) (t : Nat) (c : Code) (op : Byte) (r : Nat) : (s.tfFault e t c op r).par = s.par := rfl
@[simp] theorem State.tfFault_ckpt (s : State) (e : EPort) (t : Nat) (c : Code) (op : Byte) (r : Nat) : (s.tfFault e t c op r).ckpt = s.ckpt := rfl
@[simp] theorem State.tfFault_dig (s : State) (e : EPort) (t : Nat) (c : Code) (op : Byte) (r : Nat) : (s.tfFault e t c op r).dig = s.dig := rfl
@[simp] theorem State.tfFault_merge (s : State) (e : EPort) (t : Nat) (c : Code) (op : Byte) (r : Nat) : (s.tfFault e t c op r).merge = s.merge := rfl
@[simp] theorem State.tfFault_log (s : State) (e : EPort) (t : Nat) (c : Code) (op : Byte) (r : Nat) : (s.tfFault e t c op r).log = s.log := rfl
@[simp] theorem State.tfFault_mbs (s : State) (e : EPort) (t : Nat) (c : Code) (op : Byte) (r : Nat) : (s.tfFault e t c op r).mbs = s.mbs := rfl
@[simp] theorem State.tfFault_fwOrder (s : State) (e : EPort) (t : Nat) (c : Code) (op : Byte) (r : Nat) : (s.tfFault e t c op r).fwOrder = s.fwOrder := rfl
@[simp] theorem State.tfFault_msps (s : State) (e : EPort) (t : Nat) (c : Code) (op : Byte) (r : Nat) : (s.tfFault e t c op r).msps = s.msps := rfl
@[simp] theorem State.tfFault_net (s : State) (e : EPort) (t : Nat) (c : Code) (op : Byte) (r : Nat) : (s.tfFault e t c op r).net = s.net := rfl
@[simp] theorem State.tfFault_pkg (s : State) (e : EPort) (t : Nat) (c : Code) (op : Byte) (r : Nat) : (s.tfFault e t c op r).pkg = s.pkg := rfl
@[simp] theorem State.tfFault_cba (s : State) (e : EPort) (t : Nat) (c : Code) (op : Byte) (r : Nat) : (s.tfFault e t c op r).cba = s.cba := rfl
@[simp] theorem State.tfFault_tap (s : State) (e : EPort) (t : Nat) (c : Code) (op : Byte) (r : Nat) : (s.tfFault e t c op r).tap = s.tap := rfl

@[simp] theorem State.modGen_free (s : State) (i : BitVec 12) (f : Gen → Gen) : (s.modGen i f).free = s.free := rfl
@[simp] theorem State.modGen_outs (s : State) (i : BitVec 12) (f : Gen → Gen) : (s.modGen i f).outs = s.outs := rfl
@[simp] theorem State.modGen_lines (s : State) (i : BitVec 12) (f : Gen → Gen) : (s.modGen i f).lines = s.lines := rfl
@[simp] theorem State.modGen_sram (s : State) (i : BitVec 12) (f : Gen → Gen) : (s.modGen i f).sram = s.sram := rfl
@[simp] theorem State.modGen_pins (s : State) (i : BitVec 12) (f : Gen → Gen) : (s.modGen i f).pins = s.pins := rfl
@[simp] theorem State.modGen_clk (s : State) (i : BitVec 12) (f : Gen → Gen) : (s.modGen i f).clk = s.clk := rfl
@[simp] theorem State.modGen_glob (s : State) (i : BitVec 12) (f : Gen → Gen) : (s.modGen i f).glob = s.glob := rfl
@[simp] theorem State.modGen_job (s : State) (i : BitVec 12) (f : Gen → Gen) : (s.modGen i f).job = s.job := rfl
@[simp] theorem State.modGen_step (s : State) (i : BitVec 12) (f : Gen → Gen) : (s.modGen i f).step = s.step := rfl
@[simp] theorem State.modGen_tmb (s : State) (i : BitVec 12) (f : Gen → Gen) : (s.modGen i f).tmb = s.tmb := rfl
@[simp] theorem State.modGen_cells (s : State) (i : BitVec 12) (f : Gen → Gen) : (s.modGen i f).cells = s.cells := rfl
@[simp] theorem State.modGen_quads (s : State) (i : BitVec 12) (f : Gen → Gen) : (s.modGen i f).quads = s.quads := rfl
@[simp] theorem State.modGen_fills (s : State) (i : BitVec 12) (f : Gen → Gen) : (s.modGen i f).fills = s.fills := rfl
@[simp] theorem State.modGen_rt (s : State) (i : BitVec 12) (f : Gen → Gen) : (s.modGen i f).rt = s.rt := rfl
@[simp] theorem State.modGen_stash (s : State) (i : BitVec 12) (f : Gen → Gen) : (s.modGen i f).stash = s.stash := rfl
@[simp] theorem State.modGen_gens (s : State) (i : BitVec 12) (f : Gen → Gen) :
    (s.modGen i f).gens = s.gens.map fun g => if g.idx = i then f g else g := rfl
@[simp] theorem State.modGen_par (s : State) (i : BitVec 12) (f : Gen → Gen) : (s.modGen i f).par = s.par := rfl
@[simp] theorem State.modGen_ckpt (s : State) (i : BitVec 12) (f : Gen → Gen) : (s.modGen i f).ckpt = s.ckpt := rfl
@[simp] theorem State.modGen_dig (s : State) (i : BitVec 12) (f : Gen → Gen) : (s.modGen i f).dig = s.dig := rfl
@[simp] theorem State.modGen_merge (s : State) (i : BitVec 12) (f : Gen → Gen) : (s.modGen i f).merge = s.merge := rfl
@[simp] theorem State.modGen_log (s : State) (i : BitVec 12) (f : Gen → Gen) : (s.modGen i f).log = s.log := rfl
@[simp] theorem State.modGen_mbs (s : State) (i : BitVec 12) (f : Gen → Gen) : (s.modGen i f).mbs = s.mbs := rfl
@[simp] theorem State.modGen_fwOrder (s : State) (i : BitVec 12) (f : Gen → Gen) : (s.modGen i f).fwOrder = s.fwOrder := rfl
@[simp] theorem State.modGen_msps (s : State) (i : BitVec 12) (f : Gen → Gen) : (s.modGen i f).msps = s.msps := rfl
@[simp] theorem State.modGen_net (s : State) (i : BitVec 12) (f : Gen → Gen) : (s.modGen i f).net = s.net := rfl
@[simp] theorem State.modGen_pkg (s : State) (i : BitVec 12) (f : Gen → Gen) : (s.modGen i f).pkg = s.pkg := rfl
@[simp] theorem State.modGen_cba (s : State) (i : BitVec 12) (f : Gen → Gen) : (s.modGen i f).cba = s.cba := rfl
@[simp] theorem State.modGen_tap (s : State) (i : BitVec 12) (f : Gen → Gen) : (s.modGen i f).tap = s.tap := rfl

@[simp] theorem State.modMsp_free (s : State) (m : Fin 6) (f : Msp → Msp) : (s.modMsp m f).free = s.free := rfl
@[simp] theorem State.modMsp_outs (s : State) (m : Fin 6) (f : Msp → Msp) : (s.modMsp m f).outs = s.outs := rfl
@[simp] theorem State.modMsp_lines (s : State) (m : Fin 6) (f : Msp → Msp) : (s.modMsp m f).lines = s.lines := rfl
@[simp] theorem State.modMsp_sram (s : State) (m : Fin 6) (f : Msp → Msp) : (s.modMsp m f).sram = s.sram := rfl
@[simp] theorem State.modMsp_pins (s : State) (m : Fin 6) (f : Msp → Msp) : (s.modMsp m f).pins = s.pins := rfl
@[simp] theorem State.modMsp_clk (s : State) (m : Fin 6) (f : Msp → Msp) : (s.modMsp m f).clk = s.clk := rfl
@[simp] theorem State.modMsp_glob (s : State) (m : Fin 6) (f : Msp → Msp) : (s.modMsp m f).glob = s.glob := rfl
@[simp] theorem State.modMsp_job (s : State) (m : Fin 6) (f : Msp → Msp) : (s.modMsp m f).job = s.job := rfl
@[simp] theorem State.modMsp_step (s : State) (m : Fin 6) (f : Msp → Msp) : (s.modMsp m f).step = s.step := rfl
@[simp] theorem State.modMsp_tmb (s : State) (m : Fin 6) (f : Msp → Msp) : (s.modMsp m f).tmb = s.tmb := rfl
@[simp] theorem State.modMsp_cells (s : State) (m : Fin 6) (f : Msp → Msp) : (s.modMsp m f).cells = s.cells := rfl
@[simp] theorem State.modMsp_quads (s : State) (m : Fin 6) (f : Msp → Msp) : (s.modMsp m f).quads = s.quads := rfl
@[simp] theorem State.modMsp_fills (s : State) (m : Fin 6) (f : Msp → Msp) : (s.modMsp m f).fills = s.fills := rfl
@[simp] theorem State.modMsp_rt (s : State) (m : Fin 6) (f : Msp → Msp) : (s.modMsp m f).rt = s.rt := rfl
@[simp] theorem State.modMsp_stash (s : State) (m : Fin 6) (f : Msp → Msp) : (s.modMsp m f).stash = s.stash := rfl
@[simp] theorem State.modMsp_gens (s : State) (m : Fin 6) (f : Msp → Msp) : (s.modMsp m f).gens = s.gens := rfl
@[simp] theorem State.modMsp_par (s : State) (m : Fin 6) (f : Msp → Msp) : (s.modMsp m f).par = s.par := rfl
@[simp] theorem State.modMsp_ckpt (s : State) (m : Fin 6) (f : Msp → Msp) : (s.modMsp m f).ckpt = s.ckpt := rfl
@[simp] theorem State.modMsp_dig (s : State) (m : Fin 6) (f : Msp → Msp) : (s.modMsp m f).dig = s.dig := rfl
@[simp] theorem State.modMsp_merge (s : State) (m : Fin 6) (f : Msp → Msp) : (s.modMsp m f).merge = s.merge := rfl
@[simp] theorem State.modMsp_log (s : State) (m : Fin 6) (f : Msp → Msp) : (s.modMsp m f).log = s.log := rfl
@[simp] theorem State.modMsp_mbs (s : State) (m : Fin 6) (f : Msp → Msp) : (s.modMsp m f).mbs = s.mbs := rfl
@[simp] theorem State.modMsp_fwOrder (s : State) (m : Fin 6) (f : Msp → Msp) : (s.modMsp m f).fwOrder = s.fwOrder := rfl
@[simp] theorem State.modMsp_net (s : State) (m : Fin 6) (f : Msp → Msp) : (s.modMsp m f).net = s.net := rfl
@[simp] theorem State.modMsp_pkg (s : State) (m : Fin 6) (f : Msp → Msp) : (s.modMsp m f).pkg = s.pkg := rfl
@[simp] theorem State.modMsp_cba (s : State) (m : Fin 6) (f : Msp → Msp) : (s.modMsp m f).cba = s.cba := rfl
@[simp] theorem State.modMsp_tap (s : State) (m : Fin 6) (f : Msp → Msp) : (s.modMsp m f).tap = s.tap := rfl

theorem vector_get {α : Type} {n : Nat} (v : Vector α n) (i : Fin n) : v.get i = v[i.val] := rfl

/-! ### Cells, ports and quadrants behind an update -/

theorem State.cell_setCell (s : State) (p q : PCell) (c : Cell) : (s.setCell p c).cell q = if q = p then c else s.cell q := by
  unfold State.cell State.setCell
  by_cases h : q = p
  · subst h; simp [vector_get]
  · have : (p : Nat) ≠ q := fun e => h (Fin.ext e.symm)
    simp [h, vector_get, this]

@[simp] theorem State.cell_modCell (s : State) (p : PCell) (f : Cell → Cell) : (s.modCell p f).cell p = f (s.cell p) := by
  rw [State.modCell, State.cell_setCell, if_pos rfl]

theorem State.cell_modCell_ne (s : State) {p q : PCell} (f : Cell → Cell) (h : q ≠ p) : (s.modCell p f).cell q = s.cell q := by
  rw [State.modCell, State.cell_setCell, if_neg h]

@[simp] theorem Cell.port_setPort (c : Cell) (b : Bool) (q : Port) : (c.setPort b q).port b = q := by cases b <;> rfl

@[simp] theorem Cell.port_setPort_not (c : Cell) (b : Bool) (q : Port) : (c.setPort b q).port (!b) = c.port (!b) := by cases b <;> rfl

@[simp] theorem Cell.port_setPort_not' (c : Cell) (b : Bool) (q : Port) : (c.setPort (!b) q).port b = c.port b := by cases b <;> rfl

@[simp] theorem State.port_modPort (s : State) (e : EPort) (f : Port → Port) : (s.modPort e f).port e = f (s.port e) := by
  simp [State.port, State.modPort]

@[simp] theorem Cell.setPort_tiles (c : Cell) (b : Bool) (q : Port) : (c.setPort b q).tiles = c.tiles := by cases b <;> rfl

@[simp] theorem State.cell_out (s : State) (o : Out) (p : PCell) : (s.out o).cell p = s.cell p := rfl

@[simp] theorem State.port_out (s : State) (o : Out) (e : EPort) : (s.out o).port e = s.port e := rfl

@[simp] theorem State.quad_modQuad (s : State) (q : QuadNo) (f : Quad → Quad) : (s.modQuad q f).quad q = f (s.quad q) := by
  simp [State.quad, State.modQuad, vector_get]

/-- A tile behind an update of another, and behind its own. -/
theorem Cell.tile_modTile (c : Cell) (t u : TileNo) (f : Tile → Tile) :
    (c.modTile t f).tile? u = if u = t then (c.tile? u).map f else c.tile? u := by
  unfold Cell.modTile Cell.tile?
  by_cases h : t.toNat < 24
  · rw [dif_pos h]
    by_cases e : u = t
    · subst e; simp [h, vector_get]
    · have : t.toNat ≠ u.toNat := fun x => e (BitVec.eq_of_toNat_eq x.symm)
      simp [e, vector_get, this]
  · rw [dif_neg h]
    by_cases e : u = t
    · subst e; simp [h]
    · rw [if_neg e]

end Sys2Proof.Machine
end

