-- ==== Sys2Proof/Laws/Ops.lean ====
section
/-! SUPPORT. What each shared operation can do, said once: reports, completions, the settling of FENCE commands. -/

namespace Sys2Proof.Machine

/-! ### Reports (R327, R332) -/

/-- A report changes the log and the interrupt flags, and nothing else. -/
theorem State.intake_frame (s : State) (i : Fin 5) (r : Report) :
    ∃ l q, s.intake i r = { s with log := l, glob := { s.glob with irqSts := q } } := by
  unfold State.intake State.loseN State.setIrq
  dsimp only
  repeat' split
  all_goals exact ⟨_, _, rfl⟩

theorem State.report_frame (s : State) (lv : BitVec 4) (src : BitVec 16) (cls : Byte) (sev : Sev) (d : BitVec 96) :
    ∃ l q, s.report lv src cls sev d = { s with log := l, glob := { s.glob with irqSts := q } } :=
  State.intake_frame s _ _

/-- PNT_SEV is set for every report (R341). -/
theorem State.intake_irq (s : State) (i : Fin 5) (r : Report) (h : r.sev.code.toNat < 16) :
    (s.intake i r).glob.irqSts.getLsbD r.sev.code.toNat = true := by
  have hb : ∀ x : BitVec 16, (x ||| (1 <<< r.sev.code.toNat)).getLsbD r.sev.code.toNat = true := by
    intro x
    rw [BitVec.getLsbD_or]
    simp [BitVec.getLsbD_ofNat, h]
  unfold State.intake State.loseN State.setIrq
  dsimp only
  repeat' split
  all_goals first | exact hb _ | (rw [BitVec.getLsbD_or, hb, Bool.true_or])

/-! ### Completions (R51-R53, R98) -/

theorem State.present_ok (s : State) (e : EPort) (op tag : Byte) (t : Nat) (d : Word) (r : Nat) :
    s.present e op tag t .ok d r = s.out (.cpl e (cplWord d r op .ok tag)) := by
  simp [State.present]

/-- A completion is presented once, after everything presented before it. -/
theorem State.present_outs (s : State) (e : EPort) (op tag : Byte) (t : Nat) (c : Code) (d : Word) (r : Nat) :
    (s.present e op tag t c d r).outs = s.outs ++ [.cpl e (cplWord d r op c tag)] := by
  unfold State.present
  split <;> simp

theorem State.complete_outs (s : State) (e : EPort) (c : Cmd) (k : Code) (d : Word) (r : Nat) :
    (s.complete e c k d r).outs = s.outs ++ [.cpl e (cplWord d r c.op k c.tag)] := by
  simp [State.complete, State.present_outs]

/-- A completion changes the outputs and, in the cell, the ports' commands and TF_FAULT, and nothing else. -/
theorem State.complete_frame (s : State) (e : EPort) (c : Cmd) (k : Code) (d : Word) (r : Nat) :
    ∃ o x, s.complete e c k d r = { s with outs := o, cells := x } := by
  unfold State.complete State.present
  dsimp only
  split <;> exact ⟨_, _, rfl⟩

theorem State.complete_cell_ne (s : State) (e : EPort) (c : Cmd) (k : Code) (d : Word) (r : Nat) {p : PCell} (h : p ≠ e.p) :
    (s.complete e c k d r).cell p = s.cell p := by
  unfold State.complete State.present
  rw [State.cell_modCell_ne _ _ h]
  dsimp only
  split
  · rfl
  · unfold State.tfFault; rw [State.cell_modCell_ne _ _ h]; rfl

/-- In its own cell a completion with OK changes the two ports alone. -/
theorem State.complete_cell (s : State) (e : EPort) (c : Cmd) (d : Word) (r : Nat) :
    ∃ a b, (s.complete e c .ok d r).cell e.p = { s.cell e.p with dep := a, sep := b } := by
  unfold State.complete
  rw [State.cell_modCell, State.present_ok, State.cell_out]
  unfold Cell.setPort
  cases e.sep <;> exact ⟨_, _, rfl⟩

/-- A completed command is outstanding no longer (R53). -/
theorem State.complete_find (s : State) (e : EPort) (c : Cmd) (k : Code) (d : Word) (r : Nat) :
    ((s.complete e c k d r).port e).find c.tag = none := by
  unfold State.complete State.port
  rw [State.cell_modCell, Cell.port_setPort_not', Cell.port_setPort]
  simp only [Port.find, Port.retireTag, List.find?_eq_none, List.mem_map, List.mem_filter]
  rintro x ⟨y, ⟨_, hy⟩, rfl⟩
  exact fun h => of_decide_eq_true hy (of_decide_eq_true h)

/-! ### Settling (R50, R376) -/

/-- Whatever a completion with OK and the admission of a late instance keep, settling keeps. -/
theorem State.settle_induct {P : State → Prop} (hc : ∀ s e c, P s → P (s.complete e c .ok 0)) (ha : ∀ s : State, P s → P s.admitLate)
    (s : State) (h : P s) : P s.settle := by
  have hf : ∀ {α : Type} (f : State → α → State) (l : List α) (s : State), (∀ s x, P s → P (f s x)) → P s → P (l.foldl f s) := by
    intro α f l
    induction l with
    | nil => intro s _ h; exact h
    | cons x l ih => intro s hf h; exact ih _ hf (hf _ _ h)
  exact ha _ (hf _ _ _ (fun s e h => hf _ _ _ (fun s c h => hc s e c h) h) h)

theorem CellFrame.refl (s : State) : CellFrame s s := by constructor <;> rfl

theorem CellFrame.trans {s t u : State} (a : CellFrame s t) (b : CellFrame t u) : CellFrame s u where
  pending := b.pending.trans a.pending
  mem := b.mem.trans a.mem
  free := b.free.trans a.free
  lines := b.lines.trans a.lines
  sram := b.sram.trans a.sram
  pins := b.pins.trans a.pins
  clk := b.clk.trans a.clk
  glob := by rw [b.glob, a.glob]
  job := b.job.trans a.job
  step := b.step.trans a.step
  tmb := b.tmb.trans a.tmb
  quads := b.quads.trans a.quads
  fills := b.fills.trans a.fills
  rt := b.rt.trans a.rt
  stash := b.stash.trans a.stash
  gens := b.gens.trans a.gens
  par := b.par.trans a.par
  ckpt := b.ckpt.trans a.ckpt
  dig := b.dig.trans a.dig
  merge := b.merge.trans a.merge
  mbs := b.mbs.trans a.mbs
  fwOrder := b.fwOrder.trans a.fwOrder
  msps := b.msps.trans a.msps
  net := b.net.trans a.net
  pkg := by rw [b.pkg, a.pkg]
  cba := b.cba.trans a.cba
  tap := b.tap.trans a.tap

theorem State.out_cellFrame (s : State) (o : Out) : CellFrame s (s.out o) := by constructor <;> rfl

theorem State.modCell_cellFrame (s : State) (p : PCell) (f : Cell → Cell) : CellFrame s (s.modCell p f) := by constructor <;> rfl

theorem State.report_cellFrame (s : State) (lv : BitVec 4) (src : BitVec 16) (cls : Byte) (sev : Sev) (d : BitVec 96) :
    CellFrame s (s.report lv src cls sev d) := by
  obtain ⟨l, q, h⟩ := State.report_frame s lv src cls sev d
  rw [h]
  constructor <;> rfl

theorem State.complete_cellFrame (s : State) (e : EPort) (c : Cmd) (k : Code) (d : Word) (r : Nat) : CellFrame s (s.complete e c k d r) := by
  obtain ⟨o, x, h⟩ := State.complete_frame s e c k d r
  rw [h]
  constructor <;> rfl

/-- A rewrite changes the Geometry window and reports it, and nothing else (R39). -/
theorem State.geoRewrite_frame (s : State) :
    ∃ l q g, s.geoRewrite = { s with log := l, glob := { s.glob with irqSts := q, geo := g } } := by
  unfold State.geoRewrite State.geoRewriteBy
  split
  · exact ⟨_, _, _, rfl⟩
  · have hg : ∃ g, s.geoWrite = { s with glob := { s.glob with geo := g } } := ⟨_, rfl⟩
    obtain ⟨g, hg⟩ := hg
    rw [hg]
    obtain ⟨l, q, h⟩ := State.report_frame ({ s with glob := { s.glob with geo := g } }) lvlFirmware 7 clsGeometry .info
      (detailOf (b32 (g.get 0).toNat))
    exact ⟨l, q, g, h⟩

theorem State.geoRewrite_cellFrame (s : State) : CellFrame s s.geoRewrite := by
  obtain ⟨l, q, g, h⟩ := State.geoRewrite_frame s
  rw [h]
  constructor <;> rfl

theorem State.geoRewrite_cells (s : State) : s.geoRewrite.cells = s.cells := by
  obtain ⟨l, q, g, h⟩ := State.geoRewrite_frame s
  rw [h]

theorem State.geoRewrite_outs (s : State) : s.geoRewrite.outs = s.outs := by
  obtain ⟨l, q, g, h⟩ := State.geoRewrite_frame s
  rw [h]

/-- Admitting a late instance touches no cell (R376). -/
theorem State.admitLate_cells (s : State) : s.admitLate.cells = s.cells := by
  unfold State.admitLate
  dsimp only
  split
  · rfl
  · exact State.geoRewrite_cells _

theorem State.admitLate_outs (s : State) : s.outs <+: s.admitLate.outs := by
  unfold State.admitLate
  dsimp only
  split
  · exact List.prefix_rfl
  · rw [State.geoRewrite_outs]
    exact List.prefix_append _ _

theorem State.admitLate_cellFrame (s : State) : CellFrame s s.admitLate := by
  unfold State.admitLate
  dsimp only
  split
  · exact CellFrame.refl s
  · exact CellFrame.trans (by constructor <;> rfl) (State.geoRewrite_cellFrame _)

/-- Settling changes the outputs, the ports' commands, and what admitting a late instance changes. -/
theorem State.settle_cellFrame (s : State) : CellFrame s s.settle :=
  State.settle_induct (P := CellFrame s) (fun t e c h => h.trans (State.complete_cellFrame t e c .ok 0 0))
    (fun t h => h.trans (State.admitLate_cellFrame t)) s (CellFrame.refl s)

/-- Outputs that were presented before stay. -/
theorem State.settle_outs (s : State) : s.outs <+: s.settle.outs :=
  State.settle_induct (P := fun t => s.outs <+: t.outs)
    (fun t e c h => h.trans (by rw [State.complete_outs]; exact List.prefix_append _ _))
    (fun t h => h.trans (State.admitLate_outs t)) s List.prefix_rfl

/-- Settling changes nothing of a cell but the two ports. -/
theorem State.settle_cell (s : State) (p : PCell) : ∃ a b, s.settle.cell p = { s.cell p with dep := a, sep := b } := by
  refine State.settle_induct (P := fun t => ∃ a b, t.cell p = { s.cell p with dep := a, sep := b }) ?_ ?_ s ⟨_, _, rfl⟩
  · rintro t e c ⟨a, b, h⟩
    by_cases hp : p = e.p
    · subst hp
      obtain ⟨a', b', h'⟩ := State.complete_cell t e c 0 0
      exact ⟨a', b', by rw [h', h]⟩
    · exact ⟨a, b, by rw [State.complete_cell_ne t e c .ok 0 0 hp, h]⟩
  · rintro t ⟨a, b, h⟩
    exact ⟨a, b, by rw [State.cell, State.admitLate_cells]; exact h⟩

theorem State.settle_tiles (s : State) (p : PCell) : (s.settle.cell p).tiles = (s.cell p).tiles := by
  obtain ⟨a, b, h⟩ := State.settle_cell s p
  rw [h]

end Sys2Proof.Machine
end

