-- ==== Sys2Proof/Laws/Queue.lean ====
section
/-! SUPPORT. No operation of the block touches the queue of waiting commands: one lemma for each operation over the state. -/

namespace Sys2Proof.Machine

theorem foldl_pending {α : Type} {f : State → α → State} (h : ∀ s x, (f s x).pending = s.pending) (l : List α) (s : State) :
    (l.foldl f s).pending = s.pending := by
  induction l generalizing s with
  | nil => rfl
  | cons x l ih => rw [List.foldl_cons, ih, h]

theorem foldl_fst_pending {α β : Type} {f : State × β → α → State × β} (h : ∀ a x, (f a x).1.pending = a.1.pending) (l : List α)
    (a : State × β) : (l.foldl f a).1.pending = a.1.pending := by
  induction l generalizing a with
  | nil => rfl
  | cons x l ih => rw [List.foldl_cons, ih, h]

@[simp] theorem State.setCell_pending (s : State) (p : PCell) (c : Cell) : (State.setCell s p c).pending = s.pending := by
  rfl

@[simp] theorem act_ite_pending {c : Prop} [Decidable c] {a b : Act} {s : State} (ha : a.1.pending = s.pending)
    (hb : b.1.pending = s.pending) :
    (if c then a else b).1.pending = s.pending := by split <;> assumption

@[simp] theorem State.modCell_pending (s : State) (p : PCell) (f : Cell → Cell) : (State.modCell s p f).pending = s.pending := by
  unfold State.modCell
  simp only [State.setCell_pending]

@[simp] theorem State.modPort_pending (s : State) (e : EPort) (f : Port → Port) : (State.modPort s e f).pending = s.pending := by
  unfold State.modPort
  simp only [State.modCell_pending]

@[simp] theorem State.modQuad_pending (s : State) (q : QuadNo) (f : Quad → Quad) : (State.modQuad s q f).pending = s.pending := by
  rfl

@[simp] theorem State.out_pending (s : State) (o : Out) : (State.out s o).pending = s.pending := by
  rfl

@[simp] theorem State.setIrq_pending (s : State) (bit : Nat) : (State.setIrq s bit).pending = s.pending := by
  rfl

@[simp] theorem State.loseN_pending (s : State) (n : Nat) : (State.loseN s n).pending = s.pending := by
  unfold State.loseN
  simp only [apply_ite State.pending, ite_self, State.setIrq_pending]

@[simp] theorem State.intake_pending (s : State) (i : Fin 5) (r : Report) : (State.intake s i r).pending = s.pending := by
  unfold State.intake
  dsimp only
  repeat' split
  all_goals simp only [State.loseN_pending, State.setIrq_pending]

@[simp] theorem State.reportN_pending (s : State) (level : BitVec 4) (src : BitVec 16) (cls : Byte) (sev : Sev) (count : Nat) (detail : BitVec 96) :
     (State.reportN s level src cls sev count detail).pending = s.pending := by
  unfold State.reportN
  simp only [State.intake_pending]

@[simp] theorem State.report_pending (s : State) (level : BitVec 4) (src : BitVec 16) (cls : Byte) (sev : Sev) (detail : BitVec 96) :
     (State.report s level src cls sev detail).pending = s.pending := by
  unfold State.report
  simp only [State.reportN_pending]

@[simp] theorem State.tfFault_pending (s : State) (e : EPort) (tile : Nat) (code : Code) (op : Byte) (row : Nat) :
     (State.tfFault s e tile code op row).pending = s.pending := by
  unfold State.tfFault
  simp only [State.modCell_pending]

@[simp] theorem State.present_pending (s : State) (e : EPort) (op tag : Byte) (tile : Nat) (code : Code) (detail : Word) (row : Nat) :
     (State.present s e op tag tile code detail row).pending = s.pending := by
  unfold State.present
  simp only [apply_ite State.pending, ite_self, State.out_pending, State.tfFault_pending]

@[simp] theorem State.complete_pending (s : State) (e : EPort) (c : Cmd) (code : Code) (detail : Word) (row : Nat) :
     (State.complete s e c code detail row).pending = s.pending := by
  unfold State.complete
  simp only [State.modCell_pending, State.present_pending]

@[simp] theorem State.putCmd_pending (s : State) (e : EPort) (c : Cmd) : (State.putCmd s e c).pending = s.pending := by
  unfold State.putCmd
  simp only [State.modPort_pending]

@[simp] theorem State.addNdet_pending (s : State) (n : Nat) : (State.addNdet s n).pending = s.pending := by
  rfl

@[simp] theorem State.modRecOf_pending (s : State) (step : BitVec 48) (f : StepRec → StepRec) :
     (State.modRecOf s step f).pending = s.pending := by
  rfl

@[simp] theorem State.flagStep_pending (s : State) (step : BitVec 48) (f : RecFlag) : (State.flagStep s step f).pending = s.pending := by
  unfold State.flagStep
  simp only [apply_ite State.pending, ite_self, State.modRecOf_pending]

@[simp] theorem State.digestLoss_pending (s : State) (x : DEntry) : (State.digestLoss s x).pending = s.pending := by
  unfold State.digestLoss
  simp only [State.report_pending, State.flagStep_pending]

@[simp] theorem State.diverge_pending (s : State) (own : DEntry) : (State.diverge s own).pending = s.pending := by
  unfold State.diverge
  simp only [apply_ite State.pending, apply_ite Prod.fst, ite_self, State.intake_pending, State.flagStep_pending, foldl_pending, foldl_fst_pending, implies_true]

@[simp] theorem State.ownEntry_pending (s : State) (x : DEntry) : (State.ownEntry s x).pending = s.pending := by
  unfold State.ownEntry
  dsimp only
  repeat' split
  all_goals simp only [State.digestLoss_pending, State.diverge_pending]

@[simp] theorem State.peerEntry_pending (s : State) (x : DEntry) : (State.peerEntry s x).pending = s.pending := by
  unfold State.peerEntry
  repeat' split
  all_goals simp only [State.digestLoss_pending, State.diverge_pending]

@[simp] theorem State.fold_pending (s : State) (id : BitVec 16) (unit : List Byte) : (State.fold s id unit).pending = s.pending := by
  unfold State.fold
  simp only [apply_ite State.pending, ite_self, State.ownEntry_pending]

@[simp] theorem State.atAclk_pending (s : State) (k : Nat) : (State.atAclk s k).pending = s.pending := by
  rfl

@[simp] theorem State.passes_pending (s t : State) : (State.passes s t).pending = t.pending := by
  unfold State.passes
  split <;> rfl

@[simp] theorem State.atTick_pending (s : State) (now : Tick) : (State.atTick s now).pending = s.pending := by
  unfold State.atTick
  simp only [apply_ite State.pending, ite_self, State.passes_pending]

@[simp] theorem State.cycle_pending (s : State) : (State.cycle s).pending = s.pending := by
  unfold State.cycle
  simp only [apply_ite State.pending, ite_self]

@[simp] theorem State.idle_pending (s : State) : (State.idle s).pending = s.pending := by
  unfold State.idle
  simp only [apply_ite State.pending, ite_self, State.cycle_pending, State.passes_pending]

@[simp] theorem State.served_pending (s : State) (c : Cba) (skip : Option Nat) : (State.served s c skip).pending = s.pending := by
  rfl

@[simp] theorem State.serve_pending (s : State) (skip : Option Nat) : (State.serve s skip).pending = s.pending := by
  rfl

@[simp] theorem State.askLevel_pending (s : State) (n want : Nat) : (State.askLevel s n want).pending = s.pending := by
  unfold State.askLevel
  simp only [State.serve_pending]

@[simp] theorem State.setPwr_pending (s : State) (p : PCell) (w : Pwr) : (State.setPwr s p w).pending = s.pending := by
  unfold State.setPwr
  simp only [State.askLevel_pending, State.modCell_pending]

@[simp] theorem State.shutdown_pending (s : State) (p : PCell) : (State.shutdown s p).pending = s.pending := by
  unfold State.shutdown
  simp only [apply_ite State.pending, ite_self, State.askLevel_pending, State.modCell_pending, State.setPwr_pending]

@[simp] theorem State.enable_pending (s : State) (p : PCell) : (State.enable s p).pending = s.pending := by
  unfold State.enable
  simp only [apply_ite State.pending, ite_self, State.askLevel_pending, State.modCell_pending]

@[simp] theorem State.dropGrant_pending (s : State) (e : EPort) : (State.dropGrant s e).pending = s.pending := by
  rfl

@[simp] theorem State.modGen_pending (s : State) (idx : BitVec 12) (f : Gen → Gen) : (State.modGen s idx f).pending = s.pending := by
  rfl

@[simp] theorem State.geoWrite_pending (s : State) : (State.geoWrite s).pending = s.pending := by
  unfold State.geoWrite
  simp only []

@[simp] theorem State.geoRewriteBy_pending (s : State) (mb : Option Nat) : (State.geoRewriteBy s mb).pending = s.pending := by
  unfold State.geoRewriteBy
  simp only [apply_ite State.pending, ite_self, State.report_pending, State.geoWrite_pending]

@[simp] theorem State.geoRewrite_pending (s : State) : (State.geoRewrite s).pending = s.pending := by
  unfold State.geoRewrite
  simp only [State.geoRewriteBy_pending]

@[simp] theorem State.sendOf_pending (s : State) (step : BitVec 48) (type flags : Byte) (dst vshard stream : BitVec 16) (payload : List Byte) :
     (State.sendOf s step type flags dst vshard stream payload).pending = s.pending := by
  unfold State.sendOf
  simp only [apply_ite State.pending, ite_self]

@[simp] theorem State.send_pending (s : State) (type flags : Byte) (dst vshard stream : BitVec 16) (payload : List Byte) :
     (State.send s type flags dst vshard stream payload).pending = s.pending := by
  unfold State.send
  simp only [State.sendOf_pending]

@[simp] theorem State.sendVoid_pending (s : State) (replay notBefore : Nat) (cause : Byte) (hold : Bool) :
     (State.sendVoid s replay notBefore cause hold).pending = s.pending := by
  unfold State.sendVoid
  simp only [State.send_pending]

@[simp] theorem State.modRec_pending (s : State) (f : StepRec → StepRec) : (State.modRec s f).pending = s.pending := by
  unfold State.modRec
  split <;> simp only []

@[simp] theorem State.voidPort_pending (s : State) (e : EPort) : (State.voidPort s e).pending = s.pending := by
  unfold State.voidPort
  simp only [State.modPort_pending, State.present_pending, foldl_pending, implies_true]

@[simp] theorem State.noteVoid_pending (s : State) (e : EPort) (req : BitVec 12) (status : BitVec 2) :
     (State.noteVoid s e req status).pending = s.pending := by
  unfold State.noteVoid
  simp only [apply_ite State.pending, ite_self, State.report_pending, State.tfFault_pending]

@[simp] theorem State.voidReads_pending (s : State) : (State.voidReads s).pending = s.pending := by
  unfold State.voidReads
  simp only
  refine foldl_pending ?_ _ _
  intro t o
  split <;> simp only [apply_ite State.pending, State.noteVoid_pending, ite_self]

@[simp] theorem State.voidCleanup_pending (s : State) : (State.voidCleanup s).pending = s.pending := by
  unfold State.voidCleanup
  simp only [State.voidReads_pending, State.voidPort_pending, foldl_pending, implies_true]

@[simp] theorem State.enterHold_pending (s : State) : (State.enterHold s).pending = s.pending := by
  unfold State.enterHold
  simp only [apply_ite State.pending, ite_self, State.modRec_pending]

@[simp] theorem State.tellReplay_pending (s : State) (r : Nat) : (State.tellReplay s r).pending = s.pending := by
  unfold State.tellReplay
  simp only [apply_ite State.pending, ite_self, State.out_pending]

@[simp] theorem State.leaderAnnounce_pending (s : State) (notBefore : Nat) : (State.leaderAnnounce s notBefore).pending = s.pending := by
  unfold State.leaderAnnounce
  simp only [State.sendVoid_pending, State.tellReplay_pending]

@[simp] theorem State.leaderTake_pending (s : State) (nb : Nat) (hold : Bool) : (State.leaderTake s nb hold).pending = s.pending := by
  unfold State.leaderTake
  simp only [apply_ite State.pending, ite_self, State.leaderAnnounce_pending, State.sendVoid_pending]

@[simp] theorem State.tellMaster_pending (s : State) : (State.tellMaster s).pending = s.pending := by
  unfold State.tellMaster
  simp only [apply_ite State.pending, ite_self, State.out_pending]

@[simp] theorem State.request_pending (s : State) : (State.request s).pending = s.pending := by
  unfold State.request
  simp only [apply_ite State.pending, ite_self, State.leaderTake_pending, State.sendVoid_pending, State.tellMaster_pending]

@[simp] theorem State.stopStep_pending (s : State) (cause : Byte) : (State.stopStep s cause).pending = s.pending := by
  unfold State.stopStep
  simp only [apply_ite State.pending, ite_self, State.report_pending, State.out_pending, State.voidCleanup_pending]

@[simp] theorem State.beginVoid_pending (s : State) (cause : Byte) : (State.beginVoid s cause).pending = s.pending := by
  unfold State.beginVoid
  simp only [apply_ite State.pending, ite_self, State.request_pending, State.stopStep_pending]

@[simp] theorem State.wantHold_pending (s : State) (cause : Byte) : (State.wantHold s cause).pending = s.pending := by
  unfold State.wantHold
  simp only [apply_ite State.pending, ite_self, State.enterHold_pending, State.request_pending, State.stopStep_pending]

@[simp] theorem State.instFatal_pending (s : State) (cause : Byte) : (State.instFatal s cause).pending = s.pending := by
  unfold State.instFatal
  simp only [State.wantHold_pending]

@[simp] theorem State.uncorr_pending (s : State) (level : BitVec 4) (src : BitVec 16) (addr struct : Nat) :
     (State.uncorr s level src addr struct).pending = s.pending := by
  unfold State.uncorr
  simp only [State.beginVoid_pending, State.report_pending]

@[simp] theorem State.putRun_pending (s : State) (q : QuadNo) (r : Run) : (State.putRun s q r).pending = s.pending := by
  unfold State.putRun
  simp only [State.modQuad_pending]

@[simp] theorem State.dropRun_pending (s : State) (q : QuadNo) (seq : Nat) : (State.dropRun s q seq).pending = s.pending := by
  unfold State.dropRun
  simp only [State.modQuad_pending]

@[simp] theorem State.heldRecord_pending (s : State) (q : QuadNo) (r : Run) (code : Code) (detail : Word) :
     (State.heldRecord s q r code detail).pending = s.pending := by
  unfold State.heldRecord
  simp only [State.report_pending]

@[simp] theorem State.runFault_pending (s : State) (r : Run) (code : Code) (detail : Word) :
     (State.runFault s r code detail).pending = s.pending := by
  unfold State.runFault
  split <;> simp only [State.tfFault_pending]

@[simp] theorem State.cancelStash_pending (s : State) (uid : Option Nat) : (State.cancelStash s uid).pending = s.pending := by
  unfold State.cancelStash
  split <;> simp only []

@[simp] theorem State.forgetRun_pending (s : State) (seq : Nat) : (State.forgetRun s seq).pending = s.pending := by
  rfl

@[simp] theorem State.retireRun_pending (s : State) (q : QuadNo) (r : Run) (code : Code) (detail : Word) :
     (State.retireRun s q r code detail).pending = s.pending := by
  unfold State.retireRun
  simp only [apply_ite State.pending, ite_self, State.putRun_pending, State.dropRun_pending, State.forgetRun_pending]

@[simp] theorem State.tellWaiters_pending (s : State) (q : QuadNo) (seq : Nat) (code : Code) (detail : Word) :
     (State.tellWaiters s q seq code detail).pending = s.pending := by
  unfold State.tellWaiters
  simp only [apply_ite State.pending, ite_self, State.complete_pending, State.dropRun_pending, foldl_pending, implies_true]

@[simp] theorem State.noteSkipped_pending (s : State) (q : QuadNo) (r : Run) : (State.noteSkipped s q r).pending = s.pending := by
  unfold State.noteSkipped
  simp only [apply_ite State.pending, ite_self, State.reportN_pending]

@[simp] theorem State.endRun_pending (s : State) (q : QuadNo) (r : Run) (code : Code) (detail : Word) (pennant : Bool) :
     (State.endRun s q r code detail pennant).pending = s.pending := by
  unfold State.endRun
  simp only [apply_ite State.pending, ite_self, State.tellWaiters_pending, State.heldRecord_pending, State.runFault_pending,
      State.noteSkipped_pending, State.retireRun_pending]

@[simp] theorem State.settlePort_pending (s : State) (e : EPort) : (State.settlePort s e).pending = s.pending := by
  unfold State.settlePort
  simp only [State.complete_pending, foldl_pending, implies_true]

@[simp] theorem State.admitLate_pending (s : State) : (State.admitLate s).pending = s.pending := by
  unfold State.admitLate
  simp only [apply_ite State.pending, ite_self, State.geoRewrite_pending, State.out_pending]

@[simp] theorem State.settle_pending (s : State) : (State.settle s).pending = s.pending := by
  rw [State.settle, State.admitLate_pending]
  exact foldl_pending (fun s e => State.settlePort_pending s e) _ s

@[simp] theorem State.jackfail_pending (s : State) (p : PCell) (stage : Nat) (l : BitVec 16) :
     (State.jackfail s p stage l).pending = s.pending := by
  unfold State.jackfail
  simp only [State.report_pending]

@[simp] theorem State.noteSkips_pending (s : State) (l : List PCell) : (State.noteSkips s l).pending = s.pending := by
  unfold State.noteSkips
  simp only [apply_ite State.pending, ite_self, State.jackfail_pending, foldl_pending, implies_true]

@[simp] theorem State.nextFill_pending (s : State) : (State.nextFill s).pending = s.pending := by
  unfold State.nextFill
  dsimp only
  repeat' split
  all_goals simp only [State.enable_pending, State.geoRewrite_pending, State.modCell_pending, State.noteSkips_pending,
      State.setPwr_pending, State.wantHold_pending]

@[simp] theorem State.abortFill_pending (s : State) : (State.abortFill s).pending = s.pending := by
  unfold State.abortFill
  repeat' split
  all_goals simp only [apply_ite State.pending, ite_self, State.geoRewrite_pending, State.jackfail_pending, State.modCell_pending,
      State.nextFill_pending, State.request_pending, State.shutdown_pending]

@[simp] theorem State.retireCell_pending (s : State) (p : PCell) (cause : Nat) : (State.retireCell s p cause).pending = s.pending := by
  unfold State.retireCell
  dsimp only
  repeat' split
  all_goals simp only [State.abortFill_pending, State.geoRewrite_pending, State.modCell_pending, State.nextFill_pending,
      State.report_pending, State.request_pending, State.shutdown_pending, State.stopStep_pending]

@[simp] theorem State.fenceCmds_pending (s : State) (e : EPort) : (State.fenceCmds s e).pending = s.pending := by
  unfold State.fenceCmds
  simp only [State.cancelStash_pending, State.modCell_pending, State.present_pending, foldl_pending, implies_true]

@[simp] theorem State.fenceRuns_pending (s : State) (e : EPort) : (State.fenceRuns s e).pending = s.pending := by
  unfold State.fenceRuns
  split
  · rfl
  · exact foldl_pending (fun s q => foldl_pending (fun s r => by rw [State.endRun_pending, State.cancelStash_pending]) _ s) _ s

@[simp] theorem State.fence_pending (s : State) (e : EPort) (no reason ident : Nat) :
     (State.fence s e no reason ident).pending = s.pending := by
  unfold State.fence
  simp only [apply_ite State.pending, ite_self, State.dropGrant_pending, State.fenceCmds_pending, State.fenceRuns_pending,
      State.geoRewrite_pending, State.modPort_pending, State.report_pending, State.settle_pending]

@[simp] theorem State.fenceRetire_pending (s : State) (e : EPort) (no reason ident : Nat) :
     (State.fenceRetire s e no reason ident).pending = s.pending := by
  unfold State.fenceRetire
  simp only [apply_ite State.pending, ite_self, State.fence_pending, State.retireCell_pending]

@[simp] theorem State.violation_pending (s : State) (e : EPort) (no ident : Nat) : (State.violation s e no ident).pending = s.pending := by
  unfold State.violation
  simp only [apply_ite State.pending, ite_self, State.fenceRetire_pending, State.modPort_pending, State.report_pending]

@[simp] theorem State.recordId_pending (s : State) (x : IdSample) (start : Bool) : (State.recordId s x start).pending = s.pending := by
  unfold State.recordId
  simp only [State.modPort_pending]

@[simp] theorem State.sampleId_pending (s : State) (x : IdSample) : (State.sampleId s x).pending = s.pending := by
  unfold State.sampleId
  simp only [apply_ite State.pending, ite_self, State.fenceRetire_pending, State.recordId_pending]

@[simp] theorem State.corrected_pending (s : State) (p : PCell) (t : TileNo) (row : RowNo) :
     (State.corrected s p t row).pending = s.pending := by
  unfold State.corrected
  simp only [State.modCell_pending, State.report_pending]

@[simp] theorem State.rowUncorr_pending (s : State) (p : PCell) (t : TileNo) (row : RowNo) :
     (State.rowUncorr s p t row).pending = s.pending := by
  unfold State.rowUncorr
  simp only [apply_ite State.pending, ite_self, State.retireCell_pending, State.uncorr_pending, State.modCell_pending,
      State.beginVoid_pending]

@[simp] theorem State.rowEcc_pending (s : State) (p : PCell) (t : TileNo) (row : RowNo) (x_1 : Ecc) :
     (State.rowEcc s p t row x_1).pending = s.pending := by
  cases x_1 <;> unfold State.rowEcc <;> simp only [State.rowUncorr_pending, State.corrected_pending]

@[simp] theorem State.rowEccs_pending (s : State) (p : PCell) (ecc : List RowEcc) (l : List (TileNo × RowNo)) :
     (State.rowEccs s p ecc l).pending = s.pending := by
  unfold State.rowEccs
  simp only [State.rowEcc_pending, foldl_pending, implies_true]

@[simp] theorem State.rvEcc_pending (s : State) (p : PCell) (entry : Nat) (x_1 : Ecc) :
     (State.rvEcc s p entry x_1).pending = s.pending := by
  cases x_1 <;> (unfold State.rvEcc; simp only [State.uncorr_pending, State.report_pending])

@[simp] theorem State.startTcfg_pending (s : State) (e : EPort) (c : Cmd) : (State.startTcfg s e c).pending = s.pending := by
  unfold State.startTcfg
  simp only [apply_ite State.pending, ite_self, State.complete_pending, State.modCell_pending]

@[simp] theorem State.startTzero_pending (s : State) (e : EPort) (c : Cmd) : (State.startTzero s e c).pending = s.pending := by
  unfold State.startTzero
  simp only [apply_ite State.pending, ite_self, State.complete_pending, State.modCell_pending]

@[simp] theorem State.startTrelease_pending (s : State) (e : EPort) (c : Cmd) : (State.startTrelease s e c).pending = s.pending := by
  unfold State.startTrelease
  simp only [State.complete_pending, State.modCell_pending]

@[simp] theorem State.startTmove_pending (s : State) (e : EPort) (c : Cmd) (ecc : List RowEcc) :
     (State.startTmove s e c ecc).pending = s.pending := by
  unfold State.startTmove
  dsimp only
  repeat' split
  all_goals simp only [State.rowUncorr_pending, State.rowEccs_pending, State.modCell_pending, State.complete_pending]

@[simp] theorem State.startRvread_pending (s : State) (e : EPort) (c : Cmd) : (State.startRvread s e c).pending = s.pending := by
  unfold State.startRvread
  simp only [apply_ite State.pending, ite_self, State.complete_pending, State.modCell_pending]

@[simp] theorem State.accessPennant_pending (s : State) (e : EPort) (cls : Byte) (t : TileNo) (row : RowNo) :
     (State.accessPennant s e cls t row).pending = s.pending := by
  unfold State.accessPennant
  simp only [State.report_pending]

@[simp] theorem State.hazard_pending (s : State) (e : EPort) (t : TileNo) (row : RowNo) : (State.hazard s e t row).pending = s.pending := by
  unfold State.hazard
  simp only [State.accessPennant_pending, State.addNdet_pending, State.tfFault_pending]

@[simp] theorem State.readOperand_pending (s : State) (e : EPort) (req : BitVec 12) (ecc : Ecc) :
     (State.readOperand s e req ecc).1.pending = s.pending := by
  unfold State.readOperand
  dsimp only
  repeat' split
  all_goals simp only [State.accessPennant_pending, State.hazard_pending, State.rowEcc_pending,
      State.tfFault_pending]

@[simp] theorem State.lateOperand_pending (s old : State) (e : EPort) (req : BitVec 12) (ecc : Ecc) :
     (State.lateOperand s old e req ecc).pending = s.pending := by
  unfold State.lateOperand
  split <;> simp only [State.rowEcc_pending]

@[simp] theorem State.operandRead_pending (s : State) (e : EPort) (a b : BitVec 12) (aclk : Nat) (eccA eccB : Ecc) :
     (State.operandRead s e a b aclk eccA eccB).pending = s.pending := by
  unfold State.operandRead
  simp only [apply_ite State.pending, apply_ite Prod.fst, ite_self, State.noteVoid_pending, State.lateOperand_pending,
      State.readOperand_pending, State.violation_pending, State.out_pending, State.atAclk_pending]

@[simp] theorem State.reduce_pending (s : State) (old : Cell) (chk : RedStop) (e : EPort) (k : TileCfg) (t : TileNo) (row : RowNo) (data : Row) (rctl : Byte) (ecc : List RowEcc) (rvEcc : Ecc) :
     (State.reduce s old chk e k t row data rctl ecc rvEcc).pending = s.pending := by
  unfold State.reduce
  dsimp only
  repeat' split
  all_goals simp only [State.modCell_pending, State.rowEccs_pending, State.rvEcc_pending, State.hazard_pending, State.accessPennant_pending]

@[simp] theorem State.dropWrite_pending (s : State) (e : EPort) (t : TileNo) (row : RowNo) (code : Code) :
     (State.dropWrite s e t row code).pending = s.pending := by
  unfold State.dropWrite
  simp only [State.tfFault_pending]

@[simp] theorem State.takeWrite_pending (s : State) (e : EPort) (t : TileNo) (row : RowNo) (data : Row) (rctl : Byte) (ecc : List RowEcc) (rvEcc : Ecc) (x : Tile) (k : TileCfg) :
     (State.takeWrite s e t row data rctl ecc rvEcc x k).pending = s.pending := by
  unfold State.takeWrite
  simp only [State.fold_pending, State.modCell_pending, State.reduce_pending]

@[simp] theorem State.resultWrite_pending (s : State) (e : EPort) (t : TileNo) (row : RowNo) (data : Row) (rctl : Byte) (aclk : Nat) (ecc : List RowEcc) (rvEcc : Ecc) :
     (State.resultWrite s e t row data rctl aclk ecc rvEcc).pending = s.pending := by
  unfold State.resultWrite
  dsimp only
  repeat' split
  all_goals simp only [State.accessPennant_pending, State.atAclk_pending, State.dropWrite_pending, State.hazard_pending,
      State.takeWrite_pending, State.violation_pending]

@[simp] theorem State.writeBack_pending (s : State) (p : PCell) (t : TileNo) (row : RowNo) :
     (State.writeBack s p t row).pending = s.pending := by
  unfold State.writeBack
  simp only [State.modCell_pending]

@[simp] theorem State.took_pending (s : State) (ps : List (Nat × Nat)) : (State.took s ps).pending = s.pending := by
  rfl

@[simp] theorem State.sendAway_pending (s : State) (kind : AwayKind) (pa : Nat) (data : List Byte) (ini : Initiator) :
     (State.sendAway s kind pa data ini).pending = s.pending := by
  rfl

@[simp] theorem State.modMsp_pending (s : State) (m : Fin 6) (f : Msp → Msp) : (State.modMsp s m f).pending = s.pending := by
  rfl

theorem State.issueTxn_pending (s : State) (line : Nat) (write : Bool) (qos : Nat) (x : State × Fin 6 × BitVec 12)
    (h : s.issueTxn line write qos = some x) : x.1.pending = s.pending := by
  simp only [State.issueTxn] at h
  repeat' split at h
  all_goals first | (cases h; simp only [State.out_pending, State.modMsp_pending]) | cases h

@[simp] theorem State.deny_pending (s : State) (line struct : Nat) : (State.deny s line struct).pending = s.pending := by
  unfold State.deny
  split <;> simp only [State.uncorr_pending]

@[simp] theorem State.missOut_pending (s : State) (line : Nat) : (State.missOut s line).pending = s.pending := by
  unfold State.missOut
  split <;> simp only [apply_ite State.pending, apply_ite Prod.fst, ite_self, State.modQuad_pending, foldl_pending, foldl_fst_pending, implies_true]

@[simp] theorem State.missWaits_pending (s : State) (line qos : Nat) : (State.missWaits s line qos).pending = s.pending := by
  unfold State.missWaits
  simp only [apply_ite State.pending, apply_ite Prod.fst, ite_self, foldl_pending, foldl_fst_pending, implies_true]

@[simp] theorem State.missesGo_pending (s : State) (m : Fin 6) : (State.missesGo s m).pending = s.pending := by
  unfold State.missesGo
  dsimp only
  split
  · rfl
  · refine foldl_pending (fun s x => ?_) _ _
    split
    · rename_i h
      rw [State.missOut_pending]
      exact State.issueTxn_pending _ _ _ _ _ h
    · rfl

@[simp] theorem State.fetch_pending (s : State) (line : Nat) (ini : Initiator) : (State.fetch s line ini).pending = s.pending := by
  unfold State.fetch
  split
  · rw [State.sendAway_pending]
  · split
    · rfl
    · split
      · rename_i h
        rw [State.missOut_pending]
        exact State.issueTxn_pending _ _ _ _ _ h
      · split
        · exact State.deny_pending ..
        · exact State.missWaits_pending ..

@[simp] theorem State.fetchPieces_pending (s : State) (ps : List (Nat × Nat)) (ini : Initiator) :
     (State.fetchPieces s ps ini).pending = s.pending := by
  unfold State.fetchPieces
  simp only [State.fetch_pending, foldl_pending, implies_true]

@[simp] theorem State.writeBackLine_pending (s : State) (l : Line) (qos : Nat) : (State.writeBackLine s l qos).pending = s.pending := by
  unfold State.writeBackLine
  split
  · rfl
  · split
    · split
      · rfl
      · exact State.deny_pending ..
    · rename_i h
      exact State.issueTxn_pending _ _ _ _ _ h

@[simp] theorem State.makeRoom_pending (s : State) (line qos : Nat) : (State.makeRoom s line qos).1.pending = s.pending := by
  unfold State.makeRoom
  dsimp only
  repeat' split
  all_goals simp only [State.writeBackLine_pending]

@[simp] theorem State.touchLine_pending (s : State) (line : Nat) (lanes : Byte) (qos : Nat) :
     (State.touchLine s line lanes qos).pending = s.pending := by
  unfold State.touchLine
  simp only [apply_ite State.pending, ite_self, State.makeRoom_pending]

@[simp] theorem State.writeMem_pending (s : State) (pa : Nat) (bs : List Byte) (ini : Initiator) :
     (State.writeMem s pa bs ini).pending = s.pending := by
  unfold State.writeMem
  simp only [apply_ite State.pending, ite_self, State.sendAway_pending, State.touchLine_pending, foldl_pending, implies_true]

@[simp] theorem State.fillLine_pending (s : State) (line : Nat) (data : Row) (qos : Nat) :
     (State.fillLine s line data qos).pending = s.pending := by
  unfold State.fillLine
  dsimp only
  repeat' split
  all_goals simp only [State.makeRoom_pending]

@[simp] theorem State.cacheError_pending (s : State) (l : Line) (qos : Nat) : (State.cacheError s l qos).pending = s.pending := by
  unfold State.cacheError
  simp only [apply_ite State.pending, ite_self, State.writeBackLine_pending]

@[simp] theorem State.cacheEcc_pending (s : State) (line qos : Nat) (ecc : Ecc) : (State.cacheEcc s line qos ecc).pending = s.pending := by
  unfold State.cacheEcc
  split <;> simp only [State.cacheError_pending, State.uncorr_pending, State.report_pending]

@[simp] theorem State.tableUncorr_pending (s : State) (level : BitVec 4) (src : BitVec 16) (addr struct : Nat) :
     (State.tableUncorr s level src addr struct).pending = s.pending := by
  unfold State.tableUncorr
  simp only [State.uncorr_pending]

@[simp] theorem State.mspUncorr_pending (s : State) (m : Fin 6) (t : Txn) (struct : Nat) :
     (State.mspUncorr s m t struct).pending = s.pending := by
  unfold State.mspUncorr
  simp only [State.modMsp_pending, State.uncorr_pending]

@[simp] theorem State.mspCorrected_pending (s : State) (m : Fin 6) (t : Txn) (struct : Nat) :
     (State.mspCorrected s m t struct).pending = s.pending := by
  unfold State.mspCorrected
  simp only [State.report_pending]

@[simp] theorem State.mspViolation_pending (s : State) (m : Fin 6) (no ident : Nat) :
     (State.mspViolation s m no ident).pending = s.pending := by
  unfold State.mspViolation
  simp only [apply_ite State.pending, ite_self, State.mspUncorr_pending, State.instFatal_pending, State.report_pending,
      State.modMsp_pending, foldl_pending, implies_true]

@[simp] theorem State.mspRead_pending (s : State) (m : Fin 6) (id : BitVec 12) (seq : BitVec 4) (status : BitVec 2) (data : Row) :
     (State.mspRead s m id seq status data).pending = s.pending := by
  unfold State.mspRead
  repeat' split
  all_goals simp only [State.fillLine_pending, State.modMsp_pending, State.mspCorrected_pending, State.mspUncorr_pending,
      State.mspViolation_pending]

@[simp] theorem State.mspWritten_pending (s : State) (m : Fin 6) (id : BitVec 12) (status : BitVec 2) :
     (State.mspWritten s m id status).pending = s.pending := by
  unfold State.mspWritten
  repeat' split
  all_goals simp only [State.modMsp_pending, State.mspCorrected_pending, State.mspUncorr_pending, State.mspViolation_pending]

@[simp] theorem State.mspLate_pending (s : State) (m : Fin 6) (id : BitVec 12) (now : Tick) :
     (State.mspLate s m id now).pending = s.pending := by
  unfold State.mspLate
  dsimp only
  repeat' split
  all_goals simp only [State.atTick_pending, State.mspUncorr_pending]

@[simp] theorem State.identsEnd_pending (s : State) : (State.identsEnd s).pending = s.pending := by
  unfold State.identsEnd
  simp only [apply_ite State.pending, ite_self, State.setPwr_pending, foldl_pending, implies_true]

@[simp] theorem State.mspIdent_pending (s : State) (m : Fin 6) (data : Word) : (State.mspIdent s m data).pending = s.pending := by
  unfold State.mspIdent
  simp only [apply_ite State.pending, ite_self, State.identsEnd_pending, State.modMsp_pending, State.mspViolation_pending,
      State.out_pending]

@[simp] theorem State.mspNoIdent_pending (s : State) (m : Fin 6) : (State.mspNoIdent s m).pending = s.pending := by
  unfold State.mspNoIdent
  simp only [apply_ite State.pending, ite_self, State.identsEnd_pending, State.modMsp_pending]

@[simp] theorem State.defaultAnswer_pending (s : State) (q : QuadNo) (addr : PAddr) (port : BitVec 5) (write : Bool) :
     (State.defaultAnswer s q addr port write).pending = s.pending := by
  unfold State.defaultAnswer
  simp only [State.modQuad_pending, State.report_pending]

@[simp] theorem State.poolTimeouts_pending (s : State) (target nclk : Nat) : (State.poolTimeouts s target nclk).pending = s.pending := by
  unfold State.poolTimeouts
  simp only [apply_ite State.pending, ite_self, State.uncorr_pending, foldl_pending, implies_true]

@[simp] theorem State.grant_pending (s : State) (target nclk : Nat) (arrivals : List Packet) (credits : List VChan) :
     (State.grant s target nclk arrivals credits).pending = s.pending := by
  unfold State.grant
  dsimp only
  repeat' split
  all_goals simp only [State.modQuad_pending, State.out_pending, State.poolTimeouts_pending]

@[simp] theorem State.turnRound_pending (s : State) (n : Fin 11) (up : Bool) : (State.turnRound s n up).pending = s.pending := by
  rfl

@[simp] theorem State.linkReport_pending (s : State) (l : Link) (cls : Byte) (sev : Sev) (replays : Nat) :
     (State.linkReport s l cls sev replays).pending = s.pending := by
  unfold State.linkReport
  simp only [State.report_pending]

@[simp] theorem State.setLinkFails_pending (s : State) (l : Link) (n : Nat) : (State.setLinkFails s l n).pending = s.pending := by
  rfl

@[simp] theorem State.modWq_pending (s : State) (w : Fin 4) (f : Wq → Wq) : (State.modWq s w f).pending = s.pending := by
  rfl

@[simp] theorem State.dropLost_pending (s : State) (lost : List Nat) : (State.dropLost s lost).pending = s.pending := by
  unfold State.dropLost
  simp only [State.out_pending, State.geoRewrite_pending]

@[simp] theorem State.afterReach_pending (s : State) (l : Link) (fails : Nat) (reach : BitVec 8) :
     (State.afterReach s l fails reach).pending = s.pending := by
  unfold State.afterReach
  simp only [apply_ite State.pending, ite_self, State.beginVoid_pending, State.wantHold_pending, State.dropLost_pending,
      State.geoRewrite_pending, State.instFatal_pending, State.linkReport_pending]

@[simp] theorem State.wqDown_pending (s : State) (w : Fin 4) (st : WqState) (reach : BitVec 8) :
     (State.wqDown s w st reach).pending = s.pending := by
  unfold State.wqDown
  simp only [State.modWq_pending, State.afterReach_pending]

@[simp] theorem State.attachLost_pending (s : State) (l : Link) (fails : Nat) : (State.attachLost s l fails).pending = s.pending := by
  unfold State.attachLost
  simp only [State.linkReport_pending, State.instFatal_pending]

@[simp] theorem State.linkDown_pending (s : State) (link : Link) (reach : BitVec 8) :
     (State.linkDown s link reach).pending = s.pending := by
  unfold State.linkDown
  dsimp only
  repeat' split
  all_goals simp only [State.afterReach_pending, State.wqDown_pending, State.linkReport_pending, State.beginVoid_pending,
      State.turnRound_pending, State.attachLost_pending, State.fence_pending, State.retireCell_pending]

@[simp] theorem State.flitFail_pending (s : State) (link : Link) (replayed : Bool) (reach : BitVec 8) :
     (State.flitFail s link replayed reach).pending = s.pending := by
  unfold State.flitFail
  dsimp only
  repeat' split
  all_goals simp only [State.linkDown_pending, State.modWq_pending, State.linkReport_pending, State.setLinkFails_pending]

@[simp] theorem State.startLs_pending (s : State) (e : EPort) (c : Cmd) : (State.startLs s e c).pending = s.pending := by
  unfold State.startLs
  dsimp only
  repeat' split
  all_goals simp only [State.complete_pending, State.modCell_pending, State.putCmd_pending]

@[simp] theorem State.stopLs_pending (s : State) (e : EPort) (c : Cmd) (p : LsProg) (code : Code) (detail : Word) :
     (State.stopLs s e c p code detail).pending = s.pending := by
  unfold State.stopLs
  simp only [State.complete_pending, State.modCell_pending]

@[simp] theorem State.lsAfter_pending (s : State) (e : EPort) (c : Cmd) (p : LsProg) : (State.lsAfter s e c p).pending = s.pending := by
  unfold State.lsAfter
  repeat' split
  all_goals simp only [State.complete_pending, State.putCmd_pending, State.stopLs_pending]

@[simp] theorem State.keepWalk_pending (s : State) (q : QuadNo) (va : Nat) : (State.keepWalk s q va).pending = s.pending := by
  rfl

@[simp] theorem State.cacheLeaves_pending (s : State) (q : QuadNo) (ps : List (Nat × Nat)) :
     (State.cacheLeaves s q ps).pending = s.pending := by
  unfold State.cacheLeaves
  simp only [State.keepWalk_pending, foldl_pending, implies_true]

@[simp] theorem State.walkEcc_pending (s : State) (reads : List Nat) (qos : Nat) (ecc : Ecc) :
     (State.walkEcc s reads qos ecc).pending = s.pending := by
  unfold State.walkEcc
  split <;> simp only [State.cacheEcc_pending]

@[simp] theorem State.failUncorr_pending (s : State) (e : EPort) (tag : Byte) : (State.failUncorr s e tag).pending = s.pending := by
  unfold State.failUncorr
  split <;> simp only [State.cancelStash_pending, State.complete_pending]

@[simp] theorem State.seekRow_pending (s : State) (e : EPort) (tag : Byte) (ps : List (Nat × Nat)) (ini : Initiator) :
     (State.seekRow s e tag ps ini).pending = s.pending := by
  unfold State.seekRow
  simp only [apply_ite State.pending, ite_self, State.failUncorr_pending, State.fetchPieces_pending]

@[simp] theorem State.rowWalk_pending (s : State) (e : EPort) (tag : Byte) (row : Nat) (store : Bool) (ecc : Ecc) :
     (State.rowWalk s e tag row store ecc).pending = s.pending := by
  unfold State.rowWalk
  dsimp only
  repeat' split
  all_goals simp only [State.defaultAnswer_pending, State.lsAfter_pending, State.putCmd_pending, State.cacheLeaves_pending,
      State.walkEcc_pending, State.failUncorr_pending, State.seekRow_pending]

@[simp] theorem State.landRows_pending (e : EPort) (t : TileNo) (n : Nat) (s : State) (p : LsProg) :
     (State.landRows e t n s p).1.pending = s.pending := by
  induction n generalizing s p with
  | zero => rfl
  | succ n ih =>
    unfold State.landRows
    split
    · rfl
    · simp only [ih, State.modCell_pending]

@[simp] theorem State.loadRow_pending (s : State) (e : EPort) (tag : Byte) (row : Nat) (ecc : Ecc) :
     (State.loadRow s e tag row ecc).pending = s.pending := by
  unfold State.loadRow
  dsimp only
  repeat' split
  all_goals simp only [State.lsAfter_pending, State.landRows_pending, State.failUncorr_pending, State.took_pending, State.walkEcc_pending,
      State.seekRow_pending]

@[simp] theorem State.writePieces_pending (s : State) (p : PCell) (ps : List (Nat × Nat)) (bytes : List Byte) (ks : List Nat) :
     (State.writePieces s p ps bytes ks).pending = s.pending := by
  exact foldl_pending (fun s k => by split <;> simp only [State.writeMem_pending]) _ _

@[simp] theorem State.storeRow_pending (s : State) (e : EPort) (tag : Byte) (row : RowNo) (piece : Nat) (ecc : Ecc) :
     (State.storeRow s e tag row piece ecc).pending = s.pending := by
  unfold State.storeRow
  dsimp only
  repeat' split
  all_goals simp only [State.putCmd_pending, State.lsAfter_pending, State.writePieces_pending, State.rowEcc_pending,
      State.rowUncorr_pending, State.failUncorr_pending]

@[simp] theorem State.rowDefault_pending (s : State) (e : EPort) (tag : Byte) (row : Nat) (store : Bool) (addr : Nat) :
     (State.rowDefault s e tag row store addr).pending = s.pending := by
  unfold State.rowDefault
  split <;> simp only [apply_ite State.pending, ite_self, State.lsAfter_pending]

@[simp] theorem State.finishRow_pending (s : State) (e : EPort) (c : Cmd) (p : LsProg) :
     (State.finishRow s e c p).1.pending = s.pending := by
  unfold State.finishRow
  split <;> simp only [apply_ite State.pending, apply_ite Prod.fst, ite_self, State.writePieces_pending]

@[simp] theorem State.preemptPort_pending (s : State) (e : EPort) : (State.preemptPort s e).pending = s.pending := by
  refine foldl_pending (fun s c => ?_) _ _
  dsimp only
  split
  · repeat' split
    all_goals simp only [State.complete_pending, State.stopLs_pending, State.finishRow_pending]
  · rfl

@[simp] theorem State.preemptCell_pending (s : State) (p : PCell) : (State.preemptCell s p).pending = s.pending := by
  unfold State.preemptCell
  simp only [State.preemptPort_pending]

@[simp] theorem State.modEntry_pending (s : State) (uid : Nat) (f : SEntry → SEntry) : (State.modEntry s uid f).pending = s.pending := by
  rfl

@[simp] theorem State.storeEntry_pending (s : State) (x : SEntry) (rows : List Row) : (State.storeEntry s x rows).pending = s.pending := by
  unfold State.storeEntry
  simp only [apply_ite State.pending, ite_self, State.writeMem_pending, State.modEntry_pending]

@[simp] theorem State.spillOne_pending (s : State) (x : SEntry) : (State.spillOne s x).pending = s.pending := by
  unfold State.spillOne
  split <;> simp only [apply_ite State.pending, ite_self, State.writeMem_pending, State.modEntry_pending]

@[simp] theorem State.spillUntil_pending (q : QuadNo) (size : Nat) (l : List SEntry) (s : State) :
     (State.spillUntil q size l s).pending = s.pending := by
  induction l generalizing s with
  | nil => rfl
  | cons x l ih =>
    unfold State.spillUntil
    repeat' split
    all_goals simp only [ih, State.spillOne_pending]

@[simp] theorem State.spillFor_pending (s : State) (q : QuadNo) (size : Nat) : (State.spillFor s q size).pending = s.pending := by
  unfold State.spillFor
  simp only [State.spillUntil_pending]

@[simp] theorem State.placeEntry_pending (s : State) (q : QuadNo) (uid : Nat) : (State.placeEntry s q uid).pending = s.pending := by
  unfold State.placeEntry
  simp only [State.modEntry_pending]

@[simp] theorem State.stashPennant_pending (s : State) (k : Put) (cls : Byte) (x : Nat) :
     (State.stashPennant s k cls x).pending = s.pending := by
  unfold State.stashPennant
  simp only [State.report_pending]

@[simp] theorem State.register_pending (s : State) (k : Put) (mark : Bool) : (State.register s k mark).pending = s.pending := by
  unfold State.register
  simp only [apply_ite State.pending, ite_self, State.stashPennant_pending]

@[simp] theorem State.tryPut_pending (s : State) (k : Put) : (State.tryPut s k).1.pending = s.pending := by
  unfold State.tryPut
  dsimp only
  repeat' split
  all_goals simp only [State.addNdet_pending, State.placeEntry_pending, State.register_pending, State.spillFor_pending]

@[simp] theorem State.deliver_pending (s : State) (p : PCell) (t : TileNo) (x : SEntry) : (State.deliver s p t x).pending = s.pending := by
  unfold State.deliver
  simp only [State.modCell_pending, State.modEntry_pending]

@[simp] theorem State.portPut_pending (s : State) (e : EPort) (c : Cmd) (k : Put) : (State.portPut s e c k).pending = s.pending := by
  unfold State.portPut
  split <;> rename_i h <;> have w := congrArg (State.pending ·.1) h <;> rw [State.tryPut_pending] at w <;>
    simp only [State.putCmd_pending, State.complete_pending, State.stashPennant_pending, w]

@[simp] theorem State.startStashput_pending (s : State) (e : EPort) (c : Cmd) : (State.startStashput s e c).pending = s.pending := by
  unfold State.startStashput
  dsimp only
  repeat' split
  all_goals simp only [State.complete_pending, State.portPut_pending, State.stashPennant_pending]

@[simp] theorem State.startStashget_pending (s : State) (e : EPort) (c : Cmd) : (State.startStashget s e c).pending = s.pending := by
  unfold State.startStashget
  dsimp only
  repeat' split
  all_goals simp only [State.complete_pending, State.modEntry_pending, State.putCmd_pending, State.stashPennant_pending]

@[simp] theorem State.sliceEcc_pending (s : State) (x : SEntry) (row : Nat) (ecc : Ecc) :
     (State.sliceEcc s x row ecc).pending = s.pending := by
  unfold State.sliceEcc
  dsimp only
  repeat' split
  all_goals simp only [State.tableUncorr_pending, State.report_pending, State.cacheEcc_pending]

theorem readRows_pending {α : Type} (rows : List α) (ecc : α → Ecc) (f : State → α → Ecc → State) (s : State)
    (h : ∀ s x k, (f s x k).pending = s.pending) : (readRows rows ecc f s).1.pending = s.pending := by
  unfold readRows
  dsimp only
  split
  · exact (h ..).trans (foldl_pending (fun s x => h s x _) _ _)
  · exact foldl_pending (fun s x => h s x _) _ _

@[simp] theorem State.putReads_pending (s : State) (p : PCell) (t : TileNo) (x : Tile) (ecc : List RowEcc) :
     (State.putReads s p t x ecc).1.pending = s.pending := by
  unfold State.putReads
  simp only [State.rowEcc_pending, readRows_pending, implies_true]

@[simp] theorem State.getReads_pending (s : State) (t : TileNo) (x : SEntry) (ecc : List RowEcc) :
     (State.getReads s t x ecc).1.pending = s.pending := by
  unfold State.getReads
  simp only [State.sliceEcc_pending, readRows_pending, implies_true]

@[simp] theorem State.portTransfer_pending (s : State) (e : EPort) (tag : Byte) (ecc : List RowEcc) :
     (State.portTransfer s e tag ecc).pending = s.pending := by
  unfold State.portTransfer
  dsimp only
  repeat' split
  all_goals simp only [State.deliver_pending, State.took_pending, State.getReads_pending, State.seekRow_pending, State.storeEntry_pending,
      State.failUncorr_pending, State.putReads_pending, State.stashPennant_pending, State.complete_pending]

@[simp] theorem State.runPut_pending (s : State) (q : QuadNo) (r : Run) (k : Put) : (State.runPut s q r k).pending = s.pending := by
  unfold State.runPut
  split <;> rename_i h <;> have w := congrArg (State.pending ·.1) h <;> rw [State.tryPut_pending] at w <;>
    simp only [State.putRun_pending, State.endRun_pending, State.stashPennant_pending, w]

@[simp] theorem State.startRunPut_pending (s : State) (q : QuadNo) (r : Run) (p : PCell) :
     (State.startRunPut s q r p).pending = s.pending := by
  unfold State.startRunPut
  simp only [apply_ite State.pending, ite_self, State.endRun_pending, State.runPut_pending, State.stashPennant_pending]

@[simp] theorem State.startRunGet_pending (s : State) (q : QuadNo) (r : Run) (p : PCell) (c : TileCfg) :
     (State.startRunGet s q r p c).pending = s.pending := by
  unfold State.startRunGet
  dsimp only
  repeat' split
  all_goals simp only [State.endRun_pending, State.modEntry_pending, State.putRun_pending, State.stashPennant_pending]

@[simp] theorem State.runUncorr_pending (s : State) (q : QuadNo) (seq : Nat) : (State.runUncorr s q seq).pending = s.pending := by
  unfold State.runUncorr
  split <;> simp only [State.cancelStash_pending, State.tellWaiters_pending, State.dropRun_pending, State.forgetRun_pending]

@[simp] theorem State.seek_pending (s : State) (q : QuadNo) (seq : Nat) (ps : List (Nat × Nat)) (ini : Initiator) :
     (State.seek s q seq ps ini).pending = s.pending := by
  unfold State.seek
  simp only [apply_ite State.pending, ite_self, State.runUncorr_pending, State.fetchPieces_pending]

@[simp] theorem State.runTransfer_pending (s : State) (route : RouteId) (ecc : List RowEcc) :
     (State.runTransfer s route ecc).pending = s.pending := by
  unfold State.runTransfer
  dsimp only
  repeat' split
  all_goals simp only [State.deliver_pending, State.took_pending, State.getReads_pending, State.seek_pending, State.storeEntry_pending,
      State.fold_pending, State.runUncorr_pending, State.putReads_pending, State.stashPennant_pending, State.endRun_pending,
      foldl_pending, implies_true]

theorem State.spillEntry_pending (s t : State) (uid : Nat) (h : s.spillEntry uid = some t) : t.pending = s.pending := by
  simp only [State.spillEntry] at h
  repeat' split at h
  all_goals first | (cases h; simp only [State.placeEntry_pending, State.spillFor_pending]) | cases h

theorem State.bind_spill_pending {s t : State} {o : Option Nat} (h : o.bind s.spillEntry = some t) : t.pending = s.pending := by
  cases o with
  | none => cases h
  | some u => exact State.spillEntry_pending s t u h

@[simp] theorem State.unregister_pending (s : State) (uid : Nat) : (State.unregister s uid).pending = s.pending := by
  rfl

@[simp] theorem State.stashSpill_pending (s : State) (w : StashWho) : (State.stashSpill s w).pending = s.pending := by
  unfold State.stashSpill
  repeat' split
  all_goals first
    | rfl
    | (rename_i h _ _ _; simp only [State.portPut_pending, State.runPut_pending,
        State.unregister_pending]; exact State.bind_spill_pending h)
    | (rename_i h _ _ _; exact State.bind_spill_pending h)

@[simp] theorem State.spaceFreed_pending (s : State) (w : StashWho) : (State.spaceFreed s w).pending = s.pending := by
  unfold State.spaceFreed
  repeat' split
  all_goals simp only [State.portPut_pending, State.runPut_pending]

@[simp] theorem State.stashTimeout_pending (s : State) (w : StashWho) : (State.stashTimeout s w).pending = s.pending := by
  unfold State.stashTimeout
  repeat' split
  all_goals simp only [State.putCmd_pending, State.putRun_pending, State.stashPennant_pending]

@[simp] theorem State.stashAbort_pending (s : State) : (State.stashAbort s).pending = s.pending := by
  unfold State.stashAbort
  simp only [State.complete_pending, State.endRun_pending, State.stashPennant_pending, foldl_pending, implies_true]

@[simp] theorem State.stashRefill_pending (s : State) (q : QuadNo) : (State.stashRefill s q).pending = s.pending := by
  unfold State.stashRefill
  split <;> simp only [apply_ite State.pending, ite_self, State.took_pending, State.modEntry_pending, State.placeEntry_pending,
      State.fetchPieces_pending]

@[simp] theorem State.walked_pending (s : State) (q : QuadNo) (vas : List Nat) (ini : Initiator) :
     (State.walked s q vas ini).1.pending = s.pending := by
  unfold State.walked
  dsimp only
  repeat' split
  all_goals simp only [State.cacheLeaves_pending, State.fetchPieces_pending]

@[simp] theorem State.walkedFor_pending (s : State) (q : QuadNo) (seq : Nat) (vas : List Nat) (ini : Initiator) :
     (State.walkedFor s q seq vas ini).1.pending = s.pending := by
  unfold State.walkedFor
  simp only [apply_ite State.pending, apply_ite Prod.fst, ite_self, State.runUncorr_pending, State.walked_pending]

theorem State.keeping_pending (s : State) (q : QuadNo) (ls : List Leaf) (f : State → State) (h : ∀ t : State, (f t).pending = t.pending) :
    (s.keeping q ls f).pending = s.pending := by
  unfold State.keeping
  split
  · exact h s
  · rw [State.modQuad_pending, h, State.modQuad_pending]

@[simp] theorem State.answerLine_pending (s : State) (q : QuadNo) (r : Run) (pa : Nat) (write : Bool) (va : Nat) :
     (State.answerLine s q r pa write va).1.pending = s.pending := by
  unfold State.answerLine
  simp only [apply_ite State.pending, apply_ite Prod.fst, ite_self, State.defaultAnswer_pending]

@[simp] theorem State.answerRun_pending (s : State) (q : QuadNo) (r : Run) (l : List (Nat × Bool)) :
     (State.answerRun s q r l).1.pending = s.pending := by
  unfold State.answerRun
  simp only [State.answerLine_pending, foldl_fst_pending, implies_true]

@[simp] theorem State.noteDefaults_pending (s : State) (q : QuadNo) (vas : List Nat) (write : Bool) :
     (State.noteDefaults s q vas write).pending = s.pending := by
  unfold State.noteDefaults
  simp only [State.defaultAnswer_pending, foldl_pending, implies_true]

@[simp] theorem State.vwrite_pending (s : State) (q : QuadNo) (va : Nat) (b : Byte) (ini : Initiator) :
     (State.vwrite s q va b ini).pending = s.pending := by
  unfold State.vwrite
  split <;> simp only [apply_ite State.pending, ite_self, State.writeMem_pending]

@[simp] theorem State.posted_pending (s : State) (q : QuadNo) (l : List (Nat × Byte)) (ini : Initiator) :
     (State.posted s q l ini).pending = s.pending := by
  unfold State.posted
  simp only [State.sendAway_pending, foldl_pending, implies_true]

@[simp] theorem State.vwrites_pending (s : State) (q : QuadNo) (l : List (Nat × Byte)) (ini : Initiator) :
     (State.vwrites s q l ini).pending = s.pending := by
  unfold State.vwrites
  simp only [State.vwrite_pending, State.posted_pending, foldl_pending, implies_true]

@[simp] theorem State.putMem_pending (s : State) (q : QuadNo) (v : View) (o : RunOut) (ini : Initiator) :
     (State.putMem s q v o ini).pending = s.pending := by
  unfold State.putMem
  simp only [State.vwrites_pending]

@[simp] theorem State.askNext_pending (s : State) (k : Kick) : (State.askNext s k).1.pending = s.pending := by
  unfold State.askNext
  repeat' split
  all_goals simp only [State.modGen_pending]

@[simp] theorem State.badKick_pending (s : State) (r : RouteId) (q : QuadNo) : (State.badKick s r q).pending = s.pending := by
  unfold State.badKick
  simp only [State.report_pending]

theorem State.takeKick_pending (s : State) (src : KickSrc) (r : RouteId) (x : State × Nat) (h : s.takeKick src r = some x) :
    x.1.pending = s.pending := by
  simp only [State.takeKick] at h
  repeat' split at h
  all_goals first | (cases h; simp only [State.askNext_pending]) | cases h

@[simp] theorem State.claim_pending (s : State) (r : Run) (ranges : List (Nat × Nat)) : (State.claim s r ranges).1.pending = s.pending := by
  unfold State.claim
  dsimp only
  repeat' split
  all_goals simp only [State.addNdet_pending]

@[simp] theorem State.claimAcc_pending (s : State) (r : Run) (dv : View) : (State.claimAcc s r dv).1.pending = s.pending := by
  unfold State.claimAcc
  dsimp only
  repeat' split
  all_goals simp only [State.addNdet_pending]

@[simp] theorem State.parStale_pending (s : State) (idx : BitVec 12) (route : Nat) (ctr : BitVec 16) :
     (State.parStale s idx route ctr).pending = s.pending := by
  unfold State.parStale
  simp only [State.report_pending]

@[simp] theorem State.writeNext_pending (s : State) (d : Desc) (route : RouteId) : (State.writeNext s d route).pending = s.pending := by
  unfold State.writeNext
  split <;> simp only [apply_ite State.pending, ite_self, State.modGen_pending, State.parStale_pending]

@[simp] theorem State.beginRun_pending (s : State) (q : QuadNo) (r : Run) : (State.beginRun s q r).pending = s.pending := by
  unfold State.beginRun
  dsimp only
  repeat' split
  all_goals simp only [State.claim_pending, State.claimAcc_pending, State.endRun_pending, State.putRun_pending,
      State.startRunGet_pending, State.startRunPut_pending, State.writeNext_pending]

@[simp] theorem State.startKick_pending (s : State) (k : Kick) : (State.startKick s k).pending = s.pending := by
  unfold State.startKick
  dsimp only
  repeat' split
  all_goals simp only [State.beginRun_pending, State.complete_pending, State.modQuad_pending]

@[simp] theorem State.runStart_pending (s : State) (q : QuadNo) : (State.runStart s q).pending = s.pending := by
  unfold State.runStart
  dsimp only
  repeat' split
  all_goals simp only [State.askNext_pending, State.startKick_pending]

@[simp] theorem State.genRelease_pending (s : State) (route : RouteId) : (State.genRelease s route).pending = s.pending := by
  unfold State.genRelease
  split <;> simp only [apply_ite State.pending, ite_self, State.askNext_pending]

@[simp] theorem State.genLate_pending (s : State) (route : RouteId) : (State.genLate s route).pending = s.pending := by
  unfold State.genLate
  repeat' split
  all_goals simp only [State.report_pending]

@[simp] theorem State.tickKick_pending (s : State) (route : RouteId) : (State.tickKick s route).pending = s.pending := by
  unfold State.tickKick
  split
  · rfl
  · split
    · rfl
    · simp only []
      split
      · rename_i h; have w := State.takeKick_pending _ _ _ _ h; exact w
      · exact State.badKick_pending ..

@[simp] theorem foldBytes_pending (id : BitVec 16) (n : Nat) (s : State) (bs : List Byte) :
     (foldBytes id n s bs).1.pending = s.pending := by
  induction n generalizing s bs with
  | zero => rfl
  | succ n ih =>
    unfold foldBytes
    split
    · rfl
    · rw [ih, State.fold_pending]

@[simp] theorem State.putT_pending (s : State) (q : QuadNo) (r : Run) (u : Nat) : (State.putT s q r u).1.pending = s.pending := by
  unfold State.putT
  dsimp only
  split
  · rfl
  · simp only [foldl_fst_pending, State.putMem_pending, implies_true]

@[simp] theorem State.cutT_pending (s : State) (q : QuadNo) (r : Run) (u i0 : Nat) : (State.cutT s q r u i0).pending = s.pending := by
  unfold State.cutT
  simp only [State.putMem_pending, foldl_pending, implies_true]

@[simp] theorem State.landRow_pending (s : State) (l : LCell) (t : TileNo) (rb row : Nat) (data : Row) :
     (State.landRow s l t rb row data).pending = s.pending := by
  unfold State.landRow
  repeat' split
  all_goals simp only [State.modCell_pending]

@[simp] theorem State.landUnits_pending (s : State) (q : QuadNo) (r : Run) (u : Nat) : (State.landUnits s q r u).1.pending = s.pending := by
  unfold State.landUnits
  simp only [apply_ite State.pending, ite_self, State.fold_pending, State.landRow_pending, State.putRun_pending, foldl_pending,
      implies_true]

@[simp] theorem State.workUnit_pending (s : State) (q : QuadNo) (r : Run) (u : Nat) : (State.workUnit s q r u).1.pending = s.pending := by
  unfold State.workUnit
  split <;> simp only [apply_ite State.pending, apply_ite Prod.fst, ite_self, State.landUnits_pending, State.putRun_pending,
      foldBytes_pending, State.putT_pending, State.answerRun_pending, State.endRun_pending, State.cutT_pending, State.putMem_pending]

@[simp] theorem State.workKept_pending (s : State) (q : QuadNo) (r : Run) (u : Nat) : (State.workKept s q r u).1.pending = s.pending := by
  unfold State.workKept
  simp only [apply_ite State.pending, apply_ite Prod.fst, ite_self, State.modQuad_pending, State.workUnit_pending]

@[simp] theorem advance_pending (q : QuadNo) (n : Nat) (s : State) (r : Run) : (advance q n s r).pending = s.pending := by
  induction n generalizing s r with
  | zero => rfl
  | succ n ih =>
    unfold advance
    split
    · have w := State.workKept_pending s q r r.next
      split
      · rename_i h; rw [h] at w; rw [ih]; exact w
      · rename_i h; rw [h] at w; exact w
    · exact State.putRun_pending s q r

@[simp] theorem State.unitCome_pending (s : State) (q : QuadNo) (r : Run) (u : Nat) : (State.unitCome s q r u).pending = s.pending := by
  unfold State.unitCome
  try dsimp only
  all_goals try simp only [advance_pending]

@[simp] theorem State.srcEcc_pending (s : State) (q : QuadNo) (r : Run) (u : Nat) (rows : List RowEcc) (ecc : Ecc) :
     (State.srcEcc s q r u rows ecc).1.pending = s.pending := by
  unfold State.srcEcc
  split <;> simp only [State.cacheEcc_pending, State.rowEcc_pending, readRows_pending, implies_true]

@[simp] theorem State.lineArrives_pending (s : State) (route : RouteId) (u : Nat) (rows : List RowEcc) (ecc : Ecc) :
     (State.lineArrives s route u rows ecc).pending = s.pending := by
  unfold State.lineArrives
  split <;> simp only [apply_ite State.pending, ite_self, State.unitCome_pending, State.runUncorr_pending, State.took_pending,
      State.srcEcc_pending, State.seek_pending, State.walkedFor_pending, State.keeping_pending, implies_true]

@[simp] theorem State.lineFaults_pending (s : State) (route : RouteId) (u : Nat) (ecc : UnitEcc) :
     (State.lineFaults s route u ecc).pending = s.pending := by
  unfold State.lineFaults
  split <;> simp only [apply_ite State.pending, apply_ite Prod.fst, ite_self, State.unitCome_pending, State.runUncorr_pending, State.took_pending, State.srcEcc_pending, State.seek_pending, State.walkedFor_pending, State.keeping_pending, foldl_pending, foldl_fst_pending, implies_true]

@[simp] theorem State.lineDefault_pending (s : State) (q : QuadNo) (route : RouteId) (pa va : Nat) (write : Bool) :
     (State.lineDefault s q route pa va write).pending = s.pending := by
  unfold State.lineDefault
  split <;> simp only [apply_ite State.pending, ite_self, State.putRun_pending, State.answerLine_pending]

@[simp] theorem State.enterWindow_pending (s : State) (q : QuadNo) (r : Run) (rows : List (Nat × Option Nat)) :
     (State.enterWindow s q r rows).pending = s.pending := by
  unfold State.enterWindow
  simp only [State.putRun_pending, State.modQuad_pending, State.answerRun_pending]

@[simp] theorem State.indexWindow_pending (s : State) (route : RouteId) (ecc : Ecc) :
     (State.indexWindow s route ecc).pending = s.pending := by
  unfold State.indexWindow
  dsimp only
  repeat' split
  all_goals simp only [State.enterWindow_pending, State.putRun_pending, State.took_pending, State.walkEcc_pending,
      State.runUncorr_pending, State.seek_pending, State.walkedFor_pending]

@[simp] theorem State.windowReads_pending (s : State) (q : QuadNo) (r : Run) (x : Window) (rows : List RowEcc) (ecc : Ecc) :
     (State.windowReads s q r x rows ecc).1.pending = s.pending := by
  unfold State.windowReads
  split <;> simp only [State.cacheEcc_pending, State.rowEcc_pending, readRows_pending, implies_true]

@[simp] theorem State.foldParts_pending (id : BitVec 16) (l : List Window) (s : State) :
     (State.foldParts id l s).1.pending = s.pending := by
  induction l generalizing s with
  | nil => rfl
  | cons x l ih =>
    unfold State.foldParts
    split
    · rfl
    · exact (ih _).trans (foldl_pending (fun s y => State.fold_pending ..) _ _)

@[simp] theorem State.foldDone_pending (s : State) (route : RouteId) (w : Nat) (rows : List RowEcc) (ecc : Ecc) :
     (State.foldDone s route w rows ecc).pending = s.pending := by
  unfold State.foldDone
  split
  · rfl
  · split
    · rfl
    · refine State.keeping_pending _ _ _ _ fun t => ?_
      dsimp only
      split
      · rfl
      · split
        · exact State.seek_pending ..
        · split
          · exact (State.runUncorr_pending ..).trans ((State.windowReads_pending ..).trans (State.took_pending ..))
          · rw [State.putRun_pending, State.foldParts_pending]
            split
            · exact (State.addNdet_pending ..).trans ((State.windowReads_pending ..).trans (State.took_pending ..))
            · exact (State.windowReads_pending ..).trans (State.took_pending ..)

@[simp] theorem State.applyPartial_pending (s : State) (route : RouteId) (w row : Nat) (ecc : Ecc) :
     (State.applyPartial s route w row ecc).pending = s.pending := by
  unfold State.applyPartial
  split
  · rfl
  · split
    · rfl
    · refine State.keeping_pending _ _ _ _ fun t => ?_
      split
      · rfl
      · extract_lets d off at' away need leaves own
        clear_value d off at' away need leaves own
        split
        · rfl
        · split
          · exact State.seek_pending ..
          · split
            · exact (State.runUncorr_pending ..).trans (State.walkEcc_pending ..)
            · rw [State.putRun_pending, foldl_pending (fun s y => State.sendAway_pending ..), foldl_pending (fun s c => ?_), State.walkEcc_pending, State.took_pending]
              split
              · split
                · rfl
                · exact State.writeMem_pending ..
              · rfl

@[simp] theorem State.startRkick_pending (s : State) (e : EPort) (c : Cmd) : (State.startRkick s e c).pending = s.pending := by
  unfold State.startRkick
  split
  · exact State.complete_pending ..
  · rename_i h; exact (State.putCmd_pending ..).trans (State.takeKick_pending _ _ _ _ h)

@[simp] theorem State.startRwait_pending (s : State) (e : EPort) (c : Cmd) : (State.startRwait s e c).pending = s.pending := by
  unfold State.startRwait
  repeat' split
  all_goals simp only [State.complete_pending, State.dropRun_pending, State.putCmd_pending, foldl_pending, implies_true]

@[simp] theorem State.startCmd_pending (s : State) (e : EPort) (c0 : Cmd) (ecc : List RowEcc) :
     (State.startCmd s e c0 ecc).pending = s.pending := by
  unfold State.startCmd
  dsimp only
  repeat' split
  all_goals simp only [State.putCmd_pending, State.startLs_pending, State.startRkick_pending, State.startRvread_pending,
      State.startRwait_pending, State.startStashget_pending, State.startStashput_pending, State.startTcfg_pending,
          State.startTmove_pending, State.startTrelease_pending, State.startTzero_pending]

@[simp] theorem State.startNext_pending (s : State) (e : EPort) (ecc : List RowEcc) : (State.startNext s e ecc).pending = s.pending := by
  unfold State.startNext
  dsimp only
  repeat' split
  all_goals simp only [State.settle_pending, State.startCmd_pending]

@[simp] theorem State.badBeat_pending (s : State) (e : EPort) (op tag : Byte) (no : Nat) :
     (State.badBeat s e op tag no).pending = s.pending := by
  unfold State.badBeat
  simp only [apply_ite State.pending, ite_self, State.present_pending, State.violation_pending]

@[simp] theorem State.rvReads_pending (s : State) (e : EPort) (c : Cmd) (l : List (BitVec 7 × Ecc)) :
     (State.rvReads s e c l).pending = s.pending := by
  unfold State.rvReads
  dsimp only
  repeat' split
  all_goals simp only [State.putCmd_pending, State.rvEcc_pending, foldl_pending, implies_true]

@[simp] theorem State.takeBeat_pending (s : State) (e : EPort) (op tag : Byte) (arg : BitVec 112) (ecc : List RowEcc) (rvEcc : List (BitVec 7 × Ecc)) :
     (State.takeBeat s e op tag arg ecc rvEcc).pending = s.pending := by
  unfold State.takeBeat
  simp only [apply_ite State.pending, ite_self, State.startNext_pending, State.rvReads_pending, State.modPort_pending,
      State.badBeat_pending, State.violation_pending, State.present_pending]

@[simp] theorem State.cgRequest_pending (s : State) (e : EPort) (amt : BitVec 12) (aclk : Nat) :
     (State.cgRequest s e amt aclk).pending = s.pending := by
  unfold State.cgRequest
  simp only [apply_ite State.pending, ite_self, State.served_pending, State.atAclk_pending, State.out_pending]

@[simp] theorem State.refill_pending (s : State) (now : Tick) : (State.refill s now).pending = s.pending := by
  unfold State.refill
  simp only [apply_ite State.pending, ite_self, State.atTick_pending, State.serve_pending]

@[simp] theorem State.epErr_pending (s : State) (e : EPort) (v : BitVec 2) : (State.epErr s e v).pending = s.pending := by
  unfold State.epErr
  simp only [apply_ite State.pending, ite_self, State.beginVoid_pending, State.fence_pending, State.report_pending,
      State.retireCell_pending, State.stopStep_pending]

@[simp] theorem State.sendBlocks_pending (s : State) (r : Run) (dst shard level phase : Nat) (bs : List MergeBlk) :
     (State.sendBlocks s r dst shard level phase bs).pending = s.pending := by
  unfold State.sendBlocks
  try dsimp only
  all_goals try simp only [State.send_pending, foldl_fst_pending, implies_true]

@[simp] theorem State.mergeEnter_pending (s : State) (r : Run) (p : Nat) : (State.mergeEnter s r p).1.pending = s.pending := by
  unfold State.mergeEnter
  dsimp only
  repeat' split
  all_goals simp only [State.sendBlocks_pending]

@[simp] theorem State.mergeAdd_pending (s : State) (r : Run) (b : MergeBlk) : (State.mergeAdd s r b).1.pending = s.pending := by
  unfold State.mergeAdd
  dsimp only
  repeat' split
  all_goals simp only []

@[simp] theorem State.mergeTake_pending (s : State) (r : Run) (b : Nat) : (State.mergeTake s r b).1.pending = s.pending := by
  unfold State.mergeTake
  dsimp only
  repeat' split
  all_goals simp only []

@[simp] theorem State.mergePull_pending (s : State) (r : Run) : (State.mergePull s r).1.pending = s.pending := by
  unfold State.mergePull
  dsimp only
  repeat' split
  all_goals simp only [foldl_fst_pending, State.mergeAdd_pending, State.mergeTake_pending, implies_true]

@[simp] theorem mergeAdvance_pending (n : Nat) (s : State) (r : Run) : (mergeAdvance n s r).1.pending = s.pending := by
  induction n generalizing s r with
  | zero => rfl
  | succ n ih =>
    unfold mergeAdvance
    simp only [apply_ite State.pending, apply_ite Prod.fst, ih, State.mergeEnter_pending, State.mergePull_pending, ite_self]

@[simp] theorem State.mergePart_pending (s : State) (q : QuadNo) (r : Run) (u b st n : Nat) :
     (State.mergePart s q r u b st n).1.pending = s.pending := by
  unfold State.mergePart
  dsimp only
  repeat' split
  all_goals simp only [foldBytes_pending, State.answerRun_pending, State.putMem_pending, State.endRun_pending]

@[simp] theorem State.mergeWrite_pending (s : State) (q : QuadNo) (r : Run) : (State.mergeWrite s q r).pending = s.pending := by
  unfold State.mergeWrite
  have w : ∀ (l : List (Nat × Nat × Nat × Nat)) (a : State × Option Run),
      (l.foldl (fun (a : State × Option Run) p => match a.2 with
        | none => a
        | some r => a.1.mergePart q r p.1 p.2.1 p.2.2.1 p.2.2.2) a).1.pending = a.1.pending :=
    fun l a => foldl_fst_pending (fun a p => by split <;> first | rfl | exact State.mergePart_pending ..) l a
  simp only []
  split
  · exact w _ _
  · rw [State.putRun_pending]; exact w _ _

@[simp] theorem State.mergeRun_pending (s : State) (q : QuadNo) (r : Run) : (State.mergeRun s q r).pending = s.pending := by
  unfold State.mergeRun
  simp only [apply_ite State.pending, ite_self, State.mergeWrite_pending, State.walkedFor_pending, State.putRun_pending,
      mergeAdvance_pending]

@[simp] theorem State.mergeBlock_pending (s : State) (q : QuadNo) (r : Run) (b : Nat) (ecc : Ecc) :
     (State.mergeBlock s q r b ecc).pending = s.pending := by
  unfold State.mergeBlock
  dsimp only
  repeat' split
  all_goals simp only [State.took_pending, State.answerRun_pending, State.walkEcc_pending, State.runUncorr_pending, State.seek_pending,
      State.endRun_pending, State.walkedFor_pending, State.mergeRun_pending]

theorem State.takePartial_pending (s t : State) (x : Partial) (h : s.takePartial x = some t) : t.pending = s.pending := by
  dsimp only [State.takePartial] at h
  rw [Option.ite_none_left_eq_some] at h
  rw [← Option.some.inj h.2]
  split
  · simp only [apply_ite State.pending, State.mergeRun_pending, ite_self]
  · rfl

@[simp] theorem State.sendPar_pending (s : State) (dst : Nat) (last : Bool) (pre : List Byte) (body : List Byte) :
     (State.sendPar s dst last pre body).pending = s.pending := by
  unfold State.sendPar
  simp only [State.send_pending]

@[simp] theorem State.sendRebuild_pending (s : State) (dst group kind : Nat) (odd : Bool) (member line count : Nat) (body : List Byte) :
     (State.sendRebuild s dst group kind odd member line count body).pending = s.pending := by
  unfold State.sendRebuild
  simp only [State.send_pending]

@[simp] theorem State.sendDelta_pending (s : State) (g : Gen) (k : Nat) (ds : List Row) :
     (State.sendDelta s g k ds).pending = s.pending := by
  unfold State.sendDelta
  simp only [apply_ite State.pending, ite_self, State.sendPar_pending]

@[simp] theorem State.parityUnit_pending (s : State) (q : QuadNo) (r : Run) (k : Nat) (ecc : Ecc) :
     (State.parityUnit s q r k ecc).pending = s.pending := by
  unfold State.parityUnit
  split
  · rfl
  · extract_lets ls va vas w
    have hw : w.1.pending = s.pending := State.walkedFor_pending ..
    clear_value w vas va ls
    split
    · rfl
    · split
      · exact hw
      · split
        · exact (State.endRun_pending ..).trans hw
        · split
          · exact (State.seek_pending ..).trans hw
          · split
            · exact (State.runUncorr_pending ..).trans ((State.walkEcc_pending ..).trans hw)
            · exact (State.putRun_pending ..).trans ((State.sendDelta_pending ..).trans ((foldl_pending (fun s d => State.fold_pending ..) _ _).trans
                ((State.answerRun_pending ..).trans ((State.walkEcc_pending ..).trans ((State.took_pending ..).trans hw)))))

@[simp] theorem State.takeDelta_pending (s : State) (m : XMsg) : (State.takeDelta s m).pending = s.pending := by
  unfold State.takeDelta
  simp only [apply_ite State.pending, ite_self, State.sendPar_pending]

@[simp] theorem State.takeParAck_pending (s : State) (m : XMsg) : (State.takeParAck s m).pending = s.pending := by
  unfold State.takeParAck
  simp only [apply_ite State.pending, ite_self]

@[simp] theorem State.sendMirror_pending (s : State) : (State.sendMirror s).pending = s.pending := by
  unfold State.sendMirror
  simp only [apply_ite State.pending, apply_ite Prod.fst, ite_self, State.sendPar_pending, foldl_pending, foldl_fst_pending, implies_true]

@[simp] theorem State.mirrorAgain_pending (s : State) : (State.mirrorAgain s).pending = s.pending := by
  unfold State.mirrorAgain
  simp only [apply_ite State.pending, ite_self, State.sendMirror_pending]

@[simp] theorem State.takeMirror_pending (s : State) (m : XMsg) : (State.takeMirror s m).pending = s.pending := by
  unfold State.takeMirror
  dsimp only
  repeat' split
  all_goals simp only [apply_ite State.pending, apply_ite Prod.fst, ite_self, State.sendPar_pending, foldl_pending, foldl_fst_pending, implies_true]

@[simp] theorem State.pull_pending (src n : Nat) (s : State) (r : Rebuild) : (State.pull src n s r).1.pending = s.pending := by
  induction n generalizing s r with
  | zero => rfl
  | succ n ih =>
    unfold State.pull
    dsimp only
    split
    · rfl
    · rw [ih, State.sendRebuild_pending]

@[simp] theorem State.pullAll_pending (s : State) (r : Rebuild) : (State.pullAll s r).1.pending = s.pending := by
  exact foldl_fst_pending (fun a i => State.pull_pending ..) _ _

@[simp] theorem State.solveLine_pending (s : State) (r : Rebuild) (j : Nat) : (State.solveLine s r j).pending = s.pending := by
  unfold State.solveLine
  simp only [apply_ite State.pending, ite_self, State.sendRebuild_pending, foldl_pending, implies_true]

@[simp] theorem State.sendMirrors_pending (s : State) (r : Rebuild) : (State.sendMirrors s r).pending = s.pending := by
  unfold State.sendMirrors
  simp only [State.sendRebuild_pending, foldl_pending, implies_true]

@[simp] theorem State.setRebuild_pending (s : State) (h m : Option Rebuild) : (State.setRebuild s h m).pending = s.pending := by
  rfl

@[simp] theorem State.replacementFails_pending (s : State) (chip : BitVec 16) : (State.replacementFails s chip).pending = s.pending := by
  unfold State.replacementFails
  simp only [apply_ite State.pending, ite_self, State.setRebuild_pending]

@[simp] theorem State.covered_pending (s : State) (r : Rebuild) : (State.covered s r).pending = s.pending := by
  unfold State.covered
  simp only [apply_ite State.pending, ite_self]

@[simp] theorem State.nextSlot_pending (s : State) (r : Rebuild) : (State.nextSlot s r).pending = s.pending := by
  unfold State.nextSlot
  simp only [apply_ite State.pending, ite_self, State.covered_pending, State.sendMirrors_pending, State.sendRebuild_pending,
      State.pullAll_pending, State.setRebuild_pending]

@[simp] theorem State.solveReady_pending (s : State) (r : Rebuild) (js : List Nat) : (State.solveReady s r js).pending = s.pending := by
  unfold State.solveReady
  simp only [State.nextSlot_pending, State.pullAll_pending, State.solveLine_pending, foldl_pending, implies_true]

@[simp] theorem State.combine_pending (s : State) (r : Rebuild) (src line : Nat) (rows : List Row) :
     (State.combine s r src line rows).pending = s.pending := by
  unfold State.combine
  simp only [State.solveReady_pending]

@[simp] theorem State.badLine_pending (s : State) (r : Rebuild) (src j : Nat) : (State.badLine s r src j).pending = s.pending := by
  unfold State.badLine
  simp only [apply_ite State.pending, ite_self, State.solveReady_pending, State.sendRebuild_pending, State.setRebuild_pending]

@[simp] theorem State.readImage_pending (s : State) (j : Nat) (odd : Bool) (n : Nat) : (State.readImage s j odd n).pending = s.pending := by
  unfold State.readImage
  split
  · rfl
  · split
    · exact foldl_pending (fun s x => State.cacheEcc_pending ..) _ _
    · rfl

@[simp] theorem State.answerPull_pending (s : State) (m : XMsg) (fails : List (Nat × Nat)) :
     (State.answerPull s m fails).pending = s.pending := by
  unfold State.answerPull
  simp only [apply_ite State.pending, ite_self, State.readImage_pending, State.sendRebuild_pending, foldl_pending, implies_true]

@[simp] theorem State.takeLines_pending (s : State) (m : XMsg) (rows : List Row) : (State.takeLines s m rows).pending = s.pending := by
  refine foldl_pending (fun s x => ?_) _ _
  split
  · exact (State.noteDefaults_pending ..).trans (State.vwrites_pending ..)
  · rfl

@[simp] theorem State.takeShare_pending (s : State) (m : XMsg) (rows : List Row) : (State.takeShare s m rows).pending = s.pending := by
  rfl

@[simp] theorem State.installMark_pending (s : State) (w : BitVec 128) : (State.installMark s w).pending = s.pending := by
  unfold State.installMark
  simp only [apply_ite State.pending, ite_self]

@[simp] theorem State.memberMsg_pending (s : State) (r : Rebuild) (m : XMsg) (rows : List Row) :
     (State.memberMsg s r m rows).pending = s.pending := by
  unfold State.memberMsg
  dsimp only
  repeat' split
  all_goals simp only [State.covered_pending, State.setRebuild_pending, State.installMark_pending, State.takeLines_pending, foldl_pending,
      implies_true]

@[simp] theorem State.holderMsg_pending (s : State) (r : Rebuild) (m : XMsg) (rows : List Row) :
     (State.holderMsg s r m rows).pending = s.pending := by
  unfold State.holderMsg
  dsimp only
  repeat' split
  all_goals simp only [State.setRebuild_pending, State.takeShare_pending, State.combine_pending, State.badLine_pending]

@[simp] theorem State.takeRebuildMsg_pending (s : State) (m : XMsg) (fails : List (Nat × Nat)) :
     (State.takeRebuildMsg s m fails).pending = s.pending := by
  unfold State.takeRebuildMsg
  dsimp only
  repeat' split
  all_goals simp only [State.holderMsg_pending, State.memberMsg_pending, State.answerPull_pending]

@[simp] theorem State.startRebuild_pending (s : State) (role : Byte) (lost : List Nat) (holders : BitVec 2) (two : Bool) :
     (State.startRebuild s role lost holders two).pending = s.pending := by
  unfold State.startRebuild
  simp only [apply_ite State.pending, ite_self, State.nextSlot_pending, State.pullAll_pending, State.setRebuild_pending]

@[simp] theorem State.takeParity_pending (s : State) (m : XMsg) : (State.takeParity s m).pending = s.pending := by
  unfold State.takeParity
  split <;> simp only [State.takeDelta_pending, State.takeMirror_pending, State.takeParAck_pending]

@[simp] theorem State.sendDigest_pending (s : State) (step : BitVec 48) (es : List DEntry) :
     (State.sendDigest s step es).pending = s.pending := by
  unfold State.sendDigest
  simp only [State.sendOf_pending]

@[simp] theorem State.restartStreams_pending (s : State) : (State.restartStreams s).pending = s.pending := by
  rfl

@[simp] theorem State.endDigest_pending (s : State) : (State.endDigest s).pending = s.pending := by
  unfold State.endDigest
  simp only [apply_ite State.pending, ite_self, State.sendDigest_pending, State.ownEntry_pending, State.restartStreams_pending,
      foldl_pending, implies_true]

@[simp] theorem State.digestExchange_pending (s : State) (now : Tick) : (State.digestExchange s now).pending = s.pending := by
  unfold State.digestExchange
  simp only [apply_ite State.pending, ite_self, State.atTick_pending, State.sendDigest_pending, foldl_pending, implies_true]

@[simp] theorem State.openRec_pending (s : State) (opened : Tick) : (State.openRec s opened).pending = s.pending := by
  rfl

@[simp] theorem State.applyJob_pending (s : State) (c : JobCfg) : (State.applyJob s c).pending = s.pending := by
  unfold State.applyJob
  simp only []

@[simp] theorem State.applyDet_pending (s : State) (b : Bool) : (State.applyDet s b).pending = s.pending := by
  rfl

@[simp] theorem State.applyDeferred_pending (s : State) : (State.applyDeferred s).pending = s.pending := by
  unfold State.applyDeferred
  dsimp only
  repeat' split
  all_goals simp only [State.applyDet_pending, State.applyJob_pending, foldl_pending, implies_true]

@[simp] theorem State.flipReport_pending (s : State) (g : Gen) : (State.flipReport s g).pending = s.pending := by
  unfold State.flipReport
  simp only [apply_ite State.pending, ite_self, State.parStale_pending, State.report_pending]

@[simp] theorem State.flipAll_pending (s : State) : (State.flipAll s).pending = s.pending := by
  unfold State.flipAll
  simp only [State.flipReport_pending, foldl_pending, implies_true]

@[simp] theorem State.steadyWaits_pending (s : State) : (State.steadyWaits s).pending = s.pending := by
  rfl

@[simp] theorem State.releaseWaits_pending (s : State) : (State.releaseWaits s).pending = s.pending := by
  unfold State.releaseWaits
  simp only [State.askNext_pending, State.steadyWaits_pending, foldl_pending, implies_true]

@[simp] theorem State.mapTables_pending (s : State) : (State.mapTables s).pending = s.pending := by
  unfold State.mapTables
  simp only [State.report_pending, foldl_pending, implies_true]

@[simp] theorem State.unitsBoundary_pending (s : State) : (State.unitsBoundary s).pending = s.pending := by
  unfold State.unitsBoundary
  simp only [State.flipAll_pending, State.mapTables_pending]

@[simp] theorem State.vwriteAll_pending (s : State) (q : QuadNo) (va : Nat) (bs : List Byte) (ini : Initiator) :
     (State.vwriteAll s q va bs ini).pending = s.pending := by
  unfold State.vwriteAll
  simp only [State.vwrites_pending]

@[simp] theorem State.vwriteNoted_pending (s : State) (q : QuadNo) (va : Nat) (bs : List Byte) :
     (State.vwriteNoted s q va bs).pending = s.pending := by
  unfold State.vwriteNoted
  simp only [apply_ite State.pending, apply_ite Prod.fst, ite_self, State.vwriteAll_pending, State.noteDefaults_pending, foldl_pending, foldl_fst_pending, implies_true]

@[simp] theorem State.ckptFail_pending (s : State) (g : Gen) : (State.ckptFail s g).pending = s.pending := by
  unfold State.ckptFail
  simp only [State.report_pending]

@[simp] theorem State.writeTable_pending (s : State) (b : Nat) (l : List Nat) : (State.writeTable s b l).pending = s.pending := by
  unfold State.writeTable
  simp only [apply_ite State.pending, apply_ite Prod.fst, ite_self, State.vwriteNoted_pending, foldl_pending, foldl_fst_pending, implies_true]

@[simp] theorem State.writeCkpt_pending (s : State) (head : List Byte) (step : BitVec 48) :
     (State.writeCkpt s head step).pending = s.pending := by
  exact (State.vwriteAll_pending ..).trans ((State.writeTable_pending ..).trans (State.vwriteAll_pending ..))

@[simp] theorem State.ckptFinish_pending (s : State) : (State.ckptFinish s).pending = s.pending := by
  unfold State.ckptFinish
  simp only [apply_ite State.pending, ite_self, State.writeCkpt_pending, State.noteDefaults_pending]

@[simp] theorem State.ckptHeader_pending (s : State) : (State.ckptHeader s).pending = s.pending := by
  unfold State.ckptHeader
  simp only [apply_ite State.pending, ite_self, State.ckptFinish_pending, State.walked_pending]

@[simp] theorem State.armCkpt_pending (s : State) : (State.armCkpt s).pending = s.pending := by
  unfold State.armCkpt
  simp only [apply_ite State.pending, apply_ite Prod.fst, ite_self, State.ckptHeader_pending, State.vwriteNoted_pending, foldl_pending, foldl_fst_pending, implies_true]

@[simp] theorem State.drainCopy_pending (s : State) (g : Gen) (src dst n : Nat) : (State.drainCopy s g src dst n).pending = s.pending := by
  unfold State.drainCopy
  simp only [apply_ite State.pending, ite_self, State.modGen_pending, State.vwriteAll_pending, State.noteDefaults_pending,
      State.ckptFail_pending]

@[simp] theorem State.drainDone_pending (s : State) (idx : BitVec 12) (ecc : Ecc) : (State.drainDone s idx ecc).pending = s.pending := by
  unfold State.drainDone
  dsimp only
  repeat' split
  all_goals simp only [State.drainCopy_pending, State.took_pending, State.walkEcc_pending, State.fetchPieces_pending,
      State.walked_pending, State.ckptHeader_pending]

@[simp] theorem State.fixHome_pending (s : State) : (State.fixHome s).pending = s.pending := by
  unfold State.fixHome
  simp only [apply_ite State.pending, ite_self]

@[simp] theorem State.activate_pending (s : State) : (State.activate s).pending = s.pending := by
  unfold State.activate
  simp only [State.setPwr_pending, foldl_pending, implies_true]

@[simp] theorem State.armPeers_pending (s : State) : (State.armPeers s).pending = s.pending := by
  unfold State.armPeers
  simp only [apply_ite State.pending, ite_self, foldl_pending, implies_true]

@[simp] theorem State.applyStepUs_pending (s : State) (anchor : Tick) : (State.applyStepUs s anchor).pending = s.pending := by
  unfold State.applyStepUs
  split <;> simp only []

@[simp] theorem State.park_pending (s : State) : (State.park s).pending = s.pending := by
  rfl

@[simp] theorem State.rekick_pending (s : State) : (State.rekick s).pending = s.pending := by
  unfold State.rekick
  simp only [State.askNext_pending, foldl_pending, implies_true]

@[simp] theorem State.launchIds_pending (s : State) (ids : List IdSample) : (State.launchIds s ids).pending = s.pending := by
  unfold State.launchIds
  simp only [State.sampleId_pending, foldl_pending, implies_true]

@[simp] theorem State.countMarks_pending (s : State) : (State.countMarks s).pending = s.pending := by
  rfl

@[simp] theorem State.launchStep_pending (s : State) (tick : Tick) (ids : List IdSample) :
     (State.launchStep s tick ids).pending = s.pending := by
  unfold State.launchStep
  dsimp only
  repeat' split
  all_goals simp only [State.armCkpt_pending, State.mirrorAgain_pending, State.activate_pending, State.armPeers_pending,
      State.releaseWaits_pending, State.rekick_pending, State.countMarks_pending, State.applyStepUs_pending, State.park_pending,
      State.launchIds_pending, State.openRec_pending, State.modRec_pending, State.applyDeferred_pending, State.unitsBoundary_pending,
      State.restartStreams_pending, State.fixHome_pending]

@[simp] theorem State.launchTick_pending (s : State) (now : Tick) (ids : List IdSample) :
     (State.launchTick s now ids).pending = s.pending := by
  unfold State.launchTick
  dsimp only
  repeat' split
  all_goals simp only [State.launchStep_pending, State.atTick_pending]

@[simp] theorem State.markCarried_pending (s : State) : (State.markCarried s).pending = s.pending := by
  rfl

@[simp] theorem State.dueTick_pending (s : State) (now : Tick) : (State.dueTick s now).pending = s.pending := by
  unfold State.dueTick
  simp only [apply_ite State.pending, ite_self, State.atTick_pending, State.markCarried_pending]

@[simp] theorem State.decideTick_pending (s : State) (now : Tick) : (State.decideTick s now).pending = s.pending := by
  unfold State.decideTick
  simp only [apply_ite State.pending, ite_self, State.out_pending, State.markCarried_pending, State.atTick_pending]

@[simp] theorem State.takeBoundary_pending (s : State) (td : Tick) : (State.takeBoundary s td).pending = s.pending := by
  unfold State.takeBoundary
  simp only [apply_ite State.pending, ite_self, State.sendMirror_pending, State.applyStepUs_pending, State.park_pending,
      State.openRec_pending, State.armCkpt_pending, State.releaseWaits_pending, State.steadyWaits_pending, State.unitsBoundary_pending,
      State.applyDeferred_pending, State.modRec_pending, State.endDigest_pending]

@[simp] theorem State.takeTick_pending (s : State) (now : Tick) : (State.takeTick s now).pending = s.pending := by
  unfold State.takeTick
  dsimp only
  repeat' split
  all_goals simp only [State.atTick_pending, State.takeBoundary_pending]

@[simp] theorem State.newVoid_pending (s : State) (cause : Byte) : (State.newVoid s cause).pending = s.pending := by
  unfold State.newVoid
  simp only [apply_ite State.pending, ite_self, State.enterHold_pending, State.report_pending, State.request_pending]

@[simp] theorem State.replay_pending (s : State) : (State.replay s).pending = s.pending := by
  unfold State.replay
  simp only [State.activate_pending, State.rekick_pending, State.mirrorAgain_pending, State.modRec_pending]

@[simp] theorem State.replayTick_pending (s : State) (now : Tick) : (State.replayTick s now).pending = s.pending := by
  unfold State.replayTick
  simp only [apply_ite State.pending, ite_self, State.atTick_pending, State.newVoid_pending, State.replay_pending]

@[simp] theorem State.agreeTimeout_pending (s : State) (now : Tick) : (State.agreeTimeout s now).pending = s.pending := by
  unfold State.agreeTimeout
  simp only [apply_ite State.pending, ite_self, State.atTick_pending, State.newVoid_pending]

@[simp] theorem State.mapRow_pending (s : State) (p : PCell) (t : TileNo) (row : RowNo) (failing : List (Fin 8)) :
     (State.mapRow s p t row failing).1.pending = s.pending := by
  unfold State.mapRow
  simp only [apply_ite State.pending, apply_ite Prod.fst, ite_self, State.report_pending, State.modCell_pending, foldl_fst_pending,
      implies_true]

@[simp] theorem State.rowTested_pending (s : State) (t : RowTest) : (State.rowTested s t).pending = s.pending := by
  unfold State.rowTested
  simp only [apply_ite State.pending, ite_self, State.retireCell_pending, State.mapRow_pending, State.modCell_pending]

@[simp] theorem State.cleanupDone_pending (s : State) (tests : List RowTest) : (State.cleanupDone s tests).pending = s.pending := by
  unfold State.cleanupDone
  simp only [apply_ite State.pending, ite_self, State.enterHold_pending, State.rowTested_pending, foldl_pending, implies_true]

@[simp] theorem State.modXsp_pending (s : State) (x : Fin 2) (f : Xsp → Xsp) : (State.modXsp s x f).pending = s.pending := by
  rfl

@[simp] theorem State.xspViolation_pending (s : State) (x : Fin 2) (no : Nat) (seq : BitVec 32) :
     (State.xspViolation s x no seq).pending = s.pending := by
  unfold State.xspViolation
  simp only [apply_ite State.pending, ite_self, State.beginVoid_pending, State.instFatal_pending, State.modXsp_pending,
      State.report_pending]

@[simp] theorem State.heard_pending (s : State) (m : XMsg) : (State.heard s m).pending = s.pending := by
  rfl

@[simp] theorem State.xspIntake_pending (s : State) (x : Fin 2) (m : XMsg) : (State.xspIntake s x m).1.pending = s.pending := by
  unfold State.xspIntake
  repeat' split
  all_goals simp only [State.heard_pending, State.xspViolation_pending]

theorem State.onMsg_pending (s : State) (x : Fin 2) (m : XMsg) (type : Byte) (f : State → State) (h : ∀ s, (f s).pending = s.pending) :
    (s.onMsg x m type f).pending = s.pending := by
  unfold State.onMsg
  simp only [apply_ite State.pending, h, State.xspIntake_pending, ite_self]

@[simp] theorem State.adoptVoids_pending (s : State) (v : BitVec 16) : (State.adoptVoids s v).pending = s.pending := by
  unfold State.adoptVoids
  simp only [apply_ite State.pending, ite_self]

@[simp] theorem State.loopCheck_pending (s : State) : (State.loopCheck s).pending = s.pending := by
  unfold State.loopCheck
  simp only [apply_ite State.pending, ite_self, State.report_pending]

@[simp] theorem State.joinVoid_pending (s : State) (m : XMsg) (v : BitVec 16) : (State.joinVoid s m v).pending = s.pending := by
  unfold State.joinVoid
  simp only [apply_ite State.pending, ite_self, State.stopStep_pending, State.enterHold_pending, State.request_pending,
      State.adoptVoids_pending, State.loopCheck_pending, State.report_pending]

@[simp] theorem State.leadRequest_pending (s : State) (nb : Nat) (hold : Bool) : (State.leadRequest s nb hold).pending = s.pending := by
  unfold State.leadRequest
  simp only [apply_ite State.pending, ite_self, State.enterHold_pending, State.leaderTake_pending]

@[simp] theorem State.takeAnnounce_pending (s : State) (r : Nat) : (State.takeAnnounce s r).pending = s.pending := by
  unfold State.takeAnnounce
  simp only [apply_ite State.pending, ite_self, State.newVoid_pending, State.tellReplay_pending]

@[simp] theorem State.takeHold_pending (s : State) : (State.takeHold s).pending = s.pending := by
  unfold State.takeHold
  simp only [apply_ite State.pending, ite_self, State.enterHold_pending]

@[simp] theorem State.takeVoid_pending (s : State) (m : XMsg) : (State.takeVoid s m).pending = s.pending := by
  unfold State.takeVoid
  simp only [apply_ite State.pending, ite_self, State.joinVoid_pending, State.leadRequest_pending,
      State.takeAnnounce_pending, State.takeHold_pending]

@[simp] theorem State.heartbeat_pending (s : State) (now : Tick) : (State.heartbeat s now).pending = s.pending := by
  unfold State.heartbeat
  simp only [apply_ite State.pending, ite_self, State.atTick_pending, State.send_pending, foldl_pending, implies_true]

@[simp] theorem State.peerLost_pending (s : State) (chip : BitVec 16) (now : Tick) : (State.peerLost s chip now).pending = s.pending := by
  unfold State.peerLost
  dsimp only
  repeat' split
  all_goals simp only [State.report_pending, State.wantHold_pending, State.replacementFails_pending, State.atTick_pending]

@[simp] theorem State.takeDigest_pending (s : State) (m : XMsg) : (State.takeDigest s m).pending = s.pending := by
  unfold State.takeDigest
  simp only [apply_ite State.pending, ite_self, State.peerEntry_pending, State.flagStep_pending, foldl_pending, implies_true]

@[simp] theorem State.syncPulse_pending (s : State) (now : Tick) : (State.syncPulse s now).pending = s.pending := by
  unfold State.syncPulse
  simp only [apply_ite State.pending, ite_self, State.atTick_pending, State.send_pending]

@[simp] theorem State.holdover_pending (s : State) (now : Tick) : (State.holdover s now).pending = s.pending := by
  unfold State.holdover
  simp only [apply_ite State.pending, ite_self, State.atTick_pending]

@[simp] theorem State.steer_pending (s : State) (e : Int) : (State.steer s e).pending = s.pending := by
  unfold State.steer
  simp only [apply_ite State.pending, ite_self, State.out_pending]

@[simp] theorem State.takeValue_pending (s : State) (m : XMsg) : (State.takeValue s m).pending = s.pending := by
  unfold State.takeValue
  dsimp only
  repeat' split
  all_goals simp only [State.out_pending, State.steer_pending]

@[simp] theorem State.timingFlit_pending (s : State) (g launch : Tick) (clErr : BitVec 16) (load : Bool) :
     (State.timingFlit s g launch clErr load).pending = s.pending := by
  unfold State.timingFlit
  simp only [apply_ite State.pending, ite_self]

@[simp] theorem State.setWord_pending (s : State) (w : BitVec 64) : (State.setWord s w).pending = s.pending := by
  rfl

@[simp] theorem State.trained_pending (s : State) (w : Fin 4) (reversed both : Bool) (w0 w1 w2 w3 : BitVec 64) :
     (State.trained s w reversed both w0 w1 w2 w3).pending = s.pending := by
  unfold State.trained
  simp only [apply_ite State.pending, ite_self, State.setWord_pending, State.geoRewrite_pending, State.out_pending, State.modWq_pending,
      foldl_pending, implies_true]

@[simp] theorem State.trainLate_pending (s : State) (w : Fin 4) : (State.trainLate s w).pending = s.pending := by
  unfold State.trainLate
  simp only [apply_ite State.pending, ite_self, State.modWq_pending]

@[simp] theorem State.leavePackage_pending (s : State) : (State.leavePackage s).pending = s.pending := by
  unfold State.leavePackage
  simp only [State.instFatal_pending, State.report_pending]

@[simp] theorem State.startBoot_pending (s : State) : (State.startBoot s).pending = s.pending := by
  unfold State.startBoot
  simp only [apply_ite State.pending, ite_self]

@[simp] theorem State.joinSet_pending (s : State) (l : List (BitVec 64)) (gtc : Tick) (canon : BitVec 8) :
     (State.joinSet s l gtc canon).pending = s.pending := by
  unfold State.joinSet
  simp only [apply_ite State.pending, ite_self, State.out_pending, State.setWord_pending, State.startBoot_pending, foldl_pending,
      implies_true]

@[simp] theorem State.passWords_pending (s : State) : (State.passWords s).pending = s.pending := by
  exact foldl_pending (fun s i => by split <;> rfl) _ _

@[simp] theorem State.takePresent_pending (s : State) (reach : BitVec 8) (gtc : Tick) (canon : BitVec 8) :
     (State.takePresent s reach gtc canon).pending = s.pending := by
  unfold State.takePresent
  simp only [apply_ite State.pending, ite_self, State.geoRewrite_pending]

@[simp] theorem State.comeLate_pending (s : State) (l : List (BitVec 64)) : (State.comeLate s l).pending = s.pending := by
  unfold State.comeLate
  simp only [State.startBoot_pending, State.setWord_pending, foldl_pending, implies_true]

@[simp] theorem State.settlement_pending (s : State) (words : List (BitVec 64)) (reach : BitVec 8) (gtc : Tick) (canon : BitVec 8) (late : Bool) :
     (State.settlement s words reach gtc canon late).pending = s.pending := by
  unfold State.settlement
  simp only [apply_ite State.pending, ite_self, State.comeLate_pending, State.leavePackage_pending, State.joinSet_pending,
      State.setWord_pending, State.passWords_pending, State.takePresent_pending, foldl_pending, implies_true]

@[simp] theorem State.peerWord_pending (s : State) (w : BitVec 64) (canon : Bool) : (State.peerWord s w canon).pending = s.pending := by
  unfold State.peerWord
  simp only [apply_ite State.pending, ite_self, State.geoRewrite_pending, State.setWord_pending]

@[simp] theorem State.lateJoin_pending (s : State) (id : BitVec 3) : (State.lateJoin s id).pending = s.pending := by
  unfold State.lateJoin
  simp only [apply_ite State.pending, ite_self]

@[simp] theorem State.laterReplay_pending (s : State) (nb : Nat) : (State.laterReplay s nb).pending = s.pending := by
  unfold State.laterReplay
  simp only [apply_ite State.pending, ite_self, State.request_pending, State.leaderTake_pending]

@[simp] theorem State.voidReport_pending (s : State) (id : BitVec 3) (cause : Byte) (hold : HoldAsk) (nb : Tick) :
     (State.voidReport s id cause hold nb).pending = s.pending := by
  unfold State.voidReport
  simp only [apply_ite State.pending, ite_self, State.stopStep_pending, State.beginVoid_pending, State.laterReplay_pending,
      State.wantHold_pending]

@[simp] theorem State.ringWrite_pending (s : State) (r : Report) (coal : Bool) : (State.ringWrite s r coal).pending = s.pending := by
  unfold State.ringWrite
  simp only [apply_ite State.pending, ite_self, State.setIrq_pending]

@[simp] theorem State.enterCoal_pending (s : State) : (State.enterCoal s).pending = s.pending := by
  unfold State.enterCoal
  simp only [apply_ite State.pending, ite_self, State.setIrq_pending]

@[simp] theorem State.tableAdd_pending (s : State) (r : Report) : (State.tableAdd s r).pending = s.pending := by
  unfold State.tableAdd
  simp only [apply_ite State.pending, ite_self, State.loseN_pending]

@[simp] theorem State.recordOne_pending (s : State) (r : Report) : (State.recordOne s r).pending = s.pending := by
  unfold State.recordOne
  simp only [apply_ite State.pending, ite_self, State.enterCoal_pending, State.ringWrite_pending, State.loseN_pending,
      State.tableAdd_pending]

@[simp] theorem State.drain_pending (s : State) : (State.drain s).pending = s.pending := by
  unfold State.drain
  dsimp only
  repeat' split
  all_goals simp only [State.ringWrite_pending]

@[simp] theorem State.flushWrite_pending (s : State) (f : Flush) : (State.flushWrite s f).pending = s.pending := by
  unfold State.flushWrite
  dsimp only
  split
  · rfl
  · rename_i h
    exact State.issueTxn_pending _ _ _ _ _ h

@[simp] theorem State.flushNext_pending (s : State) : (State.flushNext s).pending = s.pending := by
  unfold State.flushNext
  split <;> simp only [apply_ite State.pending, ite_self, State.flushWrite_pending]

@[simp] theorem State.flushBegin_pending (s : State) : (State.flushBegin s).pending = s.pending := by
  unfold State.flushBegin
  simp only [State.enterCoal_pending]

@[simp] theorem State.recorder_pending (s : State) : (State.recorder s).pending = s.pending := by
  unfold State.recorder
  dsimp only
  repeat' split
  all_goals simp only [State.recordOne_pending, State.flushNext_pending, State.ringWrite_pending, State.enterCoal_pending]

@[simp] theorem State.flushAll_pending (s : State) : (State.flushAll s).pending = s.pending := by
  exact (foldl_pending (fun s _ => State.recorder_pending s) _ _).trans (State.flushBegin_pending s)

@[simp] theorem State.noticeFalls_pending (s : State) : (State.noticeFalls s).pending = s.pending := by
  unfold State.noticeFalls
  simp only [apply_ite State.pending, ite_self, State.flushBegin_pending]

@[simp] theorem State.noticeRises_pending (s : State) : (State.noticeRises s).pending = s.pending := by
  rfl

@[simp] theorem State.loseLines_pending (s : State) (reset : Bool) : (State.loseLines s reset).pending = s.pending := by
  unfold State.loseLines
  simp only []

@[simp] theorem State.resetFalls_pending (s : State) : (State.resetFalls s).pending = s.pending := by
  unfold State.resetFalls
  simp only [apply_ite State.pending, ite_self]

@[simp] theorem State.resetRises_pending (s : State) (r : Release) : (State.resetRises s r).pending = s.pending := by
  unfold State.resetRises
  simp only [apply_ite State.pending, ite_self, State.recordId_pending, State.report_pending, foldl_pending, implies_true]

@[simp] theorem State.startFails_pending (s : State) (p : PCell) (stage : Nat) : (State.startFails s p stage).pending = s.pending := by
  unfold State.startFails
  simp only [apply_ite State.pending, ite_self, State.jackfail_pending, State.modCell_pending, State.shutdown_pending]

@[simp] theorem State.checkIds_pending (s : State) : (State.checkIds s).pending = s.pending := by
  unfold State.checkIds
  simp only [apply_ite State.pending, ite_self, State.fenceRetire_pending, State.jackfail_pending, foldl_pending, implies_true]

@[simp] theorem State.startWiped_pending (s : State) (bad : List PCell) : (State.startWiped s bad).pending = s.pending := by
  unfold State.startWiped
  simp only [apply_ite State.pending, ite_self, State.checkIds_pending, State.modCell_pending,
      State.startFails_pending, foldl_pending, implies_true]

@[simp] theorem State.wipe_pending (s : State) : (State.wipe s).pending = s.pending := by
  unfold State.wipe
  simp only [State.loseLines_pending]

@[simp] theorem State.modMb_pending (s : State) (n : Nat) (f : Mbox → Mbox) : (State.modMb s n f).pending = s.pending := by
  rfl

@[simp] theorem State.respond_pending (s : State) (n : Nat) (bits : BitVec 2048) : (State.respond s n bits).pending = s.pending := by
  unfold State.respond
  simp only [State.modMb_pending, State.setIrq_pending]

@[simp] theorem State.wipeFails_pending (s : State) (p : PCell) : (State.wipeFails s p).pending = s.pending := by
  unfold State.wipeFails
  dsimp only
  repeat' split
  all_goals simp only [State.startFails_pending, State.modCell_pending]

@[simp] theorem State.transWiped_pending (s : State) (bad : List PCell) : (State.transWiped s bad).pending = s.pending := by
  unfold State.transWiped
  split <;> simp only [State.wipeFails_pending, State.nextFill_pending, State.respond_pending, State.wipe_pending, foldl_pending,
      implies_true]

@[simp] theorem State.wipeDone_pending (s : State) (bad : List PCell) (other : Bool) :
     (State.wipeDone s bad other).pending = s.pending := by
  unfold State.wipeDone
  simp only [apply_ite State.pending, ite_self, State.report_pending, State.startWiped_pending, State.transWiped_pending]

@[simp] theorem State.chunk_pending (s : State) : (State.chunk s).pending = s.pending := by
  unfold State.chunk
  split <;> simp only [apply_ite State.pending, ite_self, State.respond_pending]

@[simp] theorem State.buildMap_pending (s : State) : (State.buildMap s).pending = s.pending := by
  unfold State.buildMap
  refine foldl_pending (fun s l => ?_) _ _
  dsimp only
  repeat' split
  all_goals rfl

@[simp] theorem State.finishStart_pending (s : State) : (State.finishStart s).pending = s.pending := by
  unfold State.finishStart
  simp only [apply_ite State.pending, ite_self, State.buildMap_pending, State.geoRewrite_pending, State.geoWrite_pending,
      State.shutdown_pending, foldl_pending, implies_true]

@[simp] theorem State.sendWords_pending (s : State) : (State.sendWords s).pending = s.pending := by
  unfold State.sendWords
  simp only [apply_ite State.pending, ite_self, State.out_pending, foldl_pending, implies_true]

@[simp] theorem State.askToJoin_pending (s : State) : (State.askToJoin s).pending = s.pending := by
  unfold State.askToJoin
  simp only [apply_ite State.pending, ite_self, State.out_pending]

@[simp] theorem State.verified_pending (s : State) : (State.verified s).pending = s.pending := by
  unfold State.verified
  simp only [apply_ite State.pending, ite_self, State.sendWords_pending, State.askToJoin_pending, State.finishStart_pending,
      State.respond_pending]

@[simp] theorem State.recordIds_pending (s : State) (p : PCell) (ids : List IdSample) : (State.recordIds s p ids).pending = s.pending := by
  unfold State.recordIds
  simp only [State.recordId_pending, foldl_pending, implies_true]

@[simp] theorem State.fenceIds_pending (s : State) (p : PCell) (ids : List IdSample) : (State.fenceIds s p ids).pending = s.pending := by
  refine foldl_pending (fun s b => ?_) _ _
  split
  · simp only [apply_ite State.pending, State.fence_pending, ite_self]
  · exact State.fence_pending ..

@[simp] theorem State.setFillStage_pending (s : State) (f : Fill) (n : BitVec 3) : (State.setFillStage s f n).pending = s.pending := by
  rfl

@[simp] theorem State.passOver_pending (s : State) (f : Fill) : (State.passOver s f).pending = s.pending := by
  unfold State.passOver
  simp only [State.noteSkips_pending, State.nextFill_pending, State.modCell_pending]

@[simp] theorem State.mapFill_pending (s : State) (f : Fill) : (State.mapFill s f).pending = s.pending := by
  unfold State.mapFill
  simp only [apply_ite State.pending, ite_self, State.geoRewrite_pending, State.nextFill_pending, State.modCell_pending,
      State.passOver_pending]

@[simp] theorem State.wipeCell_pending (s : State) (p : PCell) : (State.wipeCell s p).pending = s.pending := by
  unfold State.wipeCell
  simp only [State.modCell_pending]

@[simp] theorem State.softRepair_pending (s : State) (p : PCell) (rows : List RowTest) :
     (State.softRepair s p rows).1.pending = s.pending := by
  unfold State.softRepair
  simp only [apply_ite State.pending, apply_ite Prod.fst, ite_self, State.mapRow_pending, foldl_fst_pending, implies_true]

@[simp] theorem State.fillStage_pending (s : State) (pass : Bool) (ids : List IdSample) (rows : List RowTest) :
     (State.fillStage s pass ids rows).pending = s.pending := by
  unfold State.fillStage
  dsimp only
  repeat' split
  all_goals simp only [State.mapFill_pending, State.fenceIds_pending, State.recordIds_pending, State.softRepair_pending,
      State.wipeCell_pending, State.setPwr_pending, State.setFillStage_pending, State.abortFill_pending]

@[simp] theorem State.stageFails_pending (s : State) (p : PCell) (stage : Nat) : (State.stageFails s p stage).pending = s.pending := by
  unfold State.stageFails
  simp only [apply_ite State.pending, ite_self, State.jackfail_pending, State.geoRewriteBy_pending, State.report_pending,
      State.modCell_pending, State.shutdown_pending, State.startFails_pending]

@[simp] theorem State.repairPasses_pending (s : State) (p : PCell) (ids : List IdSample) :
     (State.repairPasses s p ids).pending = s.pending := by
  unfold State.repairPasses
  simp only [apply_ite State.pending, ite_self, State.stageFails_pending, State.geoRewriteBy_pending, State.report_pending,
      State.modCell_pending, State.recordIds_pending]

@[simp] theorem State.reachOff_pending (s : State) (p : PCell) (pass : Bool) : (State.reachOff s p pass).pending = s.pending := by
  unfold State.reachOff
  simp only [apply_ite State.pending, ite_self, State.jackfail_pending, State.geoRewriteBy_pending, State.report_pending,
      State.enable_pending, State.modCell_pending, State.setPwr_pending]

@[simp] theorem State.bistEnds_pending (s : State) (p : PCell) (pass : Bool) (ids : List IdSample) (rows : List RowTest) :
     (State.bistEnds s p pass ids rows).pending = s.pending := by
  unfold State.bistEnds
  simp only [apply_ite State.pending, ite_self, State.modCell_pending, State.softRepair_pending, State.stageFails_pending,
      State.setPwr_pending, State.repairPasses_pending]

@[simp] theorem State.powerStage_pending (s : State) (p : PCell) (pass : Bool) (ids : List IdSample) (rows : List RowTest) :
     (State.powerStage s p pass ids rows).pending = s.pending := by
  unfold State.powerStage
  dsimp only
  repeat' split
  all_goals simp only [State.bistEnds_pending, State.stageFails_pending, State.wipeCell_pending, State.reachOff_pending,
      State.modCell_pending, State.setPwr_pending]

@[simp] theorem State.liveError_pending (s : State) (w : ScrubWord) : (State.liveError s w).pending = s.pending := by
  unfold State.liveError
  dsimp only
  repeat' split
  all_goals simp only [State.tableUncorr_pending, State.report_pending, State.instFatal_pending, State.cacheEcc_pending]

@[simp] theorem State.scrub_pending (s : State) (w : ScrubWord) (ecc : Ecc) : (State.scrub s w ecc).pending = s.pending := by
  unfold State.scrub
  dsimp only
  repeat' split
  all_goals simp only [State.liveError_pending, State.report_pending, State.cacheEcc_pending]

@[simp] theorem State.tapInstr_pending (s : State) (i : TapInstr) : (State.tapInstr s i).pending = s.pending := by
  unfold State.tapInstr
  simp only [apply_ite State.pending, ite_self, State.out_pending]

@[simp] theorem State.decerr_pending (s : State) (off : BitVec 24) (write : Bool) : (State.decerr s off write).pending = s.pending := by
  unfold State.decerr
  simp only [State.out_pending, State.report_pending]

@[simp] theorem State.cbOk_pending (s : State) (v : Word) : (State.cbOk s v).pending = s.pending := by
  unfold State.cbOk
  simp only [State.out_pending]

@[simp] theorem State.hostRead_pending (s : State) (off : BitVec 24) (be : BitVec 4) : (State.hostRead s off be).pending = s.pending := by
  unfold State.hostRead
  dsimp only
  repeat' split
  all_goals simp only [State.cbOk_pending, State.decerr_pending]

theorem State.busWrite_pending (s : State) (f : State → State) (h : ∀ s, (f s).pending = s.pending) :
    (s.busWrite f).pending = s.pending := by
  unfold State.busWrite
  simp only [apply_ite State.pending, h, State.cbOk_pending, ite_self]

@[simp] theorem State.irqClear_pending (s : State) (v : Word) : (State.irqClear s v).pending = s.pending := by
  unfold State.irqClear
  simp only [State.cbOk_pending]

@[simp] theorem State.irqEnable_pending (s : State) (v : Word) : (State.irqEnable s v).pending = s.pending := by
  unfold State.irqEnable
  simp only [State.cbOk_pending]

@[simp] theorem State.launchLo_pending (s : State) (v : Word) : (State.launchLo s v).pending = s.pending := by
  unfold State.launchLo
  simp only [apply_ite State.pending, ite_self, State.cbOk_pending]

@[simp] theorem State.launchHi_pending (s : State) (v : Word) : (State.launchHi s v).pending = s.pending := by
  unfold State.launchHi
  simp only [apply_ite State.pending, ite_self, State.cbOk_pending, State.out_pending, State.report_pending]

@[simp] theorem State.routeWrite_pending (s : State) (r : RouteId) (word : BitVec 5) (v : Word) :
     (State.routeWrite s r word v).pending = s.pending := by
  unfold State.routeWrite
  simp only [apply_ite State.pending, ite_self, State.cbOk_pending, State.decerr_pending]

@[simp] theorem State.requestWrite_pending (s : State) (n : Fin 8) (word : BitVec 6) (v : Word) :
     (State.requestWrite s n word v).pending = s.pending := by
  unfold State.requestWrite
  simp only [apply_ite State.pending, ite_self, State.cbOk_pending, State.decerr_pending]

@[simp] theorem State.ring_pending (s : State) (n : Fin 8) : (State.ring s n).pending = s.pending := by
  unfold State.ring
  simp only [apply_ite State.pending, ite_self, State.chunk_pending]

@[simp] theorem State.ack_pending (s : State) (n : Fin 8) : (State.ack s n).pending = s.pending := by
  unfold State.ack
  simp only [apply_ite State.pending, ite_self]

@[simp] theorem State.doorbell_pending (s : State) (n : Fin 8) (v : Word) : (State.doorbell s n v).pending = s.pending := by
  unfold State.doorbell
  simp only [apply_ite State.pending, ite_self, State.ack_pending, State.cbOk_pending, State.ring_pending]

@[simp] theorem State.faultClear_pending (s : State) (p : PCell) (v : Word) : (State.faultClear s p v).pending = s.pending := by
  unfold State.faultClear
  simp only [State.cbOk_pending, State.modCell_pending]

@[simp] theorem State.buntWrite_pending (s : State) (off : BitVec 24) (v : Word) : (State.buntWrite s off v).pending = s.pending := by
  unfold State.buntWrite
  split <;> simp only [apply_ite State.pending, ite_self, State.cbOk_pending, State.decerr_pending, State.modCell_pending, foldl_pending,
      implies_true]

@[simp] theorem State.hostWrite_pending (s : State) (off : BitVec 24) (be : BitVec 4) (v : Word) :
     (State.hostWrite s off be v).pending = s.pending := by
  simp only [State.hostWrite, apply_ite State.pending, apply_dite State.pending, State.decerr_pending, State.cbOk_pending,
      State.irqClear_pending,
    State.irqEnable_pending, State.launchLo_pending, State.launchHi_pending, State.doorbell_pending, State.requestWrite_pending,
        State.faultClear_pending,
    State.routeWrite_pending, State.buntWrite_pending, ite_self, dite_eq_ite]

@[simp] theorem ends_pending (s : State) (r : Resp) : (ends s r).1.pending = s.pending := by
  rfl

@[simp] theorem endsOk_pending (s : State) : (endsOk s).1.pending = s.pending := by
  unfold endsOk
  simp only [ends_pending]

@[simp] theorem goesOn_pending (s : State) : (goesOn s).1.pending = s.pending := by
  rfl

@[simp] theorem State.setCur_pending (s : State) (n : Fin 8) (r : MReq) : (State.setCur s n r).pending = s.pending := by
  rfl

@[simp] theorem State.acted_pending (n : Fin 8) (r : MReq) (y : Act) : (State.acted n r y).pending = y.1.pending := by
  unfold State.acted
  dsimp only
  repeat' split
  all_goals simp only [State.out_pending, State.setCur_pending]

theorem State.firmware_pending (s : State) (n : Fin 8) (mine : Nat → Bool) (act : Req → State → Act)
    (h : ∀ r s, (act r s).1.pending = s.pending) : (s.firmware n mine act).pending = s.pending := by
  unfold State.firmware
  split
  · rfl
  · split
    · rfl
    · split
      · exact (State.acted_pending ..).trans (h _ s)
      · split
        · rfl
        · split
          · rfl
          · exact (State.acted_pending ..).trans (h _ s)

theorem State.trisia_pending (s : State) (n : Fin 8) (op : Nat) (act : Req → State → Act)
    (h : ∀ r s, (act r s).1.pending = s.pending) : (s.trisia n op act).pending = s.pending := State.firmware_pending s n _ act h

@[simp] theorem State.mbRespond_pending (s : State) (n : Fin 8) (lost : Option (BitVec 3)) :
     (State.mbRespond s n lost).pending = s.pending := by
  unfold State.mbRespond
  repeat' split
  all_goals simp only [State.respond_pending]

@[simp] theorem State.awaits_pending (s : State) (ps : List (Nat × Nat)) : (State.awaits s ps).1.pending = s.pending := by
  unfold State.awaits
  simp only [apply_ite State.pending, apply_ite Prod.fst, ite_self, ends_pending, State.fetchPieces_pending]

theorem State.fwRead_pending (s : State) (ps : List (Nat × Nat)) (k : State → Act) (h : (k s).1.pending = s.pending) :
    (s.fwRead ps k).1.pending = s.pending := by
  unfold State.fwRead
  split
  · exact h
  · exact State.awaits_pending ..

theorem State.fwWalk_pending (s : State) (vas : List Nat) (k : State → Act) (h : (k (s.cacheLeaves 0 (pagesOf vas))).1.pending = s.pending) :
    (s.fwWalk vas k).1.pending = s.pending := by
  unfold State.fwWalk
  split
  · exact State.awaits_pending ..
  · exact h

@[simp] theorem State.noteRanged_pending (s : State) (q : QuadNo) (r : Run) : (State.noteRanged s q r).pending = s.pending := by
  unfold State.noteRanged
  simp only [apply_ite State.pending, ite_self, State.reportN_pending]

@[simp] theorem State.finishRun_pending (s : State) (q : QuadNo) (r : Run) : (State.finishRun s q r).pending = s.pending := by
  unfold State.finishRun
  repeat' split
  all_goals simp only [State.endRun_pending, State.fold_pending, State.noteRanged_pending]

@[simp] theorem State.stopRun_pending (s : State) (q : QuadNo) (r : Run) (code : Code) (detail : Word) (ix : Option (Nat × Word)) :
     (State.stopRun s q r code detail ix).pending = s.pending := by
  unfold State.stopRun
  split <;> simp only [State.endRun_pending, State.report_pending]

@[simp] theorem State.noteParity_pending (s : State) (r : Run) : (State.noteParity s r).pending = s.pending := by
  unfold State.noteParity
  simp only [apply_ite State.pending, ite_self]

@[simp] theorem State.runEnd_pending (s : State) (route : RouteId) : (State.runEnd s route).pending = s.pending := by
  unfold State.runEnd
  repeat' split
  all_goals simp only [State.finishRun_pending, State.noteParity_pending, State.stopRun_pending]

@[simp] theorem State.lineCome_pending (s : State) (route : RouteId) (unit : Nat) (rows : List RowEcc) (ecc : Ecc) :
     (State.lineCome s route unit rows ecc).pending = s.pending := by
  unfold State.lineCome
  split <;> simp only [apply_ite State.pending, ite_self, State.lineArrives_pending, State.mergeBlock_pending, State.parityUnit_pending]

@[simp] theorem State.lineBad_pending (s : State) (route : RouteId) (unit : UnitRead) :
     (State.lineBad s route unit).pending = s.pending := by
  unfold State.lineBad
  split <;> simp only [apply_ite State.pending, ite_self, State.lineFaults_pending, State.mergeBlock_pending, State.parityUnit_pending]

@[simp] theorem State.walkDone_pending (s : State) (w : Who) (ecc : Ecc) : (State.walkDone s w ecc).pending = s.pending := by
  unfold State.walkDone
  dsimp only
  repeat' split
  all_goals simp only [State.walkEcc_pending, State.runUncorr_pending, State.walkedFor_pending, State.rowWalk_pending]

@[simp] theorem State.defaultDone_pending (s : State) (q : QuadNo) (port : BitVec 5) (addr : PAddr) (write : Bool) (w : Who) :
     (State.defaultDone s q port addr write w).pending = s.pending := by
  unfold State.defaultDone
  dsimp only
  repeat' split
  all_goals simp only [State.lineDefault_pending, State.defaultAnswer_pending, State.rowDefault_pending]

@[simp] theorem State.prefetch_pending (s : State) (route : RouteId) : (State.prefetch s route).pending = s.pending := by
  unfold State.prefetch
  dsimp only
  repeat' split
  all_goals simp only [State.fetchPieces_pending, State.putRun_pending, State.walked_pending]

@[simp] theorem State.failWaits_pending (s : State) (line : Nat) : (State.failWaits s line).pending = s.pending := by
  unfold State.failWaits
  refine (foldl_pending (fun s q => foldl_pending (fun s r => State.runUncorr_pending ..) _ _) _ _).trans ?_
  exact foldl_pending (fun s e => foldl_pending (fun s c => State.failUncorr_pending ..) _ _) _ _

@[simp] theorem State.afterMsp_pending (t s : State) (m : Fin 6) (ids : List (BitVec 12)) :
     (State.afterMsp t s m ids).pending = t.pending := by
  unfold State.afterMsp
  simp only [apply_ite State.pending, apply_ite Prod.fst, ite_self, State.failWaits_pending, State.missesGo_pending, foldl_pending, foldl_fst_pending, implies_true]

@[simp] theorem State.info_pending (s : State) (x_1 : Req) : (State.info s x_1).1.pending = s.pending := by
  unfold State.info
  simp only [ends_pending]

@[simp] theorem State.identRead_pending (s : State) (r : Req) : (State.identRead s r).1.pending = s.pending := by
  unfold State.identRead
  dsimp only
  repeat' split
  all_goals simp only [ends_pending]

@[simp] theorem State.cellmapRead_pending (s : State) (x_1 : Req) : (State.cellmapRead s x_1).1.pending = s.pending := by
  unfold State.cellmapRead
  simp only [ends_pending]

@[simp] theorem State.steprecRead_pending (s : State) (r : Req) : (State.steprecRead s r).1.pending = s.pending := by
  unfold State.steprecRead
  dsimp only
  repeat' split
  all_goals simp only [ends_pending]

@[simp] theorem State.stashdirRead_pending (s : State) (r : Req) : (State.stashdirRead s r).1.pending = s.pending := by
  unfold State.stashdirRead
  simp only [apply_ite State.pending, apply_ite Prod.fst, ite_self, ends_pending]

@[simp] theorem State.gentabRead_pending (s : State) (r : Req) : (State.gentabRead s r).1.pending = s.pending := by
  unfold State.gentabRead
  simp only [apply_ite State.pending, apply_ite Prod.fst, ite_self, ends_pending]

@[simp] theorem State.fwMemRead_pending (s : State) (ecc : Ecc) (r : Req) : (State.fwMemRead s ecc r).1.pending = s.pending := by
  unfold State.fwMemRead
  split <;> simp only [apply_ite State.pending, apply_ite Prod.fst, ite_self, State.cacheEcc_pending, State.fwRead_pending, ends_pending]

@[simp] theorem State.fwMemWrite_pending (s : State) (ecc : Ecc) (r : Req) : (State.fwMemWrite s ecc r).1.pending = s.pending := by
  unfold State.fwMemWrite
  split <;> simp only [apply_ite State.pending, apply_ite Prod.fst, ite_self, State.writeMem_pending, endsOk_pending,
      State.cacheEcc_pending, ends_pending]

@[simp] theorem State.jobConfigure_pending (s : State) (r : Req) : (State.jobConfigure s r).1.pending = s.pending := by
  unfold State.jobConfigure State.fwRead
  dsimp only
  repeat' split
  all_goals simp only [State.applyJob_pending, State.awaits_pending, ends_pending, endsOk_pending]

@[simp] theorem State.setDesc_pending (s : State) (i : RouteId) (d : Desc) : (State.setDesc s i d).pending = s.pending := by
  rfl

@[simp] theorem State.setDescs_pending (s : State) (first count : Nat) (bs : List Byte) :
     (State.setDescs s first count bs).pending = s.pending := by
  unfold State.setDescs
  simp only [State.setDesc_pending, foldl_pending, implies_true]

@[simp] theorem State.routeLoad_pending (s : State) (r : Req) : (State.routeLoad s r).1.pending = s.pending := by
  unfold State.routeLoad State.fwRead
  dsimp only
  repeat' split
  all_goals simp only [State.awaits_pending, State.setDescs_pending, ends_pending, endsOk_pending]

@[simp] theorem State.routeKick_pending (s : State) (n : Fin 8) (r : Req) : (State.routeKick s n r).1.pending = s.pending := by
  unfold State.routeKick
  dsimp only
  repeat' split
  all_goals first | rfl | exact State.badKick_pending .. | (rename_i h; exact State.takeKick_pending _ _ _ _ h)

@[simp] theorem State.routeArm_pending (s : State) (r : Req) : (State.routeArm s r).1.pending = s.pending := by
  unfold State.routeArm
  simp only [apply_ite State.pending, apply_ite Prod.fst, ite_self, ends_pending, endsOk_pending]

@[simp] theorem State.genRegister_pending (s : State) (r : Req) : (State.genRegister s r).1.pending = s.pending := by
  unfold State.genRegister
  dsimp only
  repeat' split
  all_goals simp only [ends_pending, endsOk_pending]

@[simp] theorem State.fwStashAbort_pending (s : State) (x_1 : Req) : (State.fwStashAbort s x_1).1.pending = s.pending := by
  unfold State.fwStashAbort
  simp only [State.stashAbort_pending, ends_pending]

@[simp] theorem State.cursorSet_pending (s : State) (r : Req) : (State.cursorSet s r).1.pending = s.pending := by
  unfold State.cursorSet
  simp only [endsOk_pending]

@[simp] theorem State.detSet_pending (s : State) (r : Req) : (State.detSet s r).1.pending = s.pending := by
  unfold State.detSet
  simp only [apply_ite State.pending, apply_ite Prod.fst, ite_self, State.applyDet_pending, ends_pending, endsOk_pending]

@[simp] theorem State.haltSet_pending (s : State) (r : Req) : (State.haltSet s r).1.pending = s.pending := by
  unfold State.haltSet
  simp only [apply_ite State.pending, apply_ite Prod.fst, ite_self, ends_pending, endsOk_pending]

@[simp] theorem State.fwPause_pending (s : State) (x_1 : Req) : (State.fwPause s x_1).1.pending = s.pending := by
  unfold State.fwPause
  simp only [endsOk_pending]

@[simp] theorem State.digestConfigure_pending (s : State) (r : Req) : (State.digestConfigure s r).1.pending = s.pending := by
  unfold State.digestConfigure
  simp only [apply_ite State.pending, apply_ite Prod.fst, ite_self, ends_pending, endsOk_pending]

@[simp] theorem State.xlateInvalidate_pending (s : State) (r : Req) : (State.xlateInvalidate s r).1.pending = s.pending := by
  unfold State.xlateInvalidate
  simp only [apply_ite State.pending, apply_ite Prod.fst, ite_self, ends_pending]

@[simp] theorem State.cacheFlush_pending (s : State) (r : Req) : (State.cacheFlush s r).1.pending = s.pending := by
  unfold State.cacheFlush
  simp only [apply_ite State.pending, apply_ite Prod.fst, ite_self, State.writeBackLine_pending, ends_pending,
      foldl_pending, implies_true]

@[simp] theorem State.fwPreempt_pending (s : State) (r : Req) : (State.fwPreempt s r).1.pending = s.pending := by
  unfold State.fwPreempt
  simp only [State.preemptCell_pending, endsOk_pending, foldl_pending, implies_true]

@[simp] theorem State.buntGroup_pending (s : State) (r : Req) : (State.buntGroup s r).1.pending = s.pending := by
  unfold State.buntGroup
  simp only [apply_ite State.pending, apply_ite Prod.fst, ite_self, ends_pending, endsOk_pending]

@[simp] theorem State.unreached_pending (s : State) (write : Bool) (rs : List (Nat × Nat)) (c : Code) :
     (State.unreached s write rs c).1.pending = s.pending := by
  unfold State.unreached
  simp only [apply_ite State.pending, ite_self, State.noteDefaults_pending, ends_pending]

@[simp] theorem State.snapshotExport_pending (s : State) (r : Req) : (State.snapshotExport s r).1.pending = s.pending := by
  unfold State.snapshotExport
  extract_lets me base
  clear_value base me
  refine act_ite_pending (ends_pending ..) ?_
  split
  · exact ends_pending ..
  · refine act_ite_pending (ends_pending ..) (act_ite_pending (ends_pending ..) (State.fwWalk_pending _ _ _ ?_))
    split
    · exact (State.unreached_pending ..).trans (State.cacheLeaves_pending ..)
    · refine (State.fwRead_pending _ _ _ ?_).trans (State.cacheLeaves_pending ..)
      extract_lets img
      clear_value img
      exact act_ite_pending (ends_pending ..) (State.writeMem_pending ..)

@[simp] theorem State.installSpilled_pending (s : State) (e : SEntry) : (State.installSpilled s e).pending = s.pending := by
  unfold State.installSpilled
  split <;> simp only [State.writeMem_pending, State.modEntry_pending]

@[simp] theorem State.installEntry_pending (s : State) (x : SEntry) : (State.installEntry s x).pending = s.pending := by
  unfold State.installEntry
  simp only [apply_ite State.pending, ite_self, State.installSpilled_pending, State.placeEntry_pending]

@[simp] theorem State.restoreTensor_pending (s : State) (x : Nat × Gen) : (State.restoreTensor s x).pending = s.pending := by
  unfold State.restoreTensor
  simp only [State.vwriteAll_pending, foldl_fst_pending, implies_true]

@[simp] theorem State.restoreImage_pending (s : State) (img : List Byte) (secs : List (Nat × Gen)) (v : Nat) (step : BitVec 48) :
     (State.restoreImage s img secs v step).pending = s.pending := by
  unfold State.restoreImage
  simp only [State.installEntry_pending, State.restoreTensor_pending, foldl_pending, implies_true]

@[simp] theorem State.mismatch_pending (s : State) : (State.mismatch s).pending = s.pending := by
  unfold State.mismatch
  simp only [State.report_pending]

@[simp] theorem State.resumeWith_pending (s : State) (r : Req) (base : Nat) (img : List Byte) :
     (State.resumeWith s r base img).1.pending = s.pending := by
  unfold State.resumeWith
  dsimp only
  refine act_ite_pending rfl (act_ite_pending (State.mismatch_pending _) (act_ite_pending rfl (act_ite_pending rfl (act_ite_pending
      (State.awaits_pending ..)
    (act_ite_pending rfl (State.fwRead_pending _ _ _ (State.fwWalk_pending _ _ _ ?_)))))))
  split
  · exact (State.unreached_pending ..).trans (State.cacheLeaves_pending ..)
  · exact (State.restoreImage_pending ..).trans (State.cacheLeaves_pending ..)

@[simp] theorem State.fwResume_pending (s : State) (r : Req) : (State.fwResume s r).1.pending = s.pending := by
  unfold State.fwResume State.fwRead
  simp only [apply_ite State.pending, apply_ite Prod.fst, ite_self, State.awaits_pending, State.resumeWith_pending, ends_pending]

@[simp] theorem State.ctxSave_pending (s : State) (ecc : List RowEcc) (r : Req) : (State.ctxSave s ecc r).1.pending = s.pending := by
  unfold State.ctxSave
  split <;> simp only [apply_ite State.pending, apply_ite Prod.fst, ite_self, State.writeMem_pending, State.rowEcc_pending,
      readRows_pending, goesOn_pending, ends_pending, implies_true]

@[simp] theorem State.ctxRestore_pending (s : State) (r : Req) : (State.ctxRestore s r).1.pending = s.pending := by
  unfold State.ctxRestore
  split
  · refine act_ite_pending rfl (act_ite_pending rfl (act_ite_pending rfl (act_ite_pending rfl (act_ite_pending rfl ?_))))
    refine State.fwRead_pending _ _ _ (act_ite_pending rfl (act_ite_pending rfl ?_))
    exact State.fwRead_pending _ _ _ (act_ite_pending (State.modCell_pending ..) (State.modCell_pending ..))
  · rfl

@[simp] theorem State.imageLoad_pending (s : State) (r : Req) : (State.imageLoad s r).1.pending = s.pending := by
  unfold State.imageLoad State.fwRead
  simp only [apply_ite State.pending, apply_ite Prod.fst, ite_self, State.awaits_pending, State.writeMem_pending, ends_pending,
      endsOk_pending, foldl_pending, implies_true]

@[simp] theorem State.parityConfigure_pending (s : State) (agree : Bool) (r : Req) :
     (State.parityConfigure s agree r).1.pending = s.pending := by
  unfold State.parityConfigure
  split <;> simp only [apply_ite State.pending, apply_ite Prod.fst, ite_self, ends_pending, endsOk_pending]

@[simp] theorem State.parityResync_pending (s : State) (x_1 : Req) : (State.parityResync s x_1).1.pending = s.pending := by
  unfold State.parityResync
  simp only [apply_ite State.pending, ite_self, State.startRebuild_pending, endsOk_pending]

@[simp] theorem State.stopRebuild_pending (s : State) (role : Nat) : (State.stopRebuild s role).pending = s.pending := by
  unfold State.stopRebuild
  simp only [apply_ite State.pending, ite_self, State.setRebuild_pending]

@[simp] theorem State.parityRebuild_pending (s : State) (stale two : Bool) (r : Req) :
     (State.parityRebuild s stale two r).1.pending = s.pending := by
  unfold State.parityRebuild
  simp only [apply_ite State.pending, apply_ite Prod.fst, ite_self, State.startRebuild_pending, endsOk_pending, State.stopRebuild_pending,
      ends_pending]

@[simp] theorem State.joinWith_pending (s : State) (r : Req) (bs : List Byte) (v : Nat) :
     (State.joinWith s r bs v).1.pending = s.pending := by
  unfold State.joinWith
  simp only [apply_ite State.pending, apply_ite Prod.fst, ite_self, State.applyJob_pending, State.setDescs_pending, ends_pending,
      endsOk_pending]

@[simp] theorem State.recoveryJoin_pending (s : State) (r : Req) : (State.recoveryJoin s r).1.pending = s.pending := by
  unfold State.recoveryJoin State.fwRead
  dsimp only
  repeat' split
  all_goals simp only [State.awaits_pending, State.joinWith_pending, ends_pending]

@[simp] theorem State.recoveryResume_pending (s : State) (x_1 : Req) : (State.recoveryResume s x_1).1.pending = s.pending := by
  unfold State.recoveryResume
  simp only [apply_ite State.pending, apply_ite Prod.fst, ite_self, ends_pending, endsOk_pending]

@[simp] theorem State.ckptArm_pending (s : State) (r : Req) : (State.ckptArm s r).1.pending = s.pending := by
  unfold State.ckptArm
  simp only [apply_ite State.pending, apply_ite Prod.fst, ite_self, ends_pending, endsOk_pending]

@[simp] theorem State.cellRepair_pending (s : State) (n : Fin 8) (r : Req) : (State.cellRepair s n r).1.pending = s.pending := by
  unfold State.cellRepair
  split <;> simp only [apply_ite State.pending, apply_ite Prod.fst, ite_self, State.enable_pending, State.modCell_pending, ends_pending,
      endsOk_pending]

@[simp] theorem State.pennantAck_pending (s : State) (r : Req) : (State.pennantAck s r).1.pending = s.pending := by
  unfold State.pennantAck
  simp only [apply_ite State.pending, apply_ite Prod.fst, ite_self, ends_pending, endsOk_pending]

@[simp] theorem State.logConfigure_pending (s : State) (r : Req) : (State.logConfigure s r).1.pending = s.pending := by
  unfold State.logConfigure
  simp only [apply_ite State.pending, apply_ite Prod.fst, ite_self, ends_pending, endsOk_pending]

@[simp] theorem State.powerConfigure_pending (s : State) (r : Req) : (State.powerConfigure s r).1.pending = s.pending := by
  unfold State.powerConfigure
  simp only [apply_ite State.pending, apply_ite Prod.fst, ite_self, State.serve_pending, ends_pending, endsOk_pending]

@[simp] theorem State.cellPower_pending (s : State) (n : Fin 8) (r : Req) : (State.cellPower s n r).1.pending = s.pending := by
  unfold State.cellPower
  split <;> simp only [apply_ite State.pending, apply_ite Prod.fst, ite_self, State.shutdown_pending, State.enable_pending,
      endsOk_pending, State.modCell_pending, ends_pending]

@[simp] theorem State.tickConfigure_pending (s : State) (r : Req) : (State.tickConfigure s r).1.pending = s.pending := by
  unfold State.tickConfigure
  simp only [apply_ite State.pending, apply_ite Prod.fst, ite_self, ends_pending, endsOk_pending]

@[simp] theorem State.lifecycleSet_pending (s : State) (n : Fin 8) (fuseOk : Bool) (r : Req) :
     (State.lifecycleSet s n fuseOk r).1.pending = s.pending := by
  unfold State.lifecycleSet
  split <;> simp only [apply_ite State.pending, apply_ite Prod.fst, ite_self, goesOn_pending, State.flushAll_pending, ends_pending]

@[simp] theorem State.mbGrant_pending (s : State) (r : Req) : (State.mbGrant s r).1.pending = s.pending := by
  unfold State.mbGrant
  simp only [apply_ite State.pending, apply_ite Prod.fst, ite_self, State.modMb_pending, ends_pending, endsOk_pending]

@[simp] theorem State.testRun_pending (s : State) (failing : Word) (r : Req) : (State.testRun s failing r).1.pending = s.pending := by
  unfold State.testRun
  simp only [apply_ite State.pending, apply_ite Prod.fst, ite_self, State.fwRead_pending, ends_pending]

end Sys2Proof.Machine
end

