-- ==== Sys2Proof/Laws/Ports.lean ====
section
/-! SUPPORT. What a port does with a beat it takes (R49, R53, R54): the command waits behind others, or starts at once. -/

namespace Sys2Proof.Machine

/-- A ready port is awake, not fenced, and in no stop (R46, R60). -/
theorem State.cmdReady_spec {s : State} {e : EPort} (h : s.cmdReady e = true) :
    s.asleep = false ∧ (s.port e).fenced = false ∧ s.stopped = false ∧ s.cmdStop = false := by
  unfold State.cmdReady State.cmdStop at *
  simp only [Bool.and_eq_true, Bool.not_eq_true', Bool.or_eq_false_iff] at h ⊢
  exact ⟨h.1.2, h.1.1.1.2, h.1.1.2.1.1, h.1.1.2⟩

/-- A beat that is taken joins the port's commands, an RVREAD reads its registers, and one that finds none waiting is tried at once. -/
theorem State.takeBeat_joins {s : State} {e : EPort} {op tag : Byte} {arg : BitVec 112} (ecc : List RowEcc) (rvEcc : List (BitVec 7 × Ecc))
    (h : s.takes e op tag arg) (hop : (beatFields op).isSome = true) :
    s.takeBeat e op tag arg ecc rvEcc =
      let c := s.newCmd e (beatOf op tag arg)
      let t := s.modPort e fun q => { q with cmds := q.cmds ++ [c] }
      let t := if op = opRVREAD && !rvEcc.isEmpty then t.rvReads e c rvEcc else t
      if (s.port e).waiting = 0 then t.startNext e ecc else t := by
  obtain ⟨hr, hf, hb⟩ := h
  obtain ⟨ha, hq, -, -⟩ := State.cmdReady_spec hr
  unfold State.takeBeat
  have hn : (beatFields op).isNone = false := by simpa using hop
  simp only [ha, hq, hr, hf, hb, hn, Bool.not_true, Option.isSome_none, Bool.false_eq_true, if_false]

/-- The same for a beat whose registers are free of errors. -/
theorem State.takeBeat_takes {s : State} {e : EPort} {op tag : Byte} {arg : BitVec 112} (ecc : List RowEcc) {rvEcc : List (BitVec 7 × Ecc)}
    (h : s.takes e op tag arg) (hop : (beatFields op).isSome = true) (hv : op = opRVREAD → rvEcc = []) :
    s.takeBeat e op tag arg ecc rvEcc =
      let t := s.modPort e fun q => { q with cmds := q.cmds ++ [s.newCmd e (beatOf op tag arg)] }
      if (s.port e).waiting = 0 then t.startNext e ecc else t := by
  rw [State.takeBeat_joins ecc rvEcc h hop]
  have hn : (decide (op = opRVREAD) && !rvEcc.isEmpty) = false := by
    by_cases h' : op = opRVREAD
    · simp [hv h']
    · simp [h']
  simp only [hn, Bool.false_eq_true, if_false]

theorem State.newCmd_beat (s : State) (e : EPort) (b : BitVec 128) : (s.newCmd e b).beat = b := rfl
theorem State.newCmd_started (s : State) (e : EPort) (b : BitVec 128) : (s.newCmd e b).started = false := rfl

/-- Adding a command that has not started leaves the started ones of every cell. -/
theorem State.started_append {s : State} {e : EPort} {c : Cmd} (h : c.started = false) (p : PCell) (f : Cmd → Bool) :
    ([((s.modPort e fun q => { q with cmds := q.cmds ++ [c] }).cell p).dep,
        ((s.modPort e fun q => { q with cmds := q.cmds ++ [c] }).cell p).sep].flatMap fun q => q.cmds).any (fun c => c.started && f c)
      = ([(s.cell p).dep, (s.cell p).sep].flatMap fun q => q.cmds).any fun c => c.started && f c := by
  by_cases hp : p = e.p
  · subst hp
    rw [State.modPort, State.cell_modCell]
    unfold Cell.setPort Cell.port
    cases e.sep <;> simp [h]
  · rw [State.modPort, State.cell_modCell_ne _ _ hp]

@[simp] theorem State.modPort_logical (s : State) (e : EPort) (f : Port → Port) (p : PCell) :
    ((s.modPort e f).cell p).logical = (s.cell p).logical := by
  by_cases hp : p = e.p
  · subst hp
    rw [State.modPort, State.cell_modCell]
    unfold Cell.setPort
    split <;> rfl
  · rw [State.modPort, State.cell_modCell_ne _ _ hp]

/-- Adding a command that has not started makes no tile busy. -/
theorem State.busyW_append {s : State} {e : EPort} {c : Cmd} (h : c.started = false) (p : PCell) (t : TileNo) :
    (s.modPort e fun q => { q with cmds := q.cmds ++ [c] }).busyW p t = s.busyW p t := by
  unfold State.busyW
  rw [State.started_append h, State.modPort_logical]
  rfl

theorem State.busyR_append {s : State} {e : EPort} {c : Cmd} (h : c.started = false) (p : PCell) (t : TileNo) :
    (s.modPort e fun q => { q with cmds := q.cmds ++ [c] }).busyR p t = s.busyR p t := by
  unfold State.busyR
  rw [State.started_append h, State.modPort_logical]
  rfl

/-- Adding a command that has not started repeats none that runs (R125). -/
theorem State.repeats_append {s : State} {e : EPort} {c : Cmd} (h : c.started = false) (p : PCell) (d : Cmd) :
    (s.modPort e fun q => { q with cmds := q.cmds ++ [c] }).repeats p d = s.repeats p d := by
  unfold State.repeats
  simp only [Bool.and_assoc]
  rw [State.started_append h]

/-- A beat for an idle port with free tiles starts its command at once (R54, R93): the command is the only one of its port, and
its meaning runs on the state with it. -/
theorem State.takeBeat_startsNow {s : State} {e : EPort} {op tag : Byte} {arg : BitVec 112} (ecc : List RowEcc) {rvEcc : List (BitVec 7 × Ecc)}
    (h : s.startsNow e op tag arg) (hop : (beatFields op).isSome = true) (hv : op = opRVREAD → rvEcc = []) :
    s.takeBeat e op tag arg ecc rvEcc =
      ((s.modPort e fun q => { q with cmds := [s.newCmd e (beatOf op tag arg)] }).startCmd e (s.newCmd e (beatOf op tag arg)) ecc).settle := by
  obtain ⟨ht, hc, hh, hf⟩ := h
  rw [State.takeBeat_takes ecc ht hop hv]
  have hw : (s.port e).waiting = 0 := by simp [Port.waiting, hc]
  have hp : (s.modPort e fun q => { q with cmds := q.cmds ++ [s.newCmd e (beatOf op tag arg)] })
      = s.modPort e fun q => { q with cmds := [s.newCmd e (beatOf op tag arg)] } := by
    have : ((s.cell e.p).port e.sep).cmds = [] := hc
    unfold State.modPort State.modCell State.setCell
    dsimp only
    rw [this, List.nil_append]
  obtain ⟨-, -, hs, -⟩ := State.cmdReady_spec ht.1
  dsimp only
  rw [if_pos hw]
  unfold State.startNext
  have hcf : (s.modPort e fun q => { q with cmds := q.cmds ++ [s.newCmd e (beatOf op tag arg)] }).conflict e.p (s.newCmd e (beatOf op tag arg))
      = false := by
    rw [← hf]
    unfold State.conflict
    simp only [State.busyW_append (State.newCmd_started s e _), State.busyR_append (State.newCmd_started s e _),
      State.repeats_append (State.newCmd_started s e _)]
    rfl
  rw [hp] at hcf ⊢
  have hst : (s.modPort e fun q => { q with cmds := [s.newCmd e (beatOf op tag arg)] }).stopped = s.stopped := rfl
  have hho : (s.modPort e fun q => { q with cmds := [s.newCmd e (beatOf op tag arg)] }).tmb.hold = s.tmb.hold := rfl
  simp only [State.port_modPort, List.find?_cons, State.newCmd_started, Bool.not_false, List.any_cons, List.any_nil, Cmd.holdsUp,
    Bool.false_and, Bool.or_false, hcf, hst, hho, hs, hh, Bool.false_eq_true, if_false]

end Sys2Proof.Machine
end

