-- ==== Sys2Proof/Laws/Power.lean ====
section
/-! SUPPORT. What the arbiter of the current budget leaves as it was, and the bound of R391 through every operation that serves raises. -/

namespace Sys2Proof.Machine

/-- The arbiter and the grade, on which the bound of R391 rests. -/
def State.room (s : State) : Cba × Bool := (s.cba, s.pins.gradeS)

/-- What the bound rests on, of a state written out. -/
theorem State.room_mk (x0 : List Instr) (x1 : Mem) (x2 : Nat) (x3 : List Out) (x4 : List Line) (x5 : Sram) (x6 : Pins) (x7 : Clk) 
    (x8 : Glob) (x9 : Job) (x10 : Step) (x11 : Tmb) (x12 : Vector Cell 68) (x13 : Vector Quad 4) (x14 : Fills) 
    (x15 : Rt) (x16 : Stash) (x17 : List Gen) (x18 : Par) (x19 : Ckpt) (x20 : Dig) (x21 : List Partial) 
    (x22 : Log) (x23 : Vector Mbox 8) (x24 : List Nat) (x25 : Vector Msp 6) (x26 : Net) (x27 : Pkg) (x28 : Cba) 
    (x29 : TapInstr) :
    State.room ⟨x0, x1, x2, x3, x4, x5, x6, x7, x8, x9, x10, x11, x12, x13, x14, x15, x16, x17, x18, x19, x20, x21, x22, x23, x24, x25, x26, x27, x28, x29⟩
      = (x28, (x6).gradeS) := rfl

theorem State.room_eta (s : State) : (s.cba, s.pins.gradeS) = s.room := rfl

theorem foldl_room {α : Type} {f : State → α → State} (h : ∀ s x, (f s x).room = s.room) (l : List α) (s : State) :
    (l.foldl f s).room = s.room := by
  induction l generalizing s with
  | nil => rfl
  | cons x l ih => rw [List.foldl_cons, ih, h]

theorem foldl_fst_room {α β : Type} {f : State × β → α → State × β} (h : ∀ a x, (f a x).1.room = a.1.room) (l : List α)
    (a : State × β) : (l.foldl f a).1.room = a.1.room := by
  induction l generalizing a with
  | nil => rfl
  | cons x l ih => rw [List.foldl_cons, ih, h]

@[simp] theorem State.setCell_room (s : State) (p : PCell) (c : Cell) : (State.setCell s p c).room = s.room := by
  rfl

@[simp] theorem State.modCell_room (s : State) (p : PCell) (f : Cell → Cell) : (State.modCell s p f).room = s.room := by
  rfl

@[simp] theorem State.modPort_room (s : State) (e : EPort) (f : Port → Port) : (State.modPort s e f).room = s.room := by
  rfl

@[simp] theorem State.modQuad_room (s : State) (q : QuadNo) (f : Quad → Quad) : (State.modQuad s q f).room = s.room := by
  rfl

@[simp] theorem State.out_room (s : State) (o : Out) : (State.out s o).room = s.room := by
  rfl

@[simp] theorem State.setIrq_room (s : State) (bit : Nat) : (State.setIrq s bit).room = s.room := by
  rfl

@[simp] theorem State.loseN_room (s : State) (n : Nat) : (State.loseN s n).room = s.room := by
  rfl

@[simp] theorem State.intake_room (s : State) (i : Fin 5) (r : Report) : (State.intake s i r).room = s.room := by
  rfl

@[simp] theorem State.reportN_room (s : State) (level : BitVec 4) (src : BitVec 16) (cls : Byte) (sev : Sev) (count : Nat) (detail : BitVec 96) :
     (State.reportN s level src cls sev count detail).room = s.room := by
  rfl

@[simp] theorem State.report_room (s : State) (level : BitVec 4) (src : BitVec 16) (cls : Byte) (sev : Sev) (detail : BitVec 96) :
     (State.report s level src cls sev detail).room = s.room := by
  rfl

@[simp] theorem State.tfFault_room (s : State) (e : EPort) (tile : Nat) (code : Code) (op : Byte) (row : Nat) :
     (State.tfFault s e tile code op row).room = s.room := by
  rfl

@[simp] theorem State.present_room (s : State) (e : EPort) (op tag : Byte) (tile : Nat) (code : Code) (detail : Word) (row : Nat) :
     (State.present s e op tag tile code detail row).room = s.room := by
  unfold State.present
  simp only [apply_ite State.room, apply_ite Prod.fst, ite_self, State.tfFault_room, State.out_room, State.room_mk, State.room_eta, foldl_room, foldl_fst_room, implies_true]

@[simp] theorem State.complete_room (s : State) (e : EPort) (c : Cmd) (code : Code) (detail : Word) (row : Nat) :
     (State.complete s e c code detail row).room = s.room := by
  unfold State.complete
  simp only [apply_ite State.room, apply_ite Prod.fst, ite_self, State.present_room, State.modCell_room, State.room_mk, State.room_eta, foldl_room, foldl_fst_room, implies_true]

@[simp] theorem State.atAclk_room (s : State) (k : Nat) : (State.atAclk s k).room = s.room := by
  rfl

@[simp] theorem State.passes_room (s t : State) : (State.passes s t).room = t.room := by
  unfold State.passes
  split <;> rfl

@[simp] theorem State.atTick_room (s : State) (now : Tick) : (State.atTick s now).room = s.room := by
  unfold State.atTick
  simp only [apply_ite State.room, apply_ite Prod.fst, ite_self, State.passes_room, State.room_mk, State.room_eta, foldl_room, foldl_fst_room, implies_true]

@[simp] theorem State.geoWrite_room (s : State) : (State.geoWrite s).room = s.room := by
  unfold State.geoWrite
  extract_lets seq ws
  rw [State.room_mk, State.room_eta]

@[simp] theorem State.geoRewriteBy_room (s : State) (mb : Option Nat) : (State.geoRewriteBy s mb).room = s.room := by
  unfold State.geoRewriteBy
  simp only [apply_ite State.room, apply_ite Prod.fst, ite_self, State.report_room, State.geoWrite_room, State.room_mk, State.room_eta, foldl_room, foldl_fst_room, implies_true]

@[simp] theorem State.geoRewrite_room (s : State) : (State.geoRewrite s).room = s.room := by
  unfold State.geoRewrite
  simp only [apply_ite State.room, apply_ite Prod.fst, ite_self, State.geoRewriteBy_room, State.room_mk, State.room_eta, foldl_room, foldl_fst_room, implies_true]

@[simp] theorem State.sendOf_room (s : State) (step : BitVec 48) (type flags : Byte) (dst vshard stream : BitVec 16) (payload : List Byte) :
     (State.sendOf s step type flags dst vshard stream payload).room = s.room := by
  unfold State.sendOf
  simp only [apply_ite State.room, apply_ite Prod.fst, ite_self, State.room_mk, State.room_eta, foldl_room, foldl_fst_room, implies_true]

@[simp] theorem State.send_room (s : State) (type flags : Byte) (dst vshard stream : BitVec 16) (payload : List Byte) :
     (State.send s type flags dst vshard stream payload).room = s.room := by
  unfold State.send
  simp only [apply_ite State.room, apply_ite Prod.fst, ite_self, State.sendOf_room, State.room_mk, State.room_eta, foldl_room, foldl_fst_room, implies_true]

@[simp] theorem State.sendVoid_room (s : State) (replay notBefore : Nat) (cause : Byte) (hold : Bool) :
     (State.sendVoid s replay notBefore cause hold).room = s.room := by
  unfold State.sendVoid
  simp only [apply_ite State.room, apply_ite Prod.fst, ite_self, State.send_room, State.room_mk, State.room_eta, foldl_room, foldl_fst_room, implies_true]

@[simp] theorem State.modRec_room (s : State) (f : StepRec → StepRec) : (State.modRec s f).room = s.room := by
  unfold State.modRec
  split <;> simp only [apply_ite State.room, apply_ite Prod.fst, ite_self, State.room_mk, State.room_eta, foldl_room, foldl_fst_room, implies_true]

@[simp] theorem State.voidPort_room (s : State) (e : EPort) : (State.voidPort s e).room = s.room := by
  unfold State.voidPort
  simp only [apply_ite State.room, apply_ite Prod.fst, ite_self, State.modPort_room, State.present_room, State.room_mk, State.room_eta, foldl_room, foldl_fst_room, implies_true]

@[simp] theorem State.noteVoid_room (s : State) (e : EPort) (req : BitVec 12) (status : BitVec 2) :
     (State.noteVoid s e req status).room = s.room := by
  unfold State.noteVoid
  simp only [apply_ite State.room, apply_ite Prod.fst, ite_self, State.report_room, State.tfFault_room, State.room_mk, State.room_eta, foldl_room, foldl_fst_room, implies_true]

@[simp] theorem State.voidReads_room (s : State) : (State.voidReads s).room = s.room := by
  unfold State.voidReads
  extract_lets t
  rw [State.room_mk, State.room_eta]
  refine foldl_room (fun t o => ?_) _ _
  split <;> simp only [apply_ite State.room, State.noteVoid_room, ite_self]

@[simp] theorem State.voidCleanup_room (s : State) : (State.voidCleanup s).room = s.room := by
  unfold State.voidCleanup
  simp only [apply_ite State.room, apply_ite Prod.fst, ite_self, State.voidPort_room, State.voidReads_room, State.room_mk, State.room_eta, foldl_room, foldl_fst_room, implies_true]

@[simp] theorem State.enterHold_room (s : State) : (State.enterHold s).room = s.room := by
  unfold State.enterHold
  simp only [apply_ite State.room, apply_ite Prod.fst, ite_self, State.modRec_room, State.room_mk, State.room_eta, foldl_room, foldl_fst_room, implies_true]

@[simp] theorem State.tellReplay_room (s : State) (r : Nat) : (State.tellReplay s r).room = s.room := by
  unfold State.tellReplay
  simp only [apply_ite State.room, apply_ite Prod.fst, ite_self, State.out_room, State.room_mk, State.room_eta, foldl_room, foldl_fst_room, implies_true]

@[simp] theorem State.leaderAnnounce_room (s : State) (notBefore : Nat) : (State.leaderAnnounce s notBefore).room = s.room := by
  unfold State.leaderAnnounce
  simp only [apply_ite State.room, apply_ite Prod.fst, ite_self, State.sendVoid_room, State.tellReplay_room, State.room_mk, State.room_eta, foldl_room, foldl_fst_room, implies_true]

@[simp] theorem State.leaderTake_room (s : State) (nb : Nat) (hold : Bool) : (State.leaderTake s nb hold).room = s.room := by
  unfold State.leaderTake
  simp only [apply_ite State.room, apply_ite Prod.fst, ite_self, State.leaderAnnounce_room, State.sendVoid_room, State.room_mk, State.room_eta, foldl_room, foldl_fst_room, implies_true]

@[simp] theorem State.tellMaster_room (s : State) : (State.tellMaster s).room = s.room := by
  unfold State.tellMaster
  simp only [apply_ite State.room, apply_ite Prod.fst, ite_self, State.out_room, State.room_mk, State.room_eta, foldl_room, foldl_fst_room, implies_true]

@[simp] theorem State.request_room (s : State) : (State.request s).room = s.room := by
  unfold State.request
  simp only [apply_ite State.room, apply_ite Prod.fst, ite_self, State.leaderTake_room, State.sendVoid_room, State.tellMaster_room, State.room_mk, State.room_eta, foldl_room, foldl_fst_room, implies_true]

@[simp] theorem State.stopStep_room (s : State) (cause : Byte) : (State.stopStep s cause).room = s.room := by
  unfold State.stopStep
  simp only [apply_ite State.room, apply_ite Prod.fst, ite_self, State.report_room, State.out_room, State.voidCleanup_room, State.room_mk, State.room_eta, foldl_room, foldl_fst_room, implies_true]

@[simp] theorem State.beginVoid_room (s : State) (cause : Byte) : (State.beginVoid s cause).room = s.room := by
  unfold State.beginVoid
  simp only [apply_ite State.room, apply_ite Prod.fst, ite_self, State.stopStep_room, State.request_room, State.room_mk, State.room_eta, foldl_room, foldl_fst_room, implies_true]

@[simp] theorem State.wantHold_room (s : State) (cause : Byte) : (State.wantHold s cause).room = s.room := by
  unfold State.wantHold
  simp only [apply_ite State.room, apply_ite Prod.fst, ite_self, State.stopStep_room, State.request_room, State.enterHold_room, State.room_mk, State.room_eta, foldl_room, foldl_fst_room, implies_true]

@[simp] theorem State.putRun_room (s : State) (q : QuadNo) (r : Run) : (State.putRun s q r).room = s.room := by
  rfl

@[simp] theorem State.dropRun_room (s : State) (q : QuadNo) (seq : Nat) : (State.dropRun s q seq).room = s.room := by
  rfl

@[simp] theorem State.heldRecord_room (s : State) (q : QuadNo) (r : Run) (code : Code) (detail : Word) :
     (State.heldRecord s q r code detail).room = s.room := by
  rfl

@[simp] theorem State.runFault_room (s : State) (r : Run) (code : Code) (detail : Word) :
     (State.runFault s r code detail).room = s.room := by
  unfold State.runFault
  split <;> simp only [apply_ite State.room, apply_ite Prod.fst, ite_self, State.tfFault_room, State.room_mk, State.room_eta, foldl_room, foldl_fst_room, implies_true]

@[simp] theorem State.cancelStash_room (s : State) (uid : Option Nat) : (State.cancelStash s uid).room = s.room := by
  unfold State.cancelStash
  split <;> simp only [apply_ite State.room, apply_ite Prod.fst, ite_self, State.room_mk, State.room_eta, foldl_room, foldl_fst_room, implies_true]

@[simp] theorem State.forgetRun_room (s : State) (seq : Nat) : (State.forgetRun s seq).room = s.room := by
  rfl

@[simp] theorem State.retireRun_room (s : State) (q : QuadNo) (r : Run) (code : Code) (detail : Word) :
     (State.retireRun s q r code detail).room = s.room := by
  unfold State.retireRun
  simp only [apply_ite State.room, apply_ite Prod.fst, ite_self, State.putRun_room, State.dropRun_room, State.forgetRun_room, State.room_mk, State.room_eta, foldl_room, foldl_fst_room, implies_true]

@[simp] theorem State.tellWaiters_room (s : State) (q : QuadNo) (seq : Nat) (code : Code) (detail : Word) :
     (State.tellWaiters s q seq code detail).room = s.room := by
  unfold State.tellWaiters
  simp only [apply_ite State.room, apply_ite Prod.fst, ite_self, State.dropRun_room, State.complete_room, State.room_mk, State.room_eta, foldl_room, foldl_fst_room, implies_true]

@[simp] theorem State.noteSkipped_room (s : State) (q : QuadNo) (r : Run) : (State.noteSkipped s q r).room = s.room := by
  unfold State.noteSkipped
  simp only [apply_ite State.room, apply_ite Prod.fst, ite_self, State.reportN_room, State.room_mk, State.room_eta, foldl_room, foldl_fst_room, implies_true]

@[simp] theorem State.endRun_room (s : State) (q : QuadNo) (r : Run) (code : Code) (detail : Word) (pennant : Bool) :
     (State.endRun s q r code detail pennant).room = s.room := by
  unfold State.endRun
  simp only [apply_ite State.room, apply_ite Prod.fst, ite_self, State.tellWaiters_room, State.heldRecord_room, State.runFault_room, State.noteSkipped_room, State.retireRun_room, State.room_mk, State.room_eta, foldl_room, foldl_fst_room, implies_true]

@[simp] theorem State.settlePort_room (s : State) (e : EPort) : (State.settlePort s e).room = s.room := by
  unfold State.settlePort
  simp only [apply_ite State.room, apply_ite Prod.fst, ite_self, State.complete_room, State.room_mk, State.room_eta, foldl_room, foldl_fst_room, implies_true]

@[simp] theorem State.admitLate_room (s : State) : (State.admitLate s).room = s.room := by
  unfold State.admitLate
  simp only [apply_ite State.room, apply_ite Prod.fst, ite_self, State.out_room, State.geoRewrite_room, State.room_mk, State.room_eta, foldl_room, foldl_fst_room, implies_true]

@[simp] theorem State.settle_room (s : State) : (State.settle s).room = s.room := by
  rw [State.settle, State.admitLate_room]
  exact foldl_room (fun s e => State.settlePort_room s e) _ s

@[simp] theorem State.jackfail_room (s : State) (p : PCell) (stage : Nat) (l : BitVec 16) : (State.jackfail s p stage l).room = s.room := by
  rfl

@[simp] theorem State.noteSkips_room (s : State) (l : List PCell) : (State.noteSkips s l).room = s.room := by
  unfold State.noteSkips
  simp only [apply_ite State.room, apply_ite Prod.fst, ite_self, State.jackfail_room, State.room_mk, State.room_eta, foldl_room, foldl_fst_room, implies_true]

@[simp] theorem State.fenceCmds_room (s : State) (e : EPort) : (State.fenceCmds s e).room = s.room := by
  unfold State.fenceCmds
  simp only [apply_ite State.room, apply_ite Prod.fst, ite_self, State.modCell_room, State.cancelStash_room, State.present_room, State.room_mk, State.room_eta, foldl_room, foldl_fst_room, implies_true]

@[simp] theorem State.fenceRuns_room (s : State) (e : EPort) : (State.fenceRuns s e).room = s.room := by
  unfold State.fenceRuns
  split <;> simp only [apply_ite State.room, apply_ite Prod.fst, ite_self, State.cancelStash_room, State.endRun_room, State.room_mk, State.room_eta, foldl_room, foldl_fst_room, implies_true]

@[simp] theorem State.recordId_room (s : State) (x : IdSample) (start : Bool) : (State.recordId s x start).room = s.room := by
  rfl

@[simp] theorem State.mapRow_room (s : State) (p : PCell) (t : TileNo) (row : RowNo) (failing : List (Fin 8)) :
     (State.mapRow s p t row failing).1.room = s.room := by
  unfold State.mapRow
  simp only [apply_ite State.room, apply_ite Prod.fst, ite_self, State.report_room, State.modCell_room, State.room_mk, State.room_eta, foldl_room, foldl_fst_room, implies_true]

@[simp] theorem State.buildMap_room (s : State) : (State.buildMap s).room = s.room := by
  unfold State.buildMap
  refine (foldl_room (fun s l => ?_) _ _).trans ?_
  · dsimp only
    repeat' split
    all_goals rfl
  · rw [State.room_mk, State.room_eta]

@[simp] theorem State.recordIds_room (s : State) (p : PCell) (ids : List IdSample) : (State.recordIds s p ids).room = s.room := by
  unfold State.recordIds
  simp only [apply_ite State.room, apply_ite Prod.fst, ite_self, State.recordId_room, State.room_mk, State.room_eta, foldl_room, foldl_fst_room, implies_true]

@[simp] theorem State.setFillStage_room (s : State) (f : Fill) (n : BitVec 3) : (State.setFillStage s f n).room = s.room := by
  rfl

@[simp] theorem State.wipeCell_room (s : State) (p : PCell) : (State.wipeCell s p).room = s.room := by
  rfl

@[simp] theorem State.softRepair_room (s : State) (p : PCell) (rows : List RowTest) : (State.softRepair s p rows).1.room = s.room := by
  unfold State.softRepair
  simp only [apply_ite State.room, apply_ite Prod.fst, ite_self, State.mapRow_room, State.room_mk, State.room_eta, foldl_room, foldl_fst_room, implies_true]

@[simp] theorem ends_room (s : State) (r : Resp) : (ends s r).1.room = s.room := by
  rfl

@[simp] theorem endsOk_room (s : State) : (endsOk s).1.room = s.room := by
  rfl

@[simp] theorem State.setCur_room (s : State) (n : Fin 8) (r : MReq) : (State.setCur s n r).room = s.room := by
  rfl

@[simp] theorem State.acted_room (n : Fin 8) (r : MReq) (y : Act) : (State.acted n r y).room = y.1.room := by
  unfold State.acted
  dsimp only
  repeat' split
  all_goals simp only [apply_ite State.room, apply_ite Prod.fst, ite_self, State.out_room, State.setCur_room, State.room_mk, State.room_eta, foldl_room, foldl_fst_room, implies_true]

theorem State.firmware_room (s : State) (n : Fin 8) (mine : Nat → Bool) (act : Req → State → Act)
    (h : ∀ r s, (act r s).1.room = s.room) : (s.firmware n mine act).room = s.room := by
  unfold State.firmware
  split
  · rfl
  · split
    · rfl
    · split
      · exact (State.acted_room ..).trans (h _ s)
      · split
        · rfl
        · split
          · rfl
          · exact (State.acted_room ..).trans (h _ s)


/-! ### The bound of R391 -/

theorem State.inPool_of_room {s t : State} (h : t.room = s.room) (p : s.inPool) : t.inPool := by
  have hc : t.cba = s.cba := (Prod.mk.inj h).1
  have hg : t.pins.gradeS = s.pins.gradeS := (Prod.mk.inj h).2
  unfold State.inPool
  rw [hc, hg]
  exact p

/-- The sum of the levels of the first clients after one level is set. -/
theorem Cba.sum_setLvl (c : Cba) (n v k : Nat) (hn : n < 209) :
    (c.setLvl n v).sumOf 0 k + (if n < k then c.lvl n else 0) = c.sumOf 0 k + (if n < k then v else 0) := by
  unfold Cba.sumOf
  induction k with
  | zero => simp
  | succ k ih =>
    have hk : (c.setLvl n v).lvl k = if n = k then v else c.lvl k := by
      unfold Cba.setLvl Cba.lvl
      rw [Vector.getElem?_setIfInBounds]
      by_cases h : n = k
      · subst h; simp [hn]
      · simp [h]
    simp only [List.range_succ, List.foldl_append, List.foldl_cons, List.foldl_nil, Nat.zero_add] at ih ⊢
    rw [hk]
    by_cases h1 : n = k
    · subst h1; simp at ih ⊢; omega
    · by_cases h2 : n < k
      · have h3 : n < k + 1 := by omega
        simp only [h1, h2, h3, if_true, if_false] at ih ⊢; omega
      · have h3 : ¬ n < k + 1 := by omega
        simp only [h1, h2, h3, if_false] at ih ⊢; omega

theorem Cba.engineSum_setLvl (c : Cba) (n v : Nat) (hn : n < 209) :
    (c.setLvl n v).engineSum + (if n < 136 then c.lvl n else 0) = c.engineSum + (if n < 136 then v else 0) := c.sum_setLvl n v 136 hn

/-- No client is raised beyond what the pool leaves: serving one keeps the bound. -/
theorem Cba.serveOne_pool (c : Cba) (f n : Nat) (h : c.engineSum ≤ c.budget.toNat - f) :
    (c.serveOne f n).engineSum ≤ (c.serveOne f n).budget.toNat - f := by
  unfold Cba.serveOne
  dsimp only
  split
  · rename_i hl
    have hn : n < 209 := by
      rcases Nat.lt_or_ge n 209 with hn | hn
      · exact hn
      · exfalso
        have hw : c.wants n = 0 := by unfold Cba.wants; rw [Vector.getElem?_eq_none hn]; rfl
        unfold Cba.target at hl
        rw [if_neg (by omega), hw] at hl
        omega
    have e := c.engineSum_setLvl n (c.target f n) hn
    show (c.setLvl n (c.target f n)).engineSum ≤ c.budget.toNat - f
    by_cases h1 : n < 136
    · have ht : c.target f n ≤ c.lvl n + (c.budget.toNat - f - c.engineSum) := by
        unfold Cba.target; rw [if_pos h1]; omega
      rw [if_pos h1, if_pos h1] at e
      omega
    · rw [if_neg h1, if_neg h1] at e
      omega
  · exact h

theorem Cba.serveAll_pool (c : Cba) (f : Nat) (h : c.engineSum ≤ c.budget.toNat - f) :
    (c.serveAll f).engineSum ≤ (c.serveAll f).budget.toNat - f := by
  unfold Cba.serveAll
  generalize c.serving = l
  induction l generalizing c with
  | nil => exact h
  | cons n l ih => exact ih _ (c.serveOne_pool f n h)

theorem Cba.setLvl_lower (c : Cba) (f n v : Nat) (hv : n < 136 → v ≤ c.lvl n) (h : c.engineSum ≤ c.budget.toNat - f) :
    (c.setLvl n v).engineSum ≤ c.budget.toNat - f := by
  rcases Nat.lt_or_ge n 209 with hn | hn
  · have e := c.engineSum_setLvl n v hn
    by_cases h1 : n < 136
    · have := hv h1
      rw [if_pos h1, if_pos h1] at e
      omega
    · rw [if_neg h1, if_neg h1] at e
      omega
  · have e : c.setLvl n v = c := by unfold Cba.setLvl; rw [Vector.setIfInBounds_eq_of_size_le hn]
    rw [e]; exact h

theorem State.serve_inPool (s : State) (h : s.inPool) : s.serve.inPool := by
  have e : s.serve.cba = s.cba.serveAll (floorF s.pins.gradeS) := by simp only [State.serve, State.served]
  have g : s.serve.pins = s.pins := by simp only [State.serve, State.served]
  unfold State.inPool at h ⊢
  rw [e, g]
  exact Cba.serveAll_pool _ _ h

theorem State.fills_room (s : State) (x : Fills) : ({ s with fills := x } : State).room = s.room := rfl

/-- A cell, quadrant or instance client asks for a level, and the raises are served. -/
theorem State.askLevel_inPool (s : State) (n want : Nat) (h : s.inPool) : (s.askLevel n want).inPool := by
  unfold State.askLevel
  refine State.serve_inPool _ ?_
  unfold State.inPool at h ⊢
  dsimp only
  generalize floorF s.pins.gradeS = f at h ⊢
  split
  · exact Cba.setLvl_lower (s.cba.setWant n want) _ n want (fun _ => by assumption) h
  · exact h

theorem State.setPwr_inPool (s : State) (p : PCell) (w : Pwr) (h : s.inPool) : (s.setPwr p w).inPool :=
  State.askLevel_inPool _ _ _ (State.inPool_of_room (State.modCell_room s p _) h)

theorem State.shutdown_inPool (s : State) (p : PCell) (h : s.inPool) : (s.shutdown p).inPool := by
  unfold State.shutdown
  dsimp only
  repeat' split
  · exact State.askLevel_inPool _ _ _ h
  · exact State.inPool_of_room (State.modCell_room ..) h
  · exact State.setPwr_inPool _ _ _ (State.inPool_of_room (State.modCell_room ..) h)

theorem State.enable_inPool (s : State) (p : PCell) (h : s.inPool) : (s.enable p).inPool := by
  unfold State.enable
  dsimp only
  repeat' split
  · exact State.inPool_of_room (State.modCell_room ..) h
  · exact State.askLevel_inPool _ _ _ h
  · exact h

theorem State.dropGrant_inPool (s : State) (e : EPort) (h : s.inPool) : (s.dropGrant e).inPool :=
  Cba.setLvl_lower (s.cba.setWant (portClient e) 0) _ _ 0 (fun _ => Nat.zero_le _) h

theorem State.nextFill_inPool (s : State) (h : s.inPool) : s.nextFill.inPool := by
  unfold State.nextFill
  split
  · extract_lets cands ok pick s1
    have h1 : s1.inPool := by
      refine State.inPool_of_room ?_ h
      show (if _ then _ else _ : State).room = _
      split
      · exact State.noteSkips_room ..
      · rfl
    clear_value s1 pick
    split
    · extract_lets st ready s2 s3
      have h3 : s3.inPool := State.inPool_of_room ((State.modCell_room ..).trans (State.fills_room ..)) h1
      clear_value s3
      split
      · exact State.setPwr_inPool _ _ _ h3
      · exact State.enable_inPool _ _ h3
    · exact State.inPool_of_room ((State.wantHold_room ..).trans ((State.geoRewrite_room ..).trans (State.fills_room ..))) h1
  · exact h

theorem State.abortFill_inPool (s : State) (h : s.inPool) : s.abortFill.inPool := by
  unfold State.abortFill
  split
  · exact h
  · rename_i f _
    extract_lets s1 s2 s3 s4
    have h3 : s3.inPool := State.inPool_of_room ((State.modCell_room ..).trans ((State.fills_room ..).trans (State.jackfail_room ..))) h
    have h4 : s4.inPool := State.nextFill_inPool _ (State.inPool_of_room (State.geoRewrite_room _) (State.shutdown_inPool _ _ h3))
    clear_value s4
    split
    · exact State.inPool_of_room (State.request_room _) h4
    · exact h4

theorem State.fence_inPool (s : State) (e : EPort) (no reason ident : Nat) (h : s.inPool) : (s.fence e no reason ident).inPool := by
  unfold State.fence
  split
  · exact h
  · dsimp only
    refine State.inPool_of_room ((State.settle_room _).trans (State.geoRewrite_room _)) (State.dropGrant_inPool _ _ (State.inPool_of_room ?_ h))
    exact (State.fenceRuns_room ..).trans ((State.fenceCmds_room ..).trans ((State.modPort_room ..).trans (State.report_room ..)))

theorem State.retireCell_inPool (s : State) (p : PCell) (cause : Nat) (h : s.inPool) : (s.retireCell p cause).inPool := by
  unfold State.retireCell
  extract_lets c s1 s2 s3 s4
  have h2 : s2.room = s.room := by
    show (if _ then _ else _ : State).room = _
    split
    · exact (State.stopStep_room ..).trans (State.report_room ..)
    · exact State.report_room ..
  have h4 : s4.inPool := State.inPool_of_room (State.geoRewrite_room _) (State.shutdown_inPool _ _ (State.inPool_of_room ((State.modCell_room ..).trans h2) h))
  have h1 : s1.inPool := State.inPool_of_room (State.report_room ..) h
  clear_value s4 s1
  split
  · exact h
  · split
    · exact State.abortFill_inPool _ h1
    · split
      · exact h4
      · extract_lets s5
        have h5 : s5.inPool := State.nextFill_inPool _ (State.inPool_of_room (State.fills_room ..) h4)
        clear_value s5
        split
        · exact State.inPool_of_room (State.request_room _) h5
        · exact h5

end Sys2Proof.Machine
end

