-- ==== Sys2Proof/WellFormed.lean ====
section
/-! DEFINITION. Which terms of `Instr` stand for something that can reach the block: a message of the type its row names, an
opcode that R49 leaves reserved, a tile that exists, a word address. No sender produces an ill-formed command. -/

namespace Sys2Proof

/-- Opcodes of R49. -/
def opcodeDefined (op : Byte) : Bool :=
  [0x01, 0x02, 0x03, 0x04, 0x05, 0x06, 0x10, 0x11, 0x12, 0x20, 0x21, 0x30].contains op.toNat

/-- A tile of one of the two files (R44). -/
def tileExists (t : TileNo) : Bool := decide (t.toNat < 24)

/-- The channel of a packet (R159): SVC for the packets of QoS 15 that R166 allows, else REQ or RSP by what it carries. -/
def Packet.channel (p : Packet) : VChan :=
  if p.svcCore && p.qos == 15 then .svc
  else match p.kind with
    | .read => .req
    | .writeData => .req
    | .readData => .rsp
    | .writeAck => .rsp

/-- Bytes of payload that a packet carries: none for a read request or an acknowledgement. -/
def Packet.carries (p : Packet) : Nat :=
  match p.kind with
  | .read => 0
  | .writeData => p.bytes
  | .readData => p.bytes
  | .writeAck => 0

/-- A packet takes its channel and carries one line or a part of one (R158, R159). -/
def Packet.wf (p : Packet) : Bool := p.vc == p.channel && p.data.length == p.carries && decide (p.addr.toNat % 256 + p.bytes ≤ 256)

/-- Well-formedness of a command. -/
def Instr.wf : Instr → Bool
  | .reservedOpcodeBeat _ op _ _ => !opcodeDefined op
  | .correctedRowWriteback _ t _ => tileExists t
  | .packetGrant _ _ arrivals _ => arrivals.all Packet.wf
  | .gradientPartial _ m => m.type == 0x01
  | .parityDelta _ m => m.type == 0x02
  | .rebuildStream _ m _ => m.type == 0x03
  | .stepvoid _ m => m.type == 0x04
  | .heartbeat _ m => m.type == 0x05
  | .divergenceDigest _ m => m.type == 0x06
  | .tickValue _ m => m.type == 0x07
  | .pairLoReadLatch off => off.toNat % 4 == 0
  | .pairHiRead off => off.toNat % 4 == 0
  | .voidCleanupDone tests => tests.all fun t => tileExists t.tile
  | _ => true

end Sys2Proof
end

