-- ==== Sys2Proof/Tests/Slice0.lean ====
section
/-! SUPPORT. Tests of the model: ill-formed commands, worked examples of the manual, and for every statement that has
hypotheses a state and operands that meet them. -/

set_option Elab.async false

namespace Sys2Proof.Tests

open Sys2Proof.Machine

/-! ### Well-formed commands: an ill-formed term for each check -/

def aMsg : XMsg :=
  { type := 0x05, flags := 0, src := 3, dst := 0, vshard := 0, step := 0, stream := 0, length := 0, seq := 1, pcrc := crc32c [], rsvdZero := true,
    framed := true, beats := 1, payload := [] }

theorem test_wf_reserved_opcode : (Instr.reservedOpcodeBeat ⟨0, false⟩ 0x01 0 0).wf = false ∧ (Instr.reservedOpcodeBeat ⟨0, false⟩ 0x7F 0 0).wf = true := by decide
theorem test_wf_writeback_tile : (Instr.correctedRowWriteback 0 24 0).wf = false ∧ (Instr.correctedRowWriteback 0 23 0).wf = true := by decide
theorem test_wf_packet : (Instr.packetGrant 0 0 [⟨0, 15, false, 0, 0, 0, .svc, .read, 256, [], 0, 0, 17, true, false, false, 0⟩] []).wf = false
    ∧ (Instr.packetGrant 0 0 [⟨1, 13, false, 0, 0, 0, .req, .read, 256, [], 0, 0, 17, true, false, false, 0⟩] []).wf = false := by decide
theorem test_wf_message_types :
    (Instr.gradientPartial 0 aMsg).wf = false ∧ (Instr.parityDelta 0 aMsg).wf = false ∧ (Instr.rebuildStream 0 aMsg []).wf = false
    ∧ (Instr.stepvoid 0 aMsg).wf = false ∧ (Instr.divergenceDigest 0 aMsg).wf = false ∧ (Instr.tickValue (some 0) aMsg).wf = false
    ∧ (Instr.heartbeat 0 aMsg).wf = true ∧ (Instr.heartbeat 0 { aMsg with type := 4 }).wf = false := by decide +kernel
theorem test_wf_pairs : (Instr.pairLoReadLatch 0x8002).wf = false ∧ (Instr.pairHiRead 0x8005).wf = false ∧ (Instr.pairLoReadLatch 0x8000).wf = true := by decide
theorem test_wf_row_test : (Instr.voidCleanupDone [⟨0, 25, 0, []⟩]).wf = false := by decide

/-! ### Worked examples of the manual -/

/-- The check value of CRC-64 (R288). -/
theorem test_crc64_check : crc64 0 [0x31, 0x32, 0x33, 0x34, 0x35, 0x36, 0x37, 0x38, 0x39] = 0x6C40DF5F0B497347 := by decide +kernel

/-- The tree of 10_determinism.md's worked example: node(5, 38) of four level-3 nodes 2^24, 1, 1, -2^24 is 1.0 (R269). -/
theorem test_merge_tree : treeFold f32Add 17 [0x4B800000, 0x3F800000, 0x3F800000, 0xCB800000] = 0x3F800000 := by decide +kernel

/-! ### States -/

/-- An instance past start-up: it runs firmware, and of a package of two it is instance 0 and the master. -/
def up : State :=
  { State.reset with
    glob := { State.reset.glob with geo := (State.reset.glob.geo.set 0 2).set 2 0x00032000 }
    pins := { State.reset.pins with rstN := true, wiping := false, boot := 4, ready := true }
    pkg := { State.reset.pkg with present := 3, settled := true } }

/-- One cell of the job whose tile 1 is configured as 8 rows of 256 bytes of FP32, with two valid rows, and tile 2 alike. -/
def someCfg : TileCfg := ⟨false, 0, 7, 7⟩
def someTile : Tile := { cfg := some someCfg, inUse := true, valid := 2, written := 3, data := [(0, 5), (1, 6)] }
def someCell : Cell :=
  { pwr := .active, logical := some 0, dep := { idNow := BitVec.allOnes 64 }
    tiles := ((Vector.replicate 24 {} : Vector Tile 24).set 1 someTile).set 2 { cfg := some someCfg } }
def one : State := up.setCell 0 someCell
def dep0 : EPort := ⟨0, false⟩
def sep0 : EPort := ⟨0, true⟩

/-! ### Hypotheses of the statements: the block as a whole -/

theorem witness_IdleStepCountsOneCycle : ({ up with clk := { up.clk with gtcOn := true } } : State).pending = []
    ∧ ({ up with clk := { up.clk with gtcOn := true } } : State).clk.gtcOn = true := ⟨rfl, rfl⟩

theorem witness_StepKeepsMemoryForm : ∃ t, State.reset.Inv ∧ step State.reset = .next t := ⟨_, rfl, rfl⟩

theorem witness_OtherCommandsLeaveMemory : ∃ t, writesMemory .coalesceDrain = false ∧ exec .coalesceDrain up = .next t := ⟨_, rfl, rfl⟩

/-! ### Command beats and tiles -/

/-- The port has a command that waits. -/
def busyPort : State := one.modPort dep0 fun q => { q with cmds := [{ beat := beatOf opTZERO 9 0x100 }] }

theorem witness_TakenBeatWaitsItsTurn :
    (opTZERO, Instr.tzero dep0 7 0x100) ∈ commandBeats dep0 7 0x100 [] [(3, .corrected)] ∧ busyPort.takes dep0 opTZERO 7 0x100 ∧ (busyPort.port dep0).waiting ≠ 0
    ∧ (∀ y ∈ [((3 : BitVec 7), Ecc.corrected)], y.2 ≠ .uncorr) := by
  unfold State.takes; decide +kernel

theorem witness_startsNow_tcfg : one.startsNow dep0 opTCFG 7 0x000007070100 := by unfold State.startsNow State.takes; decide +kernel
theorem witness_TcfgChecksAndConfigures :
    tcfgCode one dep0 1 someCfg = .ok ∧ tcfgCode one dep0 3 ⟨false, 0x1E, 7, 7⟩ = .tfmt ∧ tcfgCode one dep0 20 someCfg = .tnotvalid := by decide +kernel

theorem witness_ZeroAndReleaseTiles_zero :
    one.startsNow dep0 opTZERO 7 0x100 ∧ (beatOf opTZERO 7 0x100).getLsbD 32 = false ∧ ownFile false 1 = true
    ∧ (one.cell 0).tile? 1 = some someTile ∧ someTile.cfg = some someCfg := by unfold State.startsNow State.takes; decide +kernel
theorem witness_ZeroAndReleaseTiles_zero_unconfigured :
    one.startsNow dep0 opTZERO 7 0x300 ∧ (one.cell 0).tile? 3 = some {} := by unfold State.startsNow State.takes; decide +kernel

theorem witness_ZeroAndReleaseTiles :
    one.startsNow dep0 opTRELEASE 7 0x200 ∧ (one.cell 0).tile? 1 = some someTile ∧ (0x2 : BitVec 24).getLsbD 1 = true
    ∧ one.startsNow dep0 opTZERO 7 0x10100 ∧ (beatOf opTZERO 7 0x10100).getLsbD 32 = true ∧ ownFile false 1 = true := by
  unfold State.startsNow State.takes; decide +kernel

theorem witness_TmoveCopiesRows :
    one.startsNow dep0 opTMOVE 7 0x20100 ∧ (one.cell 0).tile? 1 = some someTile ∧ (one.cell 0).tile? 2 = some { cfg := some someCfg }
    ∧ someTile.inUse = true ∧ someTile.valid ≤ someCfg.rm1.toNat + 1
    ∧ (∀ r : RowNo, someTile.written.getLsbD r.toNat = true → eccAt [⟨1, 0, .corrected⟩] 1 r ≠ .uncorr) := by unfold State.startsNow State.takes; decide +kernel
/-- A step in progress. -/
def running : State := { one with step := { one.step with running := true, records := [recOf []] } }
/-- Row 1 of the source cannot be corrected; a tile moved onto itself. -/
theorem witness_TmoveCopiesRows_void :
    running.startsNow dep0 opTMOVE 7 0x20100 ∧ (1 : RowNo).toNat < someTile.valid ∧ someTile.written.getLsbD (1 : RowNo).toNat = true
    ∧ eccAt [⟨1, 1, .uncorr⟩] 1 1 = .uncorr ∧ running.step.running = true ∧ one.startsNow dep0 opTMOVE 7 0x10100 := by
  unfold State.startsNow State.takes; decide +kernel
/-- Tiles 3 to 5 beside: not configured, of another format, of another shape. -/
def mixed : State := one.modCell 0 fun c => { c with tiles := (c.tiles.set 4 { cfg := some { someCfg with fmt := 1 } }).set 5 { cfg := some { someCfg with rb := 3 } } }
theorem witness_TmoveCopiesRows_fails :
    (mixed.startsNow dep0 opTMOVE 7 0x20300 ∧ (mixed.cell 0).tile? 3 = some {}) ∧ (mixed.startsNow dep0 opTMOVE 7 0x30100 ∧ (mixed.cell 0).tile? 1 = some someTile)
    ∧ (mixed.startsNow dep0 opTMOVE 7 0x40100 ∧ (mixed.cell 0).tile? 4 = some { cfg := some { someCfg with fmt := 1 } })
    ∧ mixed.startsNow dep0 opTMOVE 7 0x50100 ∧ (mixed.cell 0).tile? 5 = some { cfg := some { someCfg with rb := 3 } } := by
  unfold State.startsNow State.takes; decide +kernel

theorem witness_RvreadWritesTwoRows :
    one.startsNow dep0 opRVREAD 7 0x6010000 ∧ ((beatOf opRVREAD 7 0x6010000).extractLsb' 32 5 : TileNo) = 1
    ∧ ((beatOf opRVREAD 7 0x6010000).extractLsb' 40 7).toNat + 2 ≤ someCfg.rm1.toNat + 1 ∧ (one.cell 0).tile? 1 = some someTile := by
  unfold State.startsNow State.takes; decide +kernel
/-- The tile is not configured, of another format, too short for the two rows; register 5 cannot be corrected. -/
theorem witness_RvreadWritesTwoRows_fails :
    mixed.startsNow dep0 opRVREAD 7 0x3010000 ∧ ownFile false 3 = true ∧ (mixed.cell 0).tile? 3 = some {} ∧ mixed.startsNow dep0 opRVREAD 7 0x4010000
    ∧ mixed.startsNow dep0 opRVREAD 7 0x7010000 ∧ someCfg.rm1.toNat + 1 < 7 + 2
    ∧ running.takes dep0 opRVREAD 7 0x6010000 ∧ ([((5 : BitVec 7), Ecc.uncorr)].find? fun x => x.1 == 5) = some (5, .uncorr) ∧ running.step.running = true := by
  unfold State.startsNow State.takes; decide +kernel

theorem witness_FenceCompletesWhenNothingIsOwed :
    one.startsNow dep0 opFENCE 7 0x10400 ∧ (one.port ⟨0, true⟩).cmds = [] ∧ one.fenceRunsOf dep0 { beat := beatOf opFENCE 7 0x10400 } = [] := by
  unfold State.startsNow State.takes; decide +kernel

/-- A FENCE that names what stands before it on the port, and one that names the other port; one that a TLOAD's last row completes. -/
def fenceOf (earlier other : List Byte) (runs : List Nat) : Cmd :=
  { beat := beatOf opFENCE 9 0, started := true, earlier := earlier, other := other, runs := runs }
def fencing (s : State) (e : EPort) (c : Cmd) : State := s.modPort e fun q => { q with cmds := q.cmds ++ [c] }
theorem witness_FenceCompletesWhenNothingIsOwed_owed :
    let s := one.modPort dep0 fun q => { q with cmds := [{ beat := beatOf opTLOAD 3 0x100, started := true }] }
    s.takes dep0 opFENCE 7 0x100 ∧ (s.port dep0).waiting = 0 ∧ s.tmb.hold = false ∧ (s.port dep0).cmds.any Cmd.holdsUp = false
    ∧ s.conflict 0 { beat := beatOf opFENCE 7 0x100 } = false ∧ (beatOf opFENCE 7 0x100).getLsbD 24 = true
    ∧ s.takes ⟨0, true⟩ opFENCE 7 0x400 ∧ (beatOf opFENCE 7 0x400).getLsbD 26 = true ∧ (s.port dep0).cmds.all (fun c => !c.fenceDone) = true := by
  unfold State.takes; decide +kernel

theorem witness_OldestCommandStarts :
    (busyPort.port dep0).cmds.find? (fun x => !x.started) = some { beat := beatOf opTZERO 9 0x100 } ∧ busyPort.stopped = false
    ∧ busyPort.tmb.hold = false ∧ (busyPort.port dep0).cmds.any Cmd.holdsUp = false
    ∧ busyPort.conflict 0 { beat := beatOf opTZERO 9 0x100 } = false := by decide +kernel

theorem witness_ReservedOpcodeCompletesWithPortproto :
    beatFields 0x7F = none ∧ one.cmdReady dep0 = true ∧ (one.port dep0).find 7 = none ∧ one.tolerates dep0 := by
  unfold State.tolerates; decide +kernel

def fencedPort : State := one.modPort dep0 fun q => { q with fenced := true }

theorem witness_FencesAndViolationsAnswer :
    (opTCFG, Instr.tcfg dep0 7 0) ∈ commandBeats dep0 7 0 [] [] ∧ fencedPort.asleep = false ∧ (fencedPort.port dep0).fenced = true
    ∧ one.asleep = false ∧ one.tolerates dep0 := by unfold State.tolerates; decide +kernel

/-- Violations 2 to 6: a reserved bit, a tag that is outstanding, a port whose cell is not ACTIVE. -/
theorem witness_FencesAndViolationsAnswer_counted :
    let s := one.modPort dep0 fun q => { q with cmds := [{ beat := beatOf opTLOAD 7 0x100, started := true }] }
    let off := one.modCell 0 fun c => { c with pwr := .ready }
    one.tolerates dep0 ∧ one.cmdReady dep0 = true ∧ reservedBitSet opTZERO (beatOf opTZERO 7 0x80000000) = true ∧ (one.port dep0).find 7 = none
    ∧ s.tolerates dep0 ∧ s.cmdReady dep0 = true ∧ (s.port dep0).find 7 ≠ none ∧ (s.port dep0).cmds.all (fun c => !c.fenceDone) = true
    ∧ off.tolerates dep0 ∧ off.asleep = false ∧ off.cmdReady dep0 = false ∧ off.cmdStop = false ∧ off.ioReady dep0 = false ∧ off.stopped = false := by
  unfold State.tolerates; decide +kernel

/-! ### Loads and stores -/

/-- TLOAD and TSTORE of tile 1 at 0x10000 with a stride of 256 bytes. -/
def lsArg : BitVec 112 := 0x1000000000100000100

theorem witness_LoadAndStoreStart_fields :
    ((beatOf opTSTORE 7 lsArg).extractLsb' 24 5 : TileNo) = 1 ∧ ((beatOf opTSTORE 7 lsArg).extractLsb' 32 48).toNat = 0x10000
    ∧ ((beatOf opTSTORE 7 lsArg).extractLsb' 80 32).toNat = 256 := by decide
theorem witness_LoadAndStoreStart :
    one.startsNow dep0 opTLOAD 7 lsArg ∧ one.startsNow dep0 opTSTORE 7 lsArg ∧ ownFile false 1 = true
    ∧ (one.cell 0).tile? 1 = some someTile ∧ someTile.cfg = some someCfg ∧ someTile.inUse = true ∧ someCfg.bytes ≤ 256 ∧ 0 < someTile.valid := by
  unfold State.startsNow State.takes; decide +kernel
/-- An address of 0x10008. -/
theorem witness_LoadAndStoreStart_misaligned :
    one.startsNow dep0 opTLOAD 7 0x1000000000100080100 ∧ ((beatOf opTLOAD 7 0x1000000000100080100).extractLsb' 32 48).toNat % 32 ≠ 0 := by
  unfold State.startsNow State.takes; decide +kernel

/-- Cell 0 with one running TLOAD or TSTORE of tile 1, row 0 to 1, translations as given; line 0x100 of own memory is held. -/
def lsProg (store : Bool) (segs : List (Nat × List (Nat × Nat))) : LsProg := ⟨store, 0x10000, 256, 0, 0, 2, segs, [], none, []⟩
def lsCmd (store : Bool) (segs : List (Nat × List (Nat × Nat))) : Cmd :=
  { beat := beatOf (if store then opTSTORE else opTLOAD) 7 lsArg, started := true, ls := some (lsProg store segs) }
def stacked : State :=
  { one with
    msps := one.msps.set 0 { ident := [16, 0, 0, 0], idDone := true }
    lines := [⟨0x100, 0, 0xFF, 0⟩]
    quads := one.quads.set 0 { tlb := [⟨0x10000, false, 0x10000, true, true⟩] } }
def moving (store : Bool) (segs : List (Nat × List (Nat × Nat))) : State :=
  stacked.modPort dep0 fun q => { q with cmds := [lsCmd store segs] }

theorem witness_WalkTranslatesRow :
    let s := moving false []
    let pages := pagePieces 0x10000 256
    s.moving dep0 7 (lsCmd false []) (lsProg false []) ∧ (lsProg false []).store = ((lsCmd false []).op == opTSTORE) ∧ (0 : RowNo).toNat = 0 + 0
    ∧ s.rowsInFlight 0 < 64 ∧ s.cfgOf 0 (lsCmd false []).tileNo = some someCfg ∧ (∀ m, (s.msps.get m).fenced = false)
    ∧ s.walkMiss (quadOf 0) pages = none ∧ (s.cacheLeaves (quadOf 0) pages).xlateAll (quadOf 0) false pages = ([(0x10000, 256)], none)
    ∧ (({ s with quads := one.quads } : State).walkMiss (quadOf 0) pages).isSome = true := by unfold State.moving State.holds; decide +kernel

theorem witness_LoadRowLands :
    let segs := [(0, [(0x10000, 256)])]
    (moving false segs).moving dep0 7 (lsCmd false segs) (lsProg false segs) ∧ (moving false segs).isDefault 0x10000 = false
    ∧ (moving false segs).piecesReady [(0x10000, 256)] = true ∧ ((moving false segs).cell 0).tile? (lsCmd false segs).tileNo = some someTile
    ∧ ({ moving false segs with step := running.step } : State).moving dep0 7 (lsCmd false segs) (lsProg false segs)
    ∧ ({ moving false segs with step := running.step } : State).voidable := by
  unfold State.moving State.holds State.voidable; decide +kernel

/-- The second of two rows is the next. -/
def lastLoad : Cmd := { lsCmd false [] with ls := some { lsProg false [(1, [(0x10000, 256)])] with next := 1 } }
theorem witness_FenceCompletesWhenNothingIsOwed_load :
    let s := fencing (stacked.modPort dep0 fun q => { q with cmds := [lastLoad] }) dep0 (fenceOf [7] [] [])
    let u := fencing (stacked.modPort dep0 fun q => { q with cmds := [lastLoad] }) ⟨0, true⟩ (fenceOf [] [7] [])
    s.moving dep0 7 lastLoad { lsProg false [(1, [(0x10000, 256)])] with next := 1 } ∧ (s.port dep0).find 9 = some (fenceOf [7] [] [])
    ∧ (fenceOf [7] [] []).op = opFENCE ∧ (1 : RowNo).toNat + 1 = 2 ∧ s.piecesReady [(0x10000, 256)] = true
    ∧ u.moving dep0 7 lastLoad { lsProg false [(1, [(0x10000, 256)])] with next := 1 } ∧ (u.port ⟨0, true⟩).find 9 = some (fenceOf [] [7] []) := by
  unfold State.moving State.holds; decide +kernel

theorem witness_StoreRowReachesMemory :
    let ps := [(0x100E0, 32), (0x10100, 224)]
    let segs := [(0, ps)]
    (moving true segs).Inv ∧ (moving true segs).moving dep0 7 (lsCmd true segs) (lsProg true segs)
    ∧ ps.any (fun y => (moving true segs).isDefault y.1) = false ∧ ps[1]? = some (0x10100, 224) ∧ 1 ∉ (lsProg true segs).parts
    ∧ ((moving true segs).cell 0).tile? (lsCmd true segs).tileNo = some someTile
    ∧ ({ moving true segs with step := running.step } : State).moving dep0 7 (lsCmd true segs) (lsProg true segs)
    ∧ ({ moving true segs with step := running.step } : State).voidable := by
  unfold State.moving State.holds State.Inv State.voidable; decide +kernel

/-! ### Operands, results, the reducer -/

theorem witness_OperandReadPresentsRows :
    one.asleep = false ∧ one.ioReady dep0 = true ∧ one.readsAs dep0 0x080 0 5 ∧ one.readsAs dep0 0x081 0 6 := by
  refine ⟨by decide +kernel, by decide +kernel, ⟨someTile, someCfg, ?_⟩, ⟨someTile, someCfg, ?_⟩⟩ <;> decide +kernel
theorem witness_OperandReadPresentsRows_void :
    running.asleep = false ∧ running.ioReady dep0 = true ∧ running.step.running = true ∧ (running.atAclk 9).rdCase dep0 0x080 = .stored 5 := by decide +kernel
/-- A SEP's read of a tile that is not its own, a DEP's of a row beyond VALIDROWS beside a good one, of a tile that a load fills. -/
theorem witness_OperandReadPresentsRows_nothing :
    one.ioReady sep0 = true ∧ one.presents sep0 0x080 0 1 0 ∧ one.asleep = false ∧ one.ioReady dep0 = true ∧ one.presents dep0 0x080 0 0 5
    ∧ one.presents dep0 0x0BF 0 1 0 ∧ (moving false []).ioReady dep0 = true ∧ (moving false []).presents dep0 0x080 0 1 0 := by
  refine ⟨by decide +kernel, .inr ⟨rfl, rfl, .inl (by decide +kernel)⟩, by decide +kernel, by decide +kernel,
    .inl ⟨rfl, someTile, someCfg, by decide +kernel⟩,
    .inr ⟨rfl, rfl, .inr (.inr ⟨someTile, by decide +kernel, .inr (.inr (by decide +kernel))⟩)⟩, by decide +kernel,
    .inr ⟨rfl, rfl, .inr (.inr ⟨someTile, by decide +kernel, .inr (.inl (by decide +kernel))⟩)⟩⟩
theorem witness_OperandReadPresentsRows_fenced : fencedPort.asleep = false ∧ (fencedPort.port dep0).fenced = true := by decide +kernel

theorem witness_ResultWriteWritesRow :
    one.asleep = false ∧ one.ioReady dep0 = true ∧ ownFile false 1 = true ∧ (one.cell 0).tile? 1 = some someTile ∧ someTile.cfg = some someCfg
    ∧ (3 : RowNo).toNat ≤ someCfg.rm1.toNat ∧ one.busyW 0 1 = false ∧ one.busyR 0 1 = false ∧ (0x00 : Byte).getLsbD 7 = false := by decide +kernel

/-- A row beyond ROWS, a tile of the other port, a tile that a running load fills. -/
theorem witness_ResultWriteWritesRow_dropped :
    someCfg.rm1.toNat < (9 : RowNo).toNat ∧ ownFile false 20 = false ∧ (moving false []).busyW 0 1 = true ∧ (moving true []).busyR 0 1 = true
    ∧ (moving false []).ioReady dep0 = true := by decide +kernel

/-- A SEP's update of entry 2 of RV0 in ACLK 9, which a DEP's of the same ACLK comes before. -/
def both : State := one.modCell 0 fun c => { c with sepRv := [⟨9, 2, 0, 0x80, 0x3F800000⟩] }
theorem witness_ReducerUpdatesOneEntry_both :
    (both.cell 0).sepRv.filter (fun u => u.aclk == max both.clk.aclk 9 && u.entry == 2) = [⟨9, 2, 0, 0x80, 0x3F800000⟩] ∧ rctlRv 0x80 * 128 + (2 : RowNo).toNat = 2
    ∧ both.redCheck dep0 someCfg 1 2 0x80 = .none ∧ both.busyW 0 1 = false ∧ both.busyR 0 1 = false
    ∧ both.redCheck dep0 { someCfg with layout := true, fmt := 0x10 } 1 2 0x80 ≠ .none := by decide +kernel
theorem witness_ReducerUpdatesOneEntry :
    one.busyW 0 1 = false ∧ one.busyR 0 1 = false ∧ (0x84 : Byte).getLsbD 7 = true ∧ rctlOp 0x84 ≠ 3 ∧ (0x84 : Byte).getLsbD 2 = true
    ∧ (0x80 : Byte).getLsbD 2 = false ∧ someCfg.fmt = 0 ∧ someCfg.layout = false := by decide +kernel

/-! ### Current and engine errors -/

theorem witness_LevelsFollowGrantsAndRefills :
    one.asleep = false ∧ (one.port dep0).fenced = false ∧ (0 : BitVec 12).toNat ≤ one.cba.lvl (portClient dep0) ∧ (fencedPort.port dep0).fenced = true
    ∧ one.rivals (portClient dep0) 7 = [] := by
  decide +kernel
/-- The allowance and the cap leave room for a raise by 4, and for a part of one by 80. The SEP of the cell asks in the same ACLK. -/
def budgeted : State := { one with cba := { one.cba with left := 16, cap := (one.cba.cap.set 0 64).set 68 64 } }
def rivalled : State := { budgeted with pending := [.currentGrantRequest dep0 8 7] }
theorem witness_LevelsFollowGrantsAndRefills_raise :
    budgeted.asleep = false ∧ (budgeted.port dep0).fenced = false ∧ portClient dep0 = 0 ∧ budgeted.cba.order = [] ∧ budgeted.rivals 0 7 = []
    ∧ ((List.range 209).all fun n => n < 136 || budgeted.cba.wants n ≤ budgeted.cba.lvl n) = true ∧ budgeted.cba.lvl 0 = 0 ∧ budgeted.cba.capOf 0 = 64
    ∧ budgeted.cba.left = 16 ∧ 16 ≤ budgeted.cba.budget.toNat - floorF budgeted.pins.gradeS - budgeted.cba.engineSum := by decide +kernel
theorem witness_LevelsFollowGrantsAndRefills_rival :
    rivalled.asleep = false ∧ (rivalled.port ⟨0, true⟩).fenced = false ∧ rivalled.rivals (portClient ⟨0, true⟩) 7 = [(0, 8)]
    ∧ rivalled.cba.lvl 68 = 0 ∧ rivalled.cba.capOf 68 = 64 := by decide +kernel
/-- The DEP's raise of 8 is kept for it: of an allowance of 16 the SEP gets 8 of the 80 that it asks for. -/
theorem test_rival_goes_first :
    ∀ t, exec (.currentGrantRequest ⟨0, true⟩ 80 7) rivalled = .next t → t.cba.lvl 68 = 8 ∧ t.cba.lvl 0 = 0 ∧ t.cba.left = 8 := by
  intro t h; cases h; decide +kernel
theorem witness_GrantsStayWithinBudget : one.inPool := by unfold State.inPool; decide +kernel
theorem witness_LevelsFollowGrantsAndRefills_refill : one.pins.rstN = true := by decide +kernel
theorem witness_EngineErrorActs : running.asleep = false ∧ running.step.running = true ∧ running.tmb.stop = false := by decide +kernel

/-! ### Routes -/

/-- A descriptor from (bit, value) fields, with equal source and destination counts. -/
def mkDesc (fields : List (Nat × Nat)) (n : List Nat) : Desc :=
  BitVec.ofNat 1024 ((fields ++ (List.range 6).flatMap fun k => [(128 + 48 * k, (n[k]?).getD 1), (144 + 48 * k, (n[k]?).getD 1)]).foldl (fun (a : Nat) (f : Nat × Nat) => a + f.2 * 2 ^ f.1) 0)

/-- COPY of two runs of eight FP32 elements from 0x10000 to 0x20000, 32 bytes apart, PFDEPTH 1. -/
def copyD : Desc := mkDesc [(0, 0x81), (64, 0x111), (416, 32), (448, 32), (768, 0x10000), (832, 0x20000)] [8, 2]
def copyRun : Run := { seq := 1, route := 5, desc := copyD, src := .tick, sv := { base := 0x10000 }, dv := { base := 0x20000 } }

/-- Own memory behind 0x10000 to 0x2FFFF is mapped in quadrant 0, and its first lines are held. -/
def mapped : State :=
  { stacked with
    rt := { stacked.rt with desc := [(5, copyD)], arms := [(5, 100)] }
    lines := [⟨0x100, 0, 0xFF, 0⟩, ⟨0x200, 0, 0xFF, 0⟩]
    quads := one.quads.set 0 { tlb := [⟨0x10000, false, 0x10000, true, true⟩, ⟨0x20000, false, 0x20000, true, true⟩] } }
def withRun (r : Run) : State := mapped.modQuad 0 fun x => { x with runs := [r] }

theorem witness_KicksAreTaken :
    mapped.startsNow dep0 opRKICK 7 0x500 ∧ Cmd.route { beat := beatOf opRKICK 7 0x500 } = 5 ∧ mapped.kickBad (mapped.desc 5) = false
    ∧ mapped.startsNow dep0 opRKICK 7 0x600 ∧ mapped.kickBad (mapped.desc 6) = true
    ∧ mapped.rt.arms.find? (fun x => x.1 == 5 && decide (x.2.toNat ≤ (200 : Tick).toNat)) = some (5, 100) ∧ mapped.clk.gtc.toNat ≤ (200 : Tick).toNat
    ∧ mapped.glob.halt = false ∧ mapped.step.stop = false ∧ mapped.tmb.stop = false ∧ mapped.tmb.hold = false := by
  unfold State.startsNow State.takes; decide +kernel

theorem witness_RwaitAnswersRun :
    mapped.startsNow dep0 opRWAIT 7 0x500 ∧ mapped.runs.find? (fun r => r.route == 5) = none
    ∧ (withRun { copyRun with code := some .align }).startsNow dep0 opRWAIT 7 0x500
    ∧ (withRun { copyRun with code := some .align }).runs.find? (fun r => r.route == 5) = some { copyRun with code := some .align }
    ∧ (withRun copyRun).startsNow dep0 opRWAIT 7 0x500 ∧ (withRun copyRun).runs.find? (fun r => r.route == 5) = some copyRun := by
  unfold State.startsNow State.takes; decide +kernel

/-- A kick of a port that may start, and its RKICK. -/
def kick5 (d : Desc) : Kick := { seq := 1, route := 5, desc := d, src := .port dep0 7, eng := 0, granted := true }
def kicked (d : Desc) : State :=
  { mapped.modPort dep0 fun q => { q with cmds := [{ beat := beatOf opRKICK 7 0x500, started := true, kick := some 1 }] } with
    rt := { mapped.rt with kicks := [kick5 d] } }
/-- The same copy from a tile that nothing configures. -/
def fromTile : Desc := mkDesc [(0, 0x81), (64, 0x112), (416, 32), (448, 32), (768, 4), (832, 0x20000)] [8, 2]

theorem witness_KickStartsRun :
    ((kicked copyD).rt.kicks.all fun x => x.eng != 0 || x.granted || x.genwait.isSome) = true ∧ (kicked copyD).rt.kicks.find? (fun x => x.eng == 0 && (kicked copyD).canStart x) = some (kick5 copyD) ∧ movesUnits (dKind copyD) = true
    ∧ (kicked copyD).glob.detmode = false ∧ ((kicked copyD).kickCmd (kick5 copyD)).isSome = true
    ∧ (kicked copyD).startFail copyD (((kicked copyD).srcView copyD).getD {}) (((kicked copyD).dstView copyD).getD {}) ((kicked copyD).tView copyD) = none
    ∧ (kicked fromTile).rt.kicks.find? (fun x => x.eng == 0 && (kicked fromTile).canStart x) = some (kick5 fromTile)
    ∧ (kicked fromTile).startFail fromTile (((kicked fromTile).srcView fromTile).getD {}) (((kicked fromTile).dstView fromTile).getD {})
        ((kicked fromTile).tView fromTile) = some (.tnotvalid, 4) := by decide +kernel

theorem witness_RunEndAnswersWaiters :
    (withRun { copyRun with next := 2 }).runOf 5 = some (0, { copyRun with next := 2 }) ∧ (withRun copyRun).moved { copyRun with next := 2 } = true
    ∧ movesUnits (dKind copyD) = true ∧ unitCount copyD ≤ 2 := by decide +kernel

theorem witness_FenceCompletesWhenNothingIsOwed_run :
    let s := fencing (withRun { copyRun with next := 2 }) dep0 (fenceOf [] [] [1])
    s.runOf 5 = some (0, { copyRun with next := 2 }) ∧ s.moved { copyRun with next := 2 } = true ∧ (s.port dep0).find 9 = some (fenceOf [] [] [1])
    ∧ copyRun.seq = 1 ∧ ∀ x ∈ (s.port dep0).cmds, x.tag = 9 → x = fenceOf [] [] [1] := by decide +kernel

/-- The state in which a unit of the run is worked, after its walks. -/
def walkOf (r : Run) (u : Nat) : State × Bool := (withRun r).walked 0 ((r.unitNeeds u).map (·.1)) (r.ini 0)
theorem witness_LinesMoveUnits :
    (withRun copyRun).runOf 5 = some (0, copyRun) ∧ copyRun.done = [] ∧ copyRun.dv.rb = 0 ∧ dKind copyD ≠ kGATHER ∧ dKind copyD ≠ kDUAL
    ∧ ∀ u ∈ [0, 1], copyRun.awaits u = true ∧ (walkOf copyRun u).2 = true ∧ (walkOf copyRun u).1.unitFault 0 copyRun u = none
      ∧ (walkOf copyRun u).1.unitDefault 0 copyRun u = false ∧ (walkOf copyRun u).1.piecesReady ((walkOf copyRun u).1.unitPieces 0 copyRun u) = true
      ∧ (walkOf copyRun u).1.unitPieces 0 copyRun u ≠ [] ∧ (walkOf copyRun u).1.unitRows copyRun u = [] := by decide +kernel
theorem witness_LinesMoveUnits_void :
    ({ withRun copyRun with step := running.step } : State).runOf 5 = some (0, copyRun) ∧ ({ withRun copyRun with step := running.step } : State).voidable := by
  unfold State.voidable; decide +kernel
/-- The same copy into rows 0 and 1 of tile 1 of cell 0: of its first unit row 0 is assembled; its second comes first. -/
def intoTile : Desc := mkDesc [(0, 0x81), (64, 0x121), (416, 32), (448, 256), (768, 0x10000), (832, 1)] [8, 2]
def tileRun : Run := { copyRun with desc := intoTile, dv := { tile := 1, rb := 256 } }
theorem witness_LinesMoveUnits_tile :
    let s := withRun tileRun
    let k := ((s.kept 0 (tileRun.leavesOf 0)).walked 0 ((tileRun.unitNeeds 0).map (·.1)) (tileRun.ini 0)).1
    let o := tileRun.keepOut false 0 (encodeRun tileRun.mode 0 s.glob.fmtPolicy (dstOff intoTile (unitIdx intoTile 0)) 0 (k.unitEls 0 tileRun tileRun.mode 0))
    s.dstView intoTile = some tileRun.dv ∧ s.mspsOpen ∧ s.runOf 5 = some (0, tileRun) ∧ tileRun.awaits 0 = true ∧ tileRun.awaits 1 = true ∧ tileRun.dv.fmt = 0
    ∧ k.unitFault 0 tileRun 0 = none ∧ k.unitDefault 0 tileRun 0 = false ∧ k.piecesReady (k.unitPieces 0 tileRun 0) = true
    ∧ tileRun.targets = [(0, 1)] ∧ s.physOf 0 = some 0 ∧ (s.cell 0).tile? 1 = some someTile ∧ someCfg.bytes = 256
    ∧ ((k.putRows tileRun o).filter fun n => n.1 / 256 == 256).map (·.1 % 256) = [0]
    ∧ ((List.range' 1 (unitCount intoTile - 1)).any fun v => (Sys2Proof.Machine.unitRows intoTile 256 v).contains 0) = false := by
  unfold State.mspsOpen; decide +kernel
/-- A source at 0x50000, which nothing maps. -/
def lostRun : Run := { copyRun with sv := { base := 0x50000 } }
/-- The line of the first table, whose entries are all invalid, is held. -/
def lostWalk : State := { withRun lostRun with lines := (withRun lostRun).lines ++ [⟨0, 0, 0xFF, 0⟩] }
theorem witness_LinesMoveUnits_fault :
    lostWalk.runOf 5 = some (0, lostRun) ∧ lostRun.awaits 0 = true ∧ (lostWalk.walked 0 ((lostRun.unitNeeds 0).map (·.1)) (lostRun.ini 0)).2 = true
    ∧ (lostWalk.walked 0 ((lostRun.unitNeeds 0).map (·.1)) (lostRun.ini 0)).1.unitFault 0 lostRun 0 = some (0, .pagefault, 0x50000)
    ∧ (lostWalk.walked 0 ((lostRun.unitNeeds 0).map (·.1)) (lostRun.ini 0)).1.piecesReady
        ((lostWalk.walked 0 ((lostRun.unitNeeds 0).map (·.1)) (lostRun.ini 0)).1.unitPieces 0 lostRun 0) = true
    ∧ lostWalk.waiters 1 = [] := by decide +kernel

theorem witness_PrefetchAndWindowsAdvance_prefetch :
    let s := withRun copyRun
    (s.pfView copyRun).isSome = true ∧ dPfdepth copyD ≠ 0 ∧ (∀ m, (s.msps.get m).fenced = false)
    ∧ ∀ v ∈ s.pfView copyRun, max v.first copyRun.pf < min v.total (max v.first copyRun.pf + max 1 (2048 / v.bits))
      ∧ v.bytes (min v.total (max v.first copyRun.pf + max 1 (2048 / v.bits)) - v.first) ≤ dPfdepth copyD * 4096
      ∧ (s.walked 0 (((List.range' (max v.first copyRun.pf) (min v.total (max v.first copyRun.pf + max 1 (2048 / v.bits)) - max v.first copyRun.pf)).flatMap
          v.source).map (·.1)) (engineIni 0 9)).2 = true := by decide +kernel

/-- SCATTER_ACC of two one-element rows by the two indices at 0x10100 into an extent of 4 rows, 32 bytes apart at 0x20000. -/
def scatterD : Desc := mkDesc [(0, 0x87), (64, 0x11), (416, 32), (448, 32), (768, 0x10000), (832, 0x20000), (896, 0x10080), (960, 4)] [1, 1]
def scatterRun : Run := { seq := 1, route := 5, desc := scatterD, src := .tick, sv := { base := 0x10000 }, dv := { base := 0x20000 } }

/-- The walks of the index lines of window 0 and, after them, of its rows; the line of the first table is held. -/
def indexWalk (r : Run) : State × Bool := ({ withRun r with lines := lostWalk.lines } : State).walked 0 ((idxNeeds r.desc 0).map (·.1)) (r.ini 0)
def windowWalk (r : Run) : State × Bool := (indexWalk r).1.walked 0 (((indexWalk r).1.windowNeeds 0 r 0).map (·.1)) (r.ini 0)

theorem witness_PrefetchAndWindowsAdvance_window :
    (withRun scatterRun).runOf 5 = some (0, scatterRun) ∧ dKind scatterD = kSCATTER ∧ scatterRun.nextWin < winCount scatterD
    ∧ scatterRun.stop = none ∧ (indexWalk scatterRun).2 = true ∧ (indexWalk scatterRun).1.piecesReady ((indexWalk scatterRun).1.idxPieces 0 scatterD 0) = true
    ∧ (windowWalk scatterRun).2 = true
    ∧ (windowWalk scatterRun).1.defaultsOf 0 (idxNeeds scatterD 0 ++ (windowWalk scatterRun).1.windowNeeds 0 scatterRun 0) = []
    ∧ (windowWalk scatterRun).1.positions 0 scatterRun (winPos scatterD 0) = .inl [(0, some 0)] := by decide +kernel
/-- Index 0 names a row of an extent of zero rows only in a run that no kick makes; here the destination page is not mapped. -/
theorem witness_PrefetchAndWindowsAdvance_stop :
    let r : Run := { scatterRun with dv := { base := 0x50000 } }
    ({ withRun r with lines := lostWalk.lines } : State).runOf 5 = some (0, r) ∧ (windowWalk r).2 = true
    ∧ (windowWalk r).1.positions 0 r (winPos scatterD 0) = .inr (.pagefault, 5, none) := by decide +kernel
theorem witness_PrefetchAndWindowsAdvance_fold :
    let x : Window := { w := 0, rows := [(0, some 0)] }
    let r : Run := { scatterRun with nextWin := 1, wins := [x] }
    (withRun r).runOf 5 = some (0, r) ∧ r.win? 0 = some x ∧ x.folded = false ∧ (withRun r).mayFold r x = true ∧ (withRun r).piecesReady ((withRun r).rowPieces 0 r x) = true
    ∧ r.sv.rb = 0 ∧ (withRun r).rowPieces 0 r x ≠ [] := by
  decide +kernel
theorem witness_PrefetchAndWindowsAdvance_apply :
    let x : Window := { w := 0, rows := [(0, some 0)], folded := true, pending := [(0, [7])] }
    let r : Run := { scatterRun with nextWin := 1, wins := [x] }
    (withRun r).runOf 5 = some (0, r) ∧ r.win? 0 = some x ∧ x.pending.find? (fun y => y.1 == 0) = some (0, [7])
    ∧ (r.wins.any fun y => decide (y.w < 0) && (y.pending.any fun z => z.1 == 0)) = false
    ∧ (withRun r).xlate 0 (vaOf r.dv.base (0 * dstStride r.desc 1)) true = .pa 0x20000 ∧ (withRun r).isDefault 0x20000 = false
    ∧ (withRun r).piecesReady [(0x20000, 4)] = true ∧ (withRun r).mem.wf = true ∧ (∀ j, j < 0 → r.sent j = true)
    ∧ ({ withRun r with step := running.step } : State).runOf 5 = some (0, r) := by
  refine ⟨by decide +kernel, by decide +kernel, by decide +kernel, by decide +kernel, by decide +kernel, by decide +kernel, by decide +kernel, by decide +kernel,
    fun j h => absurd h (Nat.not_lt_zero j), by decide +kernel⟩
/-- Such a run stopped at its first window. -/
theorem witness_RunEndAnswersWaiters_stop :
    let r : Run := { scatterRun with stop := some (.pagefault, 5, none) }
    (withRun r).runOf 5 = some (0, r) ∧ r.stop = some (.pagefault, 5, none) ∧ Code.pagefault ≠ .ok ∧ r.indexedDone = true := by decide +kernel

/-! ### Network and memory-side ports -/

/-- Two reads of two initiators for a slice port of quadrant 0; one waits there since NCLK 0. -/
def aPacket (qos : BitVec 4) (init : BitVec 5) : Packet := ⟨0, qos, false, 0, init, 0, .req, .read, 256, [], 0, 0, 17, true, false, false, 10⟩
def pooled : State :=
  { running with pins := { running.pins with nclkMHz := 1000 }, net := { running.net with pools := [(17, [{ aPacket 3 2 with entry := 0 }])] } }
theorem witness_PacketGrantKeepsOrder :
    up.asleep = false ∧ up.net.pools = [] ∧ up.net.held = [] ∧ ([aPacket 3 1, aPacket 5 2].filter (up.reaches 17)) = [aPacket 3 1, aPacket 5 2]
    ∧ bestPacket 10 (2 ^ 9) (candidates [aPacket 3 1, aPacket 5 2] [.req]) = some (aPacket 5 2) ∧ (up.quad 0).period = 9
    ∧ bestPacket 10 (2 ^ 9) (candidates [aPacket 3 1, aPacket 5 2] [.rsp]) = none ∧ pooled.asleep = false := by decide +kernel
theorem witness_PacketGrantKeepsOrder_void :
    waitingAt pooled.net.pools 17 = [{ aPacket 3 2 with entry := 0 }] ∧ pooled.waitsTooLong 20 { aPacket 3 2 with entry := 0 } = false
    ∧ pooled.waitsTooLong 2000000000 { aPacket 3 2 with entry := 0 } = true ∧ pooled.voidable := by unfold State.voidable; decide +kernel

theorem witness_NetworkFaultsAct :
    up.asleep = false ∧ up.isDefault (0xFFFFFFFFFFF00 : PAddr).toNat = true ∧ linkOf (.spine 0 true) ∉ up.net.deadLinks ∧ up.linkFails (linkOf (.spine 0 true)) < 7
    ∧ up.net.open1 = none ∧ running.net.open1 = none ∧ running.voidable ∧ ({ up with net := { up.net with open1 := some 3 } } : State).net.open1 = some 3
    ∧ linkOf (.matrixPort 1 16) = .matrixCell 33 ∧ linkOf (.matrixPort 1 17) = .matrixPort 1 17 := by unfold State.voidable; decide +kernel
theorem witness_NetworkFaultsAct_row :
    let s := moving false []
    s.asleep = false ∧ s.isDefault (0xFFFFFFFFFFF00 : PAddr).toNat = true ∧ s.moving dep0 7 (lsCmd false []) (lsProg false []) ∧ (lsProg false []).next = (0 : RowNo).toNat
    ∧ (lsProg false []).store = ((lsCmd false []).op == opTSTORE) ∧ (lsProg false []).parts = [] ∧ s.cfgOf 0 (lsCmd false []).tileNo = some someCfg := by
  unfold State.moving State.holds; decide +kernel
/-- Two Wiquin links are up while a step runs; instance 1 of a package whose master is instance 0. -/
def linked : State := { running with pkg := { running.pkg with wq := (running.pkg.wq.set 0 { st := .up }).set 1 { st := .up } } }
def member1 : State := { linked with pins := { linked.pins with instanceId := 1 } }
theorem witness_NetworkFaultsAct_wiquin :
    linked.asleep = false ∧ (linked.pkg.wq.get 0).st = .up ∧ (linked.pkg.wq.get 1).st = .up ∧ (∀ i ∈ linked.others, (0x02 : BitVec 8).getLsbD i = true)
    ∧ linked.voidable ∧ member1.isMaster = false ∧ member1.others.contains member1.pkg.master.toNat = true ∧ (0x02 : BitVec 8).getLsbD member1.pkg.master.toNat = false := by
  unfold State.voidable; decide +kernel

/-- Port 0 has a read and a write of line 0x300 outstanding while a step runs; port 1 waits for its identity. -/
def outstanding : State :=
  { running with msps := running.msps.set 0 { ident := [16, 0, 0, 0], idDone := true
                                              txns := [⟨5, false, 0x300, 1, 0, 0, 0⟩, ⟨6, true, 0x300, 1, 0, 0, 0⟩] } }
theorem witness_MspAnswersFillAndFree :
    outstanding.asleep = false ∧ outstanding.Inv ∧ (outstanding.freeWay 0x300).isSome = true ∧ (1 : BitVec 2).toNat < 2
    ∧ (outstanding.msps.get 0).txns.find? (fun t => t.id == 5 && !t.write) = some ⟨5, false, 0x300, 1, 0, 0, 0⟩
    ∧ (outstanding.msps.get 0).txns.find? (fun t => t.id == 6 && t.write) = some ⟨6, true, 0x300, 1, 0, 0, 0⟩
    ∧ (0 : Tick).toNat + outstanding.job.mspTimeout ≤ (100000 : Tick).toNat ∧ outstanding.voidable
    ∧ (outstanding.msps.get 1).idDone = false ∧ (outstanding.msps.get 1).ident.length < 3 ∧ (outstanding.msps.get 1).absent = false := by
  unfold State.voidable State.Inv; decide +kernel

/-! ### Stash and generations -/

/-- A STASHPUT of tile 1 to slot 3, layer 2, and its command as it waits under SPILL. -/
def putArg : BitVec 112 := 0x200030100
def putCmd : Cmd := { beat := beatOf opSTASHPUT 7 putArg, started := true }
theorem witness_PutsTakeTheirPlace :
    let c : Cmd := { beat := beatOf opSTASHPUT 7 putArg }
    one.startsNow dep0 opSTASHPUT 7 putArg ∧ ownFile false c.tileNo = true ∧ (one.cell 0).tile? c.tileNo = some someTile
    ∧ (one.cell 0).logical = some 0 ∧ c.genValid = false ∧ one.stash.entries.length < dirSize
    ∧ one.fits (one.homeQuad 0) (one.putSize (one.cmdPut dep0 c 0)) = true ∧ someTile.inUse = true := by unfold State.startsNow State.takes; decide +kernel
/-- A put for tensor 9, which is registered and not frozen, and for tensor 8, which is frozen. -/
theorem witness_PutsTakeTheirPlace_gen :
    let s : State := { one with gens := [genOf 9 0xFFFF [], { genOf 8 0xFFFF [] with frozen := true }] }
    let arg (g : Nat) : BitVec 112 := BitVec.ofNat 112 (0x200030100 + g * 2 ^ 64 + 2 ^ 76)
    ∀ g ∈ [8, 9], s.startsNow dep0 opSTASHPUT 7 (arg g) ∧ (Cmd.genValid { beat := beatOf opSTASHPUT 7 (arg g) }) = true
      ∧ (s.gen? (Cmd.genIdx { beat := beatOf opSTASHPUT 7 (arg g) })).map (·.frozen) = some (g == 8) := by
  unfold State.startsNow State.takes; decide +kernel

/-- A directory with no room, under the FAULT policy. -/
def someEntry : SEntry :=
  { idx := 0, uid := 4, cell := 0, slot := 3, layer := 2, part := 0, spilled := false, mark := false, gen := none, retired := false, isNew := false,
    cfg := someCfg, vrows := 2, loc := 0, rows := [5, 6], placed := true, put := true, getting := false }
def fullDir : State :=
  { one with stash := { one.stash with entries := List.replicate 65536 someEntry }, glob := { one.glob with stashCfg := 2 } }
def spillDir : State := { fullDir with glob := { one.glob with stashCfg := 0 } }
theorem witness_PutsTakeTheirPlace_full :
    fullDir.startsNow dep0 opSTASHPUT 7 putArg ∧ spillDir.startsNow dep0 opSTASHPUT 7 putArg ∧ dirSize ≤ fullDir.stash.entries.length
    ∧ dirSize ≤ spillDir.stash.entries.length ∧ bf fullDir.glob.stashCfg 0 2 ≠ 0 ∧ bf spillDir.glob.stashCfg 0 2 = 0 := by
  have h : dirSize ≤ (List.replicate 65536 someEntry).length := Nat.le_of_eq (List.length_replicate (n := 65536) (a := someEntry)).symm
  refine ⟨?_, ?_, h, h, by decide +kernel, by decide +kernel⟩ <;> (unfold State.startsNow State.takes; decide +kernel)

def waitingPut : State := one.modPort dep0 fun q => { q with cmds := [{ putCmd with waitSince := some 0 }] }
theorem witness_PutsTakeTheirPlace_freed :
    waitingPut.holds dep0 7 { putCmd with waitSince := some 0 } ∧ (waitingPut.cell 0).logical = some 0 ∧ putCmd.op = opSTASHPUT
    ∧ waitingPut.stash.entries.length < dirSize
    ∧ waitingPut.fits (waitingPut.homeQuad 0) (waitingPut.putSize (waitingPut.cmdPut dep0 { putCmd with waitSince := some 0 } 0)) = true := by unfold State.holds; decide +kernel

def unplaced : State :=
  { one.modPort dep0 fun q => { q with cmds := [{ putCmd with stash := some 4 }] } with
    stash := { one.stash with entries := [{ someEntry with placed := false, put := false }], uid := 5 } }
theorem witness_PutsTakeTheirPlace_spill :
    unplaced.holds dep0 7 { putCmd with stash := some 4 } ∧ (unplaced.cell 0).logical = some 0 ∧ unplaced.entry? 4 = some { someEntry with placed := false, put := false }
    ∧ (unplaced.spillFor (unplaced.homeQuad 0) 512).fits (unplaced.homeQuad 0) 512 = true ∧ ceilDiv (2 * someCfg.bytes) 256 * 256 = 512
    ∧ unplaced.fits (unplaced.homeQuad 0) 512 = true ∧ (∀ z ∈ unplaced.stash.entries, z.put = true → z.rows.length = z.vrows) := by unfold State.holds; decide +kernel

def held (x : SEntry) : State := { one with stash := { one.stash with entries := [x], uid := 5 } }
theorem witness_GetsFindTheirEntry :
    let c : Cmd := { beat := beatOf opSTASHGET 7 putArg }
    one.startsNow dep0 opSTASHGET 7 putArg ∧ one.cfgOf 0 c.tileNo = some someCfg ∧ one.tryGet (one.cmdPut dep0 c 0) someCfg = .miss
    ∧ (held someEntry).tryGet ((held someEntry).cmdPut dep0 c 0) someCfg = .found 4
    ∧ (held { someEntry with mark := true }).tryGet ((held { someEntry with mark := true }).cmdPut dep0 c 0) someCfg = .mark 4
    ∧ (held { someEntry with cfg := { someCfg with fmt := 1 } }).tryGet ((held { someEntry with cfg := { someCfg with fmt := 1 } }).cmdPut dep0 c 0) someCfg = .tfmt
    ∧ (held { someEntry with cfg := { someCfg with rb := 3 } }).tryGet ((held { someEntry with cfg := { someCfg with rb := 3 } }).cmdPut dep0 c 0) someCfg = .tshape := by
  unfold State.startsNow State.takes; decide +kernel

def transfer (get : Bool) (x : SEntry) : State :=
  { one.modPort dep0 fun q => { q with cmds := [{ beat := beatOf (if get then opSTASHGET else opSTASHPUT) 7 putArg, started := true, stash := some 4 }] } with
    stash := { one.stash with entries := [x], uid := 5 } }
theorem witness_StashRowsMove :
    (transfer true someEntry).holds dep0 7 { beat := beatOf opSTASHGET 7 putArg, started := true, stash := some 4 }
    ∧ (transfer true someEntry).entry? 4 = some someEntry ∧ ((transfer true someEntry).cell 0).tile? putCmd.tileNo = some someTile
    ∧ (transfer true someEntry).entryReady someEntry = true ∧ ((transfer true someEntry).entryRows someEntry).length = someEntry.vrows
    ∧ (transfer false { someEntry with put := false }).holds dep0 7 { beat := beatOf opSTASHPUT 7 putArg, started := true, stash := some 4 }
    ∧ (transfer false { someEntry with put := false }).entry? 4 = some { someEntry with put := false } := by unfold State.holds; decide +kernel
/-- An entry spilled to memory of the other instance, whose rows are there to read; a put's row 1 that cannot be corrected. -/
def spilled : SEntry := { someEntry with spilled := true, put := false }
def spilling (s : State) : State :=
  { s with glob := { s.glob with spillBase := 2 ^ 48, spillSize := 16 }, net := { s.net with away := [2 ^ 40, 2 ^ 40 + 1] } }
theorem witness_StashRowsMove_spilled :
    let s := spilling (transfer false spilled)
    s.holds dep0 7 { beat := beatOf opSTASHPUT 7 putArg, started := true, stash := some 4 } ∧ s.entry? 4 = some spilled ∧ s.Inv ∧ s.isDefault (s.spillPa spilled) = false
    ∧ (spilling (transfer true { spilled with put := true })).entryReady { spilled with put := true } = true
    ∧ ((spilling (transfer true { spilled with put := true })).entryRows { spilled with put := true }).length = 2
    ∧ (∃ r ∈ someTile.moveRows, eccAt [⟨1, 1, .uncorr⟩] putCmd.tileNo r = .uncorr) ∧ ({ s with step := running.step } : State).voidable := by
  unfold State.holds State.Inv State.voidable; decide +kernel

/-- A kick in GENWAIT for the next slot of tensor 9. -/
def genD : Desc := mkDesc [(0, 0x81), (64, 0x41), (416, 32), (448, 32), (768, 0x10000), (832, 0x1009)] [8, 2]
def gen9 : Gen := genOf 9 0xFFFF []
def genKick : Kick := { seq := 1, route := 5, desc := genD, src := .tick, eng := 1, genwait := some 0 }
def genState (x : List SEntry) : State :=
  { one with rt := { one.rt with kicks := [genKick] }, gens := [gen9], stash := { one.stash with entries := x }, glob := { one.glob with genCfg := 1 } }
theorem witness_WaitsAreReportedAndReleased_put :
    (waitingPut.port dep0).find 7 = some { putCmd with waitSince := some 0 } ∧ (waitingPut.cell 0).logical = some 0 ∧ waitingPut.stashTimeoutTicks ≠ 0
    ∧ (0 : Tick).toNat + waitingPut.stashTimeoutTicks ≤ (10000000000 : Tick).toNat := by decide +kernel
theorem witness_WaitsAreReportedAndReleased_kick :
    (genState []).rt.kicks.find? (fun k => k.route == 5 && k.genwait.isSome && !k.noted) = some genKick ∧ writesNext genD = some 9
    ∧ (genState []).gen? 9 = some gen9 ∧ gen9.st ≠ .writing ∧ gen9.frozen = false ∧ (genState []).refs 9 gen9.otherCtr = 0
    ∧ (genState [{ someEntry with gen := some (9, 0) }]).refs 9 gen9.otherCtr ≠ 0 ∧ (genState []).tmb.stop = false ∧ (genState []).tmb.hold = false ∧ (genState []).step.decided = none
    ∧ (genState []).step.stop = false := by
  decide +kernel
theorem witness_WaitsAreReportedAndReleased_genTimeout :
    let s : State := { genState [] with glob := { up.glob with genCfg := 0x03E80000 } }
    s.genTimeoutTicks ≠ 0 ∧ (0 : Tick).toNat + s.genTimeoutTicks ≤ (10000000000 : Tick).toNat := by decide +kernel
theorem witness_WaitsAreReportedAndReleased_refill :
    let s : State := { spilling (held { someEntry with spilled := true }) with glob := { (spilling one).glob with stashCfg := 0x400 } }
    bf s.glob.stashCfg 8 8 * 2 ^ 20 < s.sliceFree 0 + s.sliceFree 1 ∧ s.fits 0 someEntry.size = true ∧ s.entryReady { someEntry with spilled := true } = true
    ∧ (s.stash.entries.filter fun x => x.spilled && x.put && !x.getting && s.homeQuad x.cell == 0).getLast? = some { someEntry with spilled := true } := by
  decide +kernel

theorem issueTxn_isSome {s : State} {line qos : Nat} {w : Bool} {m : Fin 6} {l' : Nat} (hi : s.interleave (paLocal (line * 256)) = some (m, l'))
    (hf : (s.msps.get m).fenced = false) (h0 : 0 < (s.msps.get m).freeIds.length) : ∃ u m id, s.issueTxn line w qos = some (u, m, id) := by
  unfold State.issueTxn
  rw [hi]
  dsimp only
  rw [List.getElem?_eq_getElem (Nat.mod_lt _ h0)]
  simp [hf]

/-! ### Messages -/

def msg (type : Byte) (payload : List Byte) : XMsg :=
  { aMsg with type := type, length := BitVec.ofNat 16 payload.length, pcrc := crc32c payload, payload := payload, beats := ceilDiv (32 + payload.length) 512 }
def zeroBytes (n : Nat) : List Byte := List.replicate n 0

/-- One FP32 value of block 0, level 3, phase 1. -/
def partialMsg : XMsg := msg 0x01 ([0, 0, 0, 0, 3, 1, 1, 0] ++ zeroBytes 8 ++ [0, 0, 0x80, 0x3F] ++ zeroBytes 12)
/-- One delta line of tensor 9, generation 4. -/
def deltaMsg : XMsg := msg 0x02 ([1, 0, 9, 0, 4, 0, 0, 0, 2, 0, 0, 0, 1, 0, 0, 0] ++ zeroBytes 272)
def endMsg : XMsg := msg 0x03 (4 :: zeroBytes 31)
def voidMsg : XMsg := msg 0x04 (zeroBytes 32)
/-- One entry of stream 7, granule 1, CRC 5. -/
def digestMsg : XMsg := msg 0x06 ([0, 0, 0, 0, 7, 0, 0, 0, 1, 0, 0, 0, 5, 0, 0, 0, 0, 0, 0, 0] ++ zeroBytes 12)
def tickMsg : XMsg := msg 0x07 (100 :: zeroBytes 31)

theorem witness_XspMessagesAct_heartbeat : up.takesMsg 0 aMsg 0x05 ∧ up.hbPeers.contains aMsg.src = false
    ∧ ({ up with job := { up.job with hbList := [3] } } : State).takesMsg 0 aMsg 0x05
    ∧ ({ up with job := { up.job with hbList := [3] } } : State).hbPeers.contains aMsg.src = true := by unfold State.takesMsg; decide +kernel
theorem witness_XspMessagesAct_partial :
    let s : State := { up with job := { up.job with mergeSize := 1 } }
    s.takesMsg 0 partialMsg 0x01 ∧ partialOf? partialMsg = some ⟨3, 0, 0, 0, 3, 1, false, [0x3F800000]⟩ ∧ s.running = []
    ∧ s.mergeUsed + (⟨3, 0, 0, 0, 3, 1, false, [0x3F800000]⟩ : Partial).size ≤ s.mergeCap
    ∧ up.takesMsg 0 partialMsg 0x01 ∧ up.mergeCap < up.mergeUsed + (⟨3, 0, 0, 0, 3, 1, false, [0x3F800000]⟩ : Partial).size := by
  unfold State.takesMsg; decide +kernel
/-- A holder of share 0 with the image lines given. -/
def holder (l : List PLine) : State := { up with par := { up.par with hcfg := 0x80010000, image := l } }
theorem msg_faultless (s : State) (type : Byte) (l : List Byte) (h0 : type ≠ 0) (h7 : type.toNat ≤ 7) (hl : l.length ≤ 8160) (h32 : l.length % 32 = 0)
    (hd : s.chip = 0) : s.msgFault (msg type l) = none := by
  have hl' : (BitVec.ofNat 16 l.length).toNat = l.length := by rw [BitVec.toNat_ofNat]; omega
  have h1 : ¬ (7 < type.toNat) := by omega
  have h2 : ¬ (8160 < l.length) := by omega
  simp [State.msgFault, msg, aMsg, h1, h2, hl', h32, hd]
  exact decide_eq_false h0
theorem witness_XspMessagesAct_delta_taken (l : List PLine) : (holder l).takesMsg 0 deltaMsg 0x02 := by
  refine ⟨rfl, rfl, msg_faultless _ _ _ (by decide) (by decide) ?_ ?_ (show up.chip = 0 by decide +kernel), rfl, rfl⟩
  all_goals rw [zeroBytes, List.length_append, List.length_replicate]; decide
theorem witness_XspMessagesAct_delta :
    fld deltaMsg.payload 0 1 = 1 ∧ (holder []).par.holder = true ∧ fld deltaMsg.payload 1 1 = (holder []).par.share
    ∧ fld deltaMsg.payload 12 2 = 1 ∧ (holder []).pairVoided 0 0 = false ∧ (holder []).par.line? false 2 = none
    ∧ (holder [⟨false, 2, 5, 4, 0⟩]).par.line? false 2 = some ⟨false, 2, 5, 4, 0⟩
    ∧ (holder [⟨false, 2, 5, 2, 0⟩]).par.line? false 2 = some ⟨false, 2, 5, 2, 0⟩ := by decide +kernel
/-- The acknowledgement of tensor 9, counter 4, for a parity run that waits; the same of another void count. -/
def ackMsg (voids : Byte) : XMsg := msg 0x02 ([2, 0, 9, 0, 4, 0, voids, 0] ++ zeroBytes 24)
def parityD : Desc := mkDesc [(0, 0x8B), (64, 0x41), (768, 9)] [1]
def parityRun : Run := { copyRun with desc := parityD }
def acking : State := { withRun parityRun with gens := [{ genOf 9 0xFFFF [] with genB := 4 }] }
theorem witness_XspMessagesAct_ack :
    (∀ v ∈ [0, 1], acking.takesMsg 0 (ackMsg v) 0x02 ∧ fld (ackMsg v).payload 0 1 = 2) ∧ fld (ackMsg 1).payload 6 2 ≠ acking.tmb.voids.toNat
    ∧ fld (ackMsg 0).payload 6 2 = acking.tmb.voids.toNat ∧ acking.par.mirrorWait = false ∧ acking.gen? (BitVec.ofNat 12 (fld (ackMsg 0).payload 2 2)) = acking.gens.head?
    ∧ acking.gens.map Gen.otherCtr = [BitVec.ofNat 16 (fld (ackMsg 0).payload 4 2)] ∧ (acking.quad 0).runs = [parityRun] ∧ dKind parityD = kPARITY
    ∧ epGenIdx (srcWord parityD) = BitVec.ofNat 12 (fld (ackMsg 0).payload 2 2) := by unfold State.takesMsg; decide +kernel
/-- A rebuild with chip 1 lost, at an instance that does not combine, and one of a member whose holder is the sender. -/
def aRebuild (role : Byte) : Rebuild := ⟨role, [1], 0, false, [], [], 0, false, []⟩
theorem witness_XspMessagesAct_rebuild :
    let s : State := { up with par := { up.par with rebuild := some (aRebuild 3), rebuilding := true } }
    let m : State := { up with par := { up.par with mcfg := 0x80010000, holders := 3, memReb := some (aRebuild 0), rebuilding := true } }
    s.takesMsg 0 endMsg 0x03 ∧ fld endMsg.payload 0 1 = 4 ∧ (aRebuild 3).combines s.par = false ∧ s.fromHolder endMsg = false
    ∧ m.takesMsg 0 endMsg 0x03 ∧ m.fromHolder endMsg = true ∧ ¬ ((aRebuild 0).role = 0 ∧ m.par.two = true ∧ (aRebuild 0).solved = 0) := by
  unfold State.takesMsg; decide +kernel
theorem witness_XspMessagesAct_void :
    running.takesMsg 0 voidMsg 0x04 ∧ voidMsg.step = running.step.count ∧ fld voidMsg.payload 0 8 = 0 ∧ running.tmb.voids.toNat ≤ fld voidMsg.payload 16 2
    ∧ running.tmb.hold = false ∧ running.pins.fatal = false ∧ running.voidable := by unfold State.takesMsg State.voidable; decide +kernel
/-- An announcement of the replay tick 5 at an instance that leads nothing. -/
def announceMsg : XMsg := msg 0x04 (5 :: zeroBytes 31)
theorem witness_XspMessagesAct_announced :
    let s : State := { running with pkg := { running.pkg with master := 1 } }
    s.takesMsg 0 announceMsg 0x04 ∧ announceMsg.step = s.step.count ∧ s.tmb.voids.toNat ≤ fld announceMsg.payload 16 2 ∧ s.voidable ∧ s.isLeader = false
    ∧ s.tmb.holdReq = false ∧ s.tmb.voids.toNat + 1 < s.maxVoids ∧ s.clk.gtc.toNat < fld announceMsg.payload 0 8 ∧ fld announceMsg.payload 0 8 ≠ 2 ^ 64 - 1 := by
  unfold State.takesMsg State.voidable; decide +kernel
def ownEnt : DEntry := ⟨0, 7, 0, 1, 6, 0⟩
def comparing : State := { up with dig := { up.dig with en := true, own := [ownEnt] } }
theorem witness_XspMessagesAct_digest :
    comparing.takesMsg 0 digestMsg 0x06 ∧ comparing.dig.en = true ∧ digestEntries digestMsg comparing.clk.gtc = [{ ownEnt with crc := 5 }]
    ∧ comparing.dig.own.find? (DEntry.same { ownEnt with crc := 5 }) = some ownEnt := by unfold State.takesMsg; decide +kernel
def following : State := { up with clk := { up.clk with en := true, samples := [90] } }
theorem witness_XspMessagesAct_tick :
    following.takesMsg 0 tickMsg 0x07 ∧ following.isMaster = true ∧ following.clk.follows = true ∧ nearestSample 100 following.clk.samples = some 90
    ∧ ({ up with pkg := { up.pkg with master := 1 } } : State).isMaster = false
    ∧ ({ up with pkg := { up.pkg with master := 1 } } : State).takesMsg 0 tickMsg 0x07 := by unfold State.takesMsg; decide +kernel
theorem witness_XspMessagesAct_bad :
    up.msgFault { aMsg with type := 0 } = some 11 ∧ up.msgFault { aMsg with dst := 9 } = some 12 ∧ up.msgFault { aMsg with framed := false } = some 13
    ∧ (up.net.xsps.get 0).fenced = false ∧ (up.recentViols 2 (up.net.xsps.get 0).viols).length + 1 < fenceLimit up 2 := by decide +kernel
/-- Port 0 stands below its threshold by one violation, with the other port fenced or not. -/
def brink (other : Bool) : State :=
  { running with net := { running.net with xsps := (running.net.xsps.set 0 { viols := List.replicate 63 0 }).set 1 { fenced := other } } }
theorem witness_XspMessagesAct_fence :
    ∀ o : Bool, (brink o).msgFault { aMsg with type := 0 } = some 11 ∧ (brink o).asleep = false ∧ ((brink o).net.xsps.get 0).fenced = false
    ∧ fenceLimit (brink o) 2 ≤ ((brink o).recentViols 2 ((brink o).net.xsps.get 0).viols).length + 1 ∧ ((brink o).net.xsps.get 1).fenced = o ∧ (brink o).voidable := by
  unfold State.voidable; decide +kernel

theorem witness_PeersAreWatched :
    let p : Peer := ⟨3, true, 0, false, false⟩
    let s : State := { comparing with job := { up.job with hbOn := true, hbList := [3] }, net := { up.net with peers := [p] } }
    let f : State := { s with net := { s.net with xsps := Vector.replicate 2 { fenced := true } } }
    s.hbPeers.contains 3 = true ∧ s.hbPeers.contains 4 = false ∧ s.net.xsps.all (·.fenced) = false ∧ f.net.xsps.all (·.fenced) = true ∧ f.job.hbOn = true ∧
    s.asleep = false ∧ s.clk.gtc.toNat ≤ (0x4000000 : Tick).toNat ∧ s.job.hbNext.toNat ≤ (0x4000000 : Tick).toNat
    ∧ s.net.peers.find? (fun y => y.chip == 3) = some p ∧ p.last.toNat + s.job.hbTimeout ≤ (0x4000000 : Tick).toNat
    ∧ (0x4000000 : Tick).toNat / s.dig.periodTicks ≠ s.dig.exch.toNat / s.dig.periodTicks ∧ (5 : Tick).toNat / s.dig.periodTicks = s.dig.exch.toNat / s.dig.periodTicks
    ∧ s.dig.toSend = [] ∧ s.dig.en = true ∧ (s.net.xsps.get 0).up ≠ true ∧ s.glob.geo.get 0 ≠ 0 := by decide +kernel

/-! ### Steps -/

def armedUp : State := { up with clk := { up.clk with launch := 100, armed := true } }
theorem witness_StepsOpenAndClose_launch :
    armedUp.clk.gtc.toNat ≤ (100 : Tick).toNat ∧ armedUp.clk.launch.toNat ≤ (100 : Tick).toNat ∧ armedUp.asleep = false ∧ armedUp.pins.fatal = false
    ∧ armedUp.step.running = false ∧ armedUp.tmb.hold = false ∧ armedUp.step.paused = false ∧ armedUp.step.pausePend = false := by decide +kernel
/-- A launch that stands paused, and launches that are spent: during a step, in a hold, without a resume. -/
theorem witness_StepsOpenAndClose_spent :
    let p : State := { armedUp with step := { armedUp.step with pausePend := true } }
    let r : State := { running with clk := armedUp.clk }
    let h : State := { armedUp with tmb := { armedUp.tmb with hold := true } }
    let u : State := { armedUp with step := { armedUp.step with paused := true } }
    p.step.pausePend = true ∧ p.step.running = false ∧ p.tmb.hold = false ∧ p.step.paused = false ∧ r.clk.armed = true ∧ r.asleep = false ∧ r.step.running = true
    ∧ h.tmb.hold = true ∧ u.step.paused = true ∧ u.step.resumed = false := by decide +kernel
theorem witness_StepsOpenAndClose_due : running.voidable ∧ running.step.stop = false ∧ running.step.due.toNat ≤ (5 : Tick).toNat := by
  unfold State.voidable; decide +kernel
def stopping : State := { running with step := { running.step with stop := true } }
theorem witness_StepsOpenAndClose_decide :
    stopping.voidable ∧ stopping.step.stop = true ∧ stopping.step.decided = none ∧ stopping.par.mirrorWait = false ∧ stopping.ckpt.draining = false
    ∧ stopping.markCarried.mayDecide = true := by unfold State.voidable; decide +kernel
theorem witness_StepsOpenAndClose_take :
    let s : State := { stopping with step := { stopping.step with decided := some 5 } }
    let p : State := { s with step := { s.step with pausePend := true } }
    s.voidable ∧ s.step.decided = some 5 ∧ (5 : Tick).toNat + 2048 ≤ (4000 : Tick).toNat ∧ s.step.records = [recOf []] ∧ s.step.pausePend = false
    ∧ s.dig.en = false ∧ p.voidable ∧ p.step.pausePend = true := by unfold State.voidable; decide +kernel

def voided : State := { running with tmb := { running.tmb with stop := true, armed := true, replay := 50 } }
theorem witness_VoidsReplayOrHold_replay :
    voided.tmb.stop = true ∧ voided.tmb.armed = true ∧ voided.tmb.cleanup = false ∧ voided.tmb.hold = false ∧ voided.pins.fatal = false
    ∧ voided.tmb.replay.toNat ≤ (50 : Tick).toNat ∧ voided.fillsLate = false ∧ voided.step.records = [recOf []] := by decide +kernel
theorem witness_VoidsReplayOrHold_agree :
    let s : State := { running with tmb := { running.tmb with stop := true, cleanup := true } }
    s.tmb.armed = false ∧ s.tmb.hold = false ∧ s.tmb.since.toNat + 2 * s.leadTicks ≤ (100000000 : Tick).toNat ∧ (∀ p, (s.cell p).erred = []) := by decide +kernel
theorem witness_VoidsReplayOrHold_cleanup :
    let s : State := { running with tmb := { running.tmb with stop := true, cleanup := true, holdReq := true } }
    s.tmb.cleanup = true ∧ s.tmb.holdReq = true ∧ (∀ p, (s.cell p).erred = []) := by decide +kernel
theorem witness_VoidsReplayOrHold_drain :
    let s : State := { up with gens := [{ gen9 with ckpt := true, offN := 1 }], ckpt := { up.ckpt with draining := true, left := 2 } }
    s.gen? 9 = some { gen9 with ckpt := true, offN := 1 } ∧ gen9.drained = false ∧ 1 < s.ckpt.left := by decide +kernel
/-- A drain of one line at VA 0 to the checkpoint base 0, both mapped to memory of the other instance, the latter for reading alone or not. -/
def draining (write : Bool) : State :=
  { running with net := { running.net with away := [2 ^ 40] }
                 gens := [{ gen9 with ckpt := true, offN := 1 }], ckpt := { up.ckpt with draining := true, left := 2 }
                 quads := one.quads.set 0 { tlb := [⟨0, false, 2 ^ 48, true, true⟩, ⟨0x40000, false, 2 ^ 48 + 0x10000, true, write⟩] } }
def drainWalk (write : Bool) : State × Bool := (draining write).walked 0 (pageVas 0 256 ++ pageVas 0x41000 256) (engineIni 0 4)
theorem witness_VoidsReplayOrHold_drained :
    ∀ b : Bool, (drainWalk b).2 = true ∧ (drainWalk b).1.writeFails 0 0x41000 256 = !b ∧ (draining b).voidable
    ∧ ((vasOf 0 256).filterMap fun a => match (drainWalk b).1.xlate 0 a false with | .pa p => some (p, 1) | _ => none).length = 256
    ∧ (drainWalk b).1.piecesReady ((vasOf 0 256).filterMap fun a => match (drainWalk b).1.xlate 0 a false with | .pa p => some (p, 1) | _ => none) = true := by
  unfold State.voidable; decide +kernel

/-- The last drain: of a base whose pages one large entry maps, and of one whose further pages nothing maps yet. -/
def lastDrain (big : Bool) : State :=
  { draining true with msps := stacked.msps
                       ckpt := { (draining true).ckpt with left := 1 }
                       quads := if big then one.quads.set 0 { tlb := [⟨0, true, 2 ^ 48, true, true⟩] } else (draining true).quads }
def lastWalk (big : Bool) : State × Bool := (lastDrain big).walked 0 (pageVas 0 256 ++ pageVas 0x41000 256) (engineIni 0 4)
def drainPieces (s : State) : List (Nat × Nat) := (vasOf 0 256).filterMap fun a => match s.xlate 0 a false with | .pa p => some (p, 1) | _ => none
theorem witness_VoidsReplayOrHold_lastDrain :
    ∀ b : Bool, (lastDrain b).ckpt.draining = true ∧ (lastDrain b).ckpt.left = 1 ∧ (lastWalk b).2 = true
    ∧ (lastWalk b).1.piecesReady (drainPieces (lastWalk b).1) = true
    ∧ ((((lastWalk b).1.took (drainPieces (lastWalk b).1)).drainCopy { gen9 with ckpt := true, offN := 1 } 0 0x41000 256).walked 0 (pageVas 0 ckptLength) (engineIni 0 4)).2 = b
    ∧ (∀ m, ((lastDrain b).msps.get m).fenced = false) := by decide +kernel

/-! ### Cells, the log -/

def filling (stage : BitVec 3) : State :=
  { up.setCell 16 { pwr := .wiping, filling := true } with fills := { cur := some ⟨0, 0, 16, stage⟩, queue := [] } }
theorem witness_CellStagesAndScrub_fill :
    (filling 2).asleep = false ∧ (filling 2).fills.cur = some ⟨0, 0, 16, 2⟩ ∧ ((filling 2).cell 16).down = false ∧ ((filling 2).cell 16).pwr = .wiping
    ∧ (filling 5).fills.cur = some ⟨0, 0, 16, 5⟩ ∧ ((filling 5).cell 16).down = false ∧ (filling 5).glob.detmode = false := by decide +kernel
/-- The fill in its BIST; in its last stage under DETMODE with a Jack without CANON. -/
theorem witness_CellStagesAndScrub_fill_bist :
    let s : State := (filling 3).modCell 16 fun c => { c with pwr := .bist }
    let d : State := { filling 5 with glob := { (filling 5).glob with detmode := true } }
    s.fills.cur = some ⟨0, 0, 16, 3⟩ ∧ (s.cell 16).down = false ∧ (s.cell 16).pwr = .bist ∧ d.glob.detmode = true ∧ (d.cell 16).canon = false := by decide +kernel
theorem witness_CellStagesAndScrub_power :
    let s : State := up.setCell 16 { pwr := .draining, down := true }
    let t : State := up.setCell 16 { pwr := .bist }
    (s.cell 16).filling = false ∧ s.pins.ready = true ∧ (s.cell 16).pwr = .draining ∧ s.drained 16 = true
    ∧ (t.cell 16).pwr = .bist ∧ (t.cell 16).repairing = false ∧ (t.cell 16).filling = false ∧ (t.cell 16).again = false := by decide +kernel
/-- A cell under repair in its first and in its second BIST, its ports with the identity words of start-up; one that is wiped on its way up. -/
theorem witness_CellStagesAndScrub_repair :
    let s : State := up.setCell 16 { pwr := .bist, repairing := true }
    let t : State := up.setCell 16 { pwr := .bist, repairing := true, again := true, dep := { idStart := 0x1000000000000000 }, sep := { idStart := 0x2000000000000000 } }
    let w : State := up.setCell 16 { pwr := .wiping }
    let f : BitVec 64 := 0x1000000000000000
    let g : BitVec 64 := 0x2000000000000000
    (s.cell 16).again = false ∧ (s.cell 16).repairing = true ∧ (t.cell 16).again = true ∧ (t.cell 16).filling = false ∧ t.pins.ready = true
    ∧ t.idsGood 16 [⟨⟨16, false⟩, f, f, f, f⟩, ⟨⟨16, true⟩, g, g, g, g⟩] = true ∧ (w.cell 16).pwr = .wiping ∧ (w.cell 16).down = false ∧ (w.cell 16).filling = false := by decide +kernel
theorem witness_CellStagesAndScrub_scrub :
    let s : State := { running with gens := [gen9] }
    s.pins.life = .service ∧ (s.gen? 9).isSome = true ∧ s.voidable ∧ s.gen? 8 = none ∧ patrolled (.claims 0) = false ∧ s.pins.fwStop = false := by unfold State.voidable; decide +kernel

def aReport : Report := ⟨0, 0, 0, clsClock, .info, 1, 1, 0, 0⟩
def reporting (coal : Bool) (flush : Option Flush) : State :=
  { up with log := { up.log with intakes := up.log.intakes.set 4 { ordinary := [aReport] }, coal := coal, flush := flush } }
def aFlush (line : Nat) : Flush := ⟨0, 0, 0, 0, 0, line⟩
theorem witness_LogRecordsAndFlushes_record :
    (∀ s ∈ [reporting false none, reporting true none, reporting true (some (aFlush 3)), reporting true (some (aFlush 130))], s.recorderOn = true
      ∧ s.log.intakes.any Intake.crowded = false ∧ s.log.draining = false ∧ s.log.next.map (·.1) = some aReport ∧ s.log.unread < 960 ∧ s.log.table = [])
    ∧ aReport.sev.fatal = false ∧ (aFlush 3).line ≤ flushTableLine ∧ flushTableLine < (aFlush 130).line := by decide +kernel
/-- A line of the image is due: no report waits, and a transaction is free at its stack. -/
def flushing : State := { stacked with log := { up.log with coal := true, flush := some (aFlush 3), flushBase := 0x10000 } }
theorem witness_LogRecordsAndFlushes_line :
    flushing.recorderOn = true ∧ flushing.log.flush = some (aFlush 3) ∧ (aFlush 3).line < flushLines ∧ flushing.log.next = none ∧ flushing.log.draining = false
    ∧ flushing.log.intakes.any Intake.crowded = false ∧ flushing.log.flushBase.toNat / 256 + (aFlush 3).line = 0x103 ∧ flushing.Inv := by
  unfold State.Inv; decide +kernel
theorem witness_LogRecordsAndFlushes_line_issues : ∃ u m id, flushing.issueTxn 0x103 true 15 = some (u, m, id) :=
  issueTxn_isSome (m := 0) (l' := 0x10300) (by decide +kernel) (by decide +kernel) (by
    apply List.length_pos_of_mem (a := 0)
    simp [Msp.freeIds, show (flushing.msps.get 0).txns = [] by decide +kernel])
theorem witness_LogRecordsAndFlushes_drain :
    let s : State := { up with log := { up.log with coal := true, table := [aReport] } }
    let e : State := { up with log := { up.log with coal := true } }
    let c : State := { s with log := { s.log with draining := true, intakes := s.log.intakes.set 4 { ordinary := List.replicate 32 aReport } } }
    s.recorderOn = true ∧ s.log.coal = true ∧ s.log.flush = none ∧ s.log.intakes.any Intake.crowded = false ∧ s.log.mayLeave = true
    ∧ s.log.table.foldr insertReport [] = [aReport] ∧ e.log.table = [] ∧ e.log.mayLeave = true ∧ c.log.intakes.any Intake.crowded = true := by decide +kernel
theorem witness_LogRecordsAndFlushes_flush :
    let s : State := { stacked with log := { up.log with flushEn := true, flushBase := 0x10000 } }
    s.pins.preRstN = true ∧ s.asleep = false ∧ s.log.flushEn = true ∧ s.log.flushBase ≠ 0 ∧ s.Inv ∧ s.recorderOn = true ∧ up.log.flushEn = false := by
  unfold State.Inv; decide +kernel

/-! ### Reset, package, clock -/

def aRelease : Release := { aclkMHz := 900, nclkMHz := 1800, phaseOk := true, id := 3, master := true, gradeS := false, ids := [] }
theorem witness_ResetAndStartUp :
    State.reset.pins.rstN = false ∧ clockFault aRelease = false ∧ clockFault { aRelease with phaseOk := false } = true ∧ up.pins.rstN = true
    ∧ up.Inv ∧ (7 : Nat) ∉ up.staleAddrs true := by unfold State.Inv; decide +kernel
theorem witness_ResetAndStartUp_wipe :
    let s : State := { up with pins := { up.pins with wiping := true, ready := false }
                               cells := Vector.replicate 68 { dep := { idOk := true }, sep := { idOk := true } } }
    s.pins.rstN = true ∧ s.pins.wiping = true ∧ s.cba.ownServed = true ∧ s.pins.trans = false
    ∧ (∀ p b, (s.port ⟨p, b⟩).idOk = true) ∧ (s.cell 5).retired = false := by decide +kernel
/-- MB0 carries a chunk of four bytes at offset 0, LAST as given. -/
def chunked (last : Nat) : State :=
  { up with pins := { up.pins with boot := 1, ready := false }, mbs := up.mbs.set 0 { req := BitVec.ofNat 2048 (4 * 2 ^ 32 + last * 2 ^ 48 + 7 * 2 ^ 256) } }
theorem witness_ResetAndStartUp_chunk :
    (chunked 0).asleep = false ∧ (chunked 0).pins.boot = 1 ∧ ((chunked 0).mbs.get 0).st ≠ .busy ∧ bf ((chunked 0).mbs.get 0).req 0 32 = (chunked 0).pins.image.length
    ∧ bf ((chunked 0).mbs.get 0).req 32 16 = 4 ∧ bf ((chunked 0).mbs.get 0).req 48 1 ≠ 1 ∧ bf ((chunked 1).mbs.get 0).req 48 1 = 1
    ∧ bf ((chunked 1).mbs.get 0).req 32 16 = 4 ∧ ((chunked 1).mbs.get 0).st ≠ .busy := by decide +kernel
theorem witness_ResetAndStartUp_verify :
    let s : State := { up with pins := { up.pins with boot := 2, ready := false } }
    s.asleep = false ∧ s.pins.boot = 2 ∧ imageError s.pins.image ≠ 0 := by decide +kernel
/-- An image of 256 bytes with its length in its header has no error but for its signature. -/
theorem witness_ResetAndStartUp_verified (h : Config.sigValid ([1, 0, 0, 0, 0, 1, 0, 0] ++ List.replicate 248 0) = true) :
    imageError ([1, 0, 0, 0, 0, 1, 0, 0] ++ List.replicate 248 0) = 0 := by
  simp only [imageError, h]; decide +kernel
theorem witness_ResetAndStartUp_tap : tapAllowed .service .memBist = false ∧ tapAllowed .service .idcode = true := by decide

def trainingUp : State := up.modWq 1 fun x => { x with st := .training }
theorem witness_PackageForms_training :
    trainingUp.asleep = false ∧ trainingUp.pins.fatal = false ∧ trainingUp.pins.life ≠ .blank ∧ (trainingUp.pkg.wq.get 1).st = .training := by decide +kernel
theorem witness_PackageForms_settlement :
    let s : State := { up with pkg := State.reset.pkg, msps := Vector.replicate 6 { idDone := true, absent := true } }
    s.asleep = false ∧ s.pins.fatal = false ∧ s.pkg.settled = false ∧ (∀ m, (s.msps.get m).idDone = true)
    ∧ (∀ w, (s.pkg.wq.get w).st ≠ .training ∧ (s.pkg.wq.get w).st ≠ .up) := by decide +kernel
/-- One instance in reach, whose word is at hand, before the settlement, and after it at instance 1, late or not. -/
theorem witness_PackageForms_joined :
    let s : State := { up with pkg := { State.reset.pkg with wq := State.reset.pkg.wq.set 1 { st := .up } }, msps := Vector.replicate 6 { idDone := true, absent := true } }
    let m : State := { up with pins := { up.pins with instanceId := 1 }, msps := s.msps }
    s.pkg.settled = false ∧ s.anyWqUp = true ∧ (0x03 : BitVec 8).getLsbD s.pins.instanceId.toNat = true ∧ wordId (0x100000000000 : BitVec 64) ≠ s.pins.instanceId
    ∧ (0x07 : BitVec 8).getLsbD (wordId (0x100000000000 : BitVec 64)).toNat = true ∧ (∀ w, (s.pkg.wq.get w).st ≠ .training)
    ∧ m.pkg.settled = true ∧ m.isMaster = false ∧ (0x03 : BitVec 8).getLsbD m.pkg.master.toNat = true ∧ m.asleep = false ∧ (∀ i, (m.msps.get i).idDone = true)
    ∧ (∀ w, (m.pkg.wq.get w).st ≠ .training) ∧ (0x03 : BitVec 8).getLsbD m.pins.instanceId.toNat = true
    ∧ ({ m.pkg with present := 1 } : Pkg).present.getLsbD m.pins.instanceId.toNat = false := by decide +kernel
theorem witness_PackageForms_peers :
    wordId (0x100000000000 : BitVec 64) ≠ up.pins.instanceId ∧ up.isMaster = true ∧ up.pkg.present.getLsbD 2 = false ∧ (2 : BitVec 3) ∉ up.pkg.late
    ∧ up.mayAdmit 2 = false ∧ ({ up with glob := { up.glob with halt := true } } : State).mayAdmit 2 = true
    ∧ running.pkg.present.getLsbD 1 = true ∧ running.voidable := by unfold State.voidable; decide +kernel

theorem witness_ClockFollowsPulses :
    following.asleep = false ∧ following.isMaster = true ∧ following.clk.gtc.toNat ≤ (0x400000 : Tick).toNat ∧ following.clk.follows = true
    ∧ following.clk.lastPulse.toNat + 4 * 2 ^ 20 ≤ (0x400000 : Tick).toNat
    ∧ ({ up with pkg := { up.pkg with master := 1 } } : State).pkg.settled = true ∧ ({ up with pkg := { up.pkg with master := 1 } } : State).isMaster = false
    ∧ ({ up with clk := { up.clk with en := true, source := true } } : State).clk.source = true ∧ following.net.xsps.all (·.fenced) = false
    ∧ (5 : Tick) ≠ following.clk.launch := by decide +kernel

/-! ### Mailboxes and the control bus -/

theorem witness_MailboxProtocol :
    let b : State := { up with mbs := up.mbs.set 2 { st := .busy, cur := some { req := 0, started := true, resp := some (answer resOk) } } }
    let d : State := { up with mbs := up.mbs.set 2 { st := .done } }
    up.busOn ∧ b.busOn ∧ d.busOn ∧ (up.mbs.get 2).st ≠ .busy ∧ (b.mbs.get 2).st = .busy ∧ (d.mbs.get 2).st = .done ∧ b.firmwareRuns = true
    ∧ (b.mbs.get 2).cur = some { req := 0, started := true, resp := some (answer resOk) } ∧ b.waitOver .none = true := by
  unfold State.busOn; decide +kernel
/-- Instance 1 can be lost to the package's commands, of which PAUSE is one and INFO is none. -/
theorem witness_MailboxProtocol_lost :
    up.others.contains (1 : BitVec 3).toNat = true ∧ (cmdRow (reqOp 0x0109)).map (·.pkg) = some true ∧ (cmdRow (reqOp 0x0001)).map (·.pkg) = some false
    ∧ (answer resOk).result = resOk := by decide +kernel

theorem witness_HostWritesAct :
    mapped.busOn ∧ (∀ x ∈ mapped.runs, x.route ≠ 5) ∧ (withRun copyRun).busOn ∧ (∃ x ∈ (withRun copyRun).runs, x.route = 5) ∧ mapped.isMaster = true
    ∧ (mapped.cell 0).pwr.answers = true ∧ mapped.physOf 0 = some 0 ∧ (0x80000000 : Word).getLsbD 31 = true ∧ (0x1 : BitVec 4) ≠ 0xF := by
  unfold State.busOn; decide +kernel

theorem witness_HostReadsAnswer :
    let s : State := { one with glob := { one.glob with latches := [(0x8000, 7)] } }
    s.busOn ∧ isPairLo 0x8000 = true ∧ (s.regRead 0x8000).isSome = true ∧ isPairLo 0x8004 = false ∧ (s.regRead 0x8004).isSome = true
    ∧ s.glob.latches.find? (fun x => x.1 = 0x8004 - 4) = some (0x8004 - 4, 7) ∧ s.buntAt 0x400018 = some ([0], 0x18)
    ∧ (cellReg s 0 0x18).isSome = true ∧ s.regRead 0x30000 = none := by unfold State.busOn; decide +kernel

theorem witness_ResponseHasItsFields :
    let r : MReq := { req := 0x070001, started := true, resp := some (answerBytes [1, 2]) }
    let b : State := { up with mbs := up.mbs.set 2 { st := .busy, cur := some r } }
    b.firmwareRuns = true ∧ (b.mbs.get 2).cur = some r ∧ r.resp = some (answerBytes [1, 2]) ∧ b.waitOver r.wait = true := by decide +kernel
theorem witness_TileConfigurationReads :
    one.busOn ∧ (one.cell 0).pwr.answers = true ∧ tcfgLo ((one.cell 0).tiles.get 1) = 0x80000707 ∧ tcfgHi one 0 1 = 0x20000 := by unfold State.busOn; decide +kernel

/-! ### Trisia commands -/

/-- A request: opcode, payload length, fields of the payload as (byte, value). -/
def reqWith (op len : Nat) (fs : List (Nat × Nat)) : Req :=
  BitVec.ofNat 2048 (op + 2 ^ 16 + len * 2 ^ 64 + (fs.map fun f => f.2 * 2 ^ (8 * (16 + f.1))).sum)
/-- Mailbox 0 has every class and has taken the request. -/
def ask (s : State) (q : Req) : State := { s with mbs := s.mbs.set 0 { s.mbs.get 0 with classes := 0x1F, cur := some { req := q } } }
/-- The command may begin there. -/
def Begins (s : State) (op : Nat) (q : Req) : Bool :=
  decide ((s.mbs.get 0).cur = some { req := q }) && s.firmwareRuns && s.pins.preRstN && reqOp q == op && s.itsTurn 0 op && (s.refusal 0 q).isNone
theorem begins_of (s : State) (op : Nat) (q : Req) (h : Begins s op q = true) : s.begins 0 op q := by
  simp only [Begins, Bool.and_eq_true, decide_eq_true_eq, beq_iff_eq, Option.isNone_iff_eq_none] at h
  exact ⟨⟨h.1.1.1.1.1, h.1.1.1.1.2, h.1.1.1.2, h.1.1.2, h.1.2⟩, h.2⟩

/-- CBA_BUDGET 0x300, above the one in force, and 0x2D0, below it. -/
def budgetReq (b : Nat) : Req := reqWith 0x0304 16 [(0, b), (4, 0x10), (8, 0xFF)]
theorem witness_GrantsStayWithinBudget_configure :
    (ask up (budgetReq 0x300)).begins 0 0x0304 (budgetReq 0x300) ∧ (ask up (budgetReq 0x2D0)).begins 0 0x0304 (budgetReq 0x2D0)
    ∧ pf (budgetReq 0x300) 0 4 = 0x300 ∧ pf (budgetReq 0x2D0) 0 4 = 0x2D0 ∧ up.cba.budget.toNat = 0x2EE ∧ up.inPool := 
  ⟨begins_of _ _ _ (by decide +kernel), begins_of _ _ _ (by decide +kernel), by decide +kernel, by decide +kernel, by decide +kernel, by unfold State.inPool; decide +kernel⟩

/-- An address of the other instance of the package, whose memory is there to read without a cache line of our own. -/
def far : Nat := 2 ^ 48
/-- The state with the first lines of memory of the other instance come. -/
def near (n : Nat) (s : State) : State := { s with net := { s.net with away := (List.range n).map fun i => 2 ^ 40 + i } }

def infoReq : Req := reqWith 0x0001 0 []
theorem witness_RefusedRequestAnswers :
    (0x0001, Instr.info 0) ∈ trisiaCommands 0 .ok [] true false 0 ∧ (ask up (reqWith 0x0001 1 [])).taken 0 0x0001 (reqWith 0x0001 1 [])
    ∧ (ask up (reqWith 0x0001 1 [])).refusal 0 (reqWith 0x0001 1 []) = some (answer resBadlen) := by unfold State.taken; decide +kernel
theorem witness_RefusedRequestAnswers_opcode :
    (ask up (reqWith 0x0500 0 [])).taken 0 (reqOp (reqWith 0x0500 0 [])) (reqWith 0x0500 0 []) ∧ headerBad (reqWith 0x0500 0 []) = false
    ∧ cmdRow (reqOp (reqWith 0x0500 0 [])) = none := by unfold State.taken; decide +kernel

theorem witness_QueriesAnswer_info : (ask up infoReq).begins 0 0x0001 infoReq := begins_of _ _ _ (by decide +kernel)
theorem witness_QueriesAnswer_ident :
    let q := reqWith 0x0002 3 [(0, 1), (1, 67), (2, 1)]
    (ask up q).begins 0 0x0002 q ∧ pf q 0 1 = 1 ∧ pf q 1 1 = (⟨67, true⟩ : EPort).p.val ∧ pf q 2 1 = (⟨67, true⟩ : EPort).sep.toNat :=
  ⟨begins_of _ _ _ (by decide +kernel), by decide +kernel⟩
theorem witness_QueriesAnswer_cellmap : (ask up (reqWith 0x0003 0 [])).begins 0 0x0003 (reqWith 0x0003 0 []) := begins_of _ _ _ (by decide +kernel)
theorem witness_QueriesAnswer_steprec :
    let q := reqWith 0x0004 8 [(0, 0), (6, 1)]
    (ask up q).begins 0 0x0004 q ∧ pf q 6 1 = 1 ∧ pf q 7 1 = 0 := ⟨begins_of _ _ _ (by decide +kernel), by decide +kernel⟩
theorem witness_QueriesAnswer_stashdir :
    let q := reqWith 0x0005 3 [(0, 65535), (2, 1)]
    (ask up q).begins 0 0x0005 q ∧ pf q 2 1 = 1 := ⟨begins_of _ _ _ (by decide +kernel), by decide +kernel⟩
theorem witness_QueriesAnswer_gentab :
    let q := reqWith 0x0006 3 [(0, 4095), (2, 1)]
    (ask up q).begins 0 0x0006 q ∧ pf q 2 1 = 1 ∧ pf q 0 2 < 4096 := ⟨begins_of _ _ _ (by decide +kernel), by decide +kernel⟩
theorem witness_QueriesAnswer_memRead :
    let q := reqWith 0x0007 10 [(0, far), (8, 224)]
    (ask (near 1 running) q).begins 0 0x0007 q ∧ (ask (near 1 running) q).memArgs q = .inl (far, 224)
    ∧ (ask (near 1 running) q).piecesReady [(far, 224)] = true ∧ (ask (near 1 running) q).voidable :=
  ⟨begins_of _ _ _ (by decide +kernel), by unfold State.voidable; decide +kernel⟩
theorem witness_QueriesAnswer_memWrite :
    let q := reqWith 0x0302 240 [(0, 0x10000), (8, 32), (16, 7)]
    let v : State := { stacked with step := running.step }
    (ask stacked q).begins 0 0x0302 q ∧ (ask stacked q).memArgs q = .inl (0x10000, 32) ∧ (ask stacked q).Inv
    ∧ (ask v q).begins 0 0x0302 q ∧ (ask v q).memArgs q = .inl (0x10000, 32) ∧ (ask v q).voidable :=
  ⟨begins_of _ _ _ (by decide +kernel), by decide +kernel, by unfold State.Inv; decide +kernel, begins_of _ _ _ (by decide +kernel), by decide +kernel,
   by unfold State.voidable; decide +kernel⟩

/-- HALT is set. -/
def halted : State := { up with glob := { up.glob with halt := true } }
/-- A block of zeros but for a shard layout that R267 allows. -/
def jobReq : Req := reqWith 0x0100 240 [(16, 0x8006)]
theorem witness_JobControlActs_job :
    (ask halted jobReq).begins 0 0x0100 jobReq ∧ (ask halted jobReq).glob.halt = true ∧ (ask halted jobReq).step.running = false
    ∧ (ask halted jobReq).jobCheck (payBytes jobReq 0 240) (fld (payBytes jobReq 0 240) 16 4) 16 = none
    ∧ (ask halted jobReq).piecesReady (jobPieces (payBytes jobReq 0 240)) = true := ⟨begins_of _ _ _ (by decide +kernel), by decide +kernel⟩
theorem witness_JobControlActs_job_refused :
    let q := reqWith 0x0100 240 []
    (ask up jobReq).begins 0 0x0100 jobReq ∧ (ask up jobReq).glob.halt = false ∧ (ask halted q).begins 0 0x0100 q
    ∧ (ask halted q).jobCheck (payBytes q 0 240) (fld (payBytes q 0 240) 16 4) 16 = some (answer resBadfield 16) :=
  ⟨begins_of _ _ _ (by decide +kernel), by decide +kernel, begins_of _ _ _ (by decide +kernel), by decide +kernel⟩
def haltedStep : State := { running with glob := { running.glob with halt := true } }
theorem witness_JobControlActs_job_deferred : (ask haltedStep jobReq).begins 0 0x0100 jobReq ∧ (ask haltedStep jobReq).step.running = true :=
  ⟨begins_of _ _ _ (by decide +kernel), rfl⟩
theorem witness_JobControlActs_cursor : (ask up (reqWith 0x0106 8 [(0, 5)])).begins 0 0x0106 (reqWith 0x0106 8 [(0, 5)]) := begins_of _ _ _ (by decide +kernel)
def detReq (b : Nat) : Req := reqWith 0x0107 1 [(0, b)]
/-- Every engine port of the other instance declares CANON. -/
def canonUp : State := { up with pkg := { up.pkg with canon := 0x02 } }
theorem witness_JobControlActs_det :
    (ask up (detReq 1)).begins 0 0x0107 (detReq 1) ∧ (pf (detReq 1) 0 1 = 1 ∧ (ask up (detReq 1)).detAllowed = false)
    ∧ (ask canonUp (detReq 1)).begins 0 0x0107 (detReq 1) ∧ (ask canonUp (detReq 1)).detAllowed = true
    ∧ (ask running (detReq 0)).begins 0 0x0107 (detReq 0) ∧ pf (detReq 0) 0 1 = 0 :=
  ⟨begins_of _ _ _ (by decide +kernel), by decide +kernel, begins_of _ _ _ (by decide +kernel), by decide +kernel, begins_of _ _ _ (by decide +kernel), by decide +kernel⟩
def haltReq (b : Nat) : Req := reqWith 0x0108 1 [(0, b)]
def pausedUp : State := { halted with step := { halted.step with paused := true } }
theorem witness_JobControlActs_halt :
    (ask up (haltReq 1)).begins 0 0x0108 (haltReq 1) ∧ pf (haltReq 1) 0 1 = 1 ∧ (ask pausedUp (haltReq 0)).begins 0 0x0108 (haltReq 0)
    ∧ pf (haltReq 0) 0 1 = 0 ∧ (ask pausedUp (haltReq 0)).step.paused = true :=
  ⟨begins_of _ _ _ (by decide +kernel), by decide +kernel, begins_of _ _ _ (by decide +kernel), by decide +kernel, rfl⟩
theorem witness_JobControlActs_pause : (ask up (reqWith 0x0109 0 [])).begins 0 0x0109 (reqWith 0x0109 0 []) := begins_of _ _ _ (by decide +kernel)
theorem witness_JobControlActs_digest :
    let q := reqWith 0x010C 4 [(0, 0x00031E01)]
    (ask up q).begins 0 0x010C q ∧ pf q 0 4 &&& 0xE0E0 = 0 ∧ 10 ≤ pf q 0 4 / 256 % 32 ∧ pf q 0 4 / 256 % 32 ≤ 30 :=
  ⟨begins_of _ _ _ (by decide +kernel), by decide +kernel⟩
theorem witness_JobControlActs_bunt :
    let q := reqWith 0x0110 16 [(0, 15), (8, 3)]
    (ask up q).begins 0 0x0110 q ∧ pf q 0 1 ≤ 15 ∧ (ask up q).glob.halt = false ∧ (ask halted q).begins 0 0x0110 q ∧ (ask halted q).glob.halt = true :=
  ⟨begins_of _ _ _ (by decide +kernel), by decide +kernel, rfl, begins_of _ _ _ (by decide +kernel), rfl⟩
theorem witness_JobControlActs_tick :
    let q := reqWith 0x0306 4 [(0, 0x000F0001)]
    (ask running q).begins 0 0x0306 q ∧ pf q 0 4 &&& 0xF2 = 0 ∧ (ask running q).step.running = true ∧ BitVec.ofNat 24 (pf q 0 4 / 256) ≠ (ask running q).clk.stepUs :=
  ⟨begins_of _ _ _ (by decide +kernel), by decide +kernel⟩
theorem witness_JobControlActs_ckpt :
    let q := reqWith 0x0205 15 [(0, 65536), (8, 9)]
    (ask up q).begins 0 0x0205 q ∧ pf q 14 1 = 0 ∧ pf q 0 8 % 65536 = 0 ∧ pf q 0 8 < 2 ^ 48 ∧ (ask up q).boundaryPast (pf q 8 6) = false :=
  ⟨begins_of _ _ _ (by decide +kernel), by decide +kernel⟩
theorem witness_JobControlActs_ckpt_late :
    let q := reqWith 0x0205 15 [(0, 65536), (8, 0)]
    let s : State := { up with step := { up.step with count := 1 } }
    let q' := reqWith 0x0205 15 [(14, 1)]
    (ask s q).begins 0 0x0205 q ∧ pf q 14 1 = 0 ∧ (ask s q).boundaryPast (pf q 8 6) = true ∧ (ask s q').begins 0 0x0205 q' ∧ pf q' 14 1 = 1 :=
  ⟨begins_of _ _ _ (by decide +kernel), by decide +kernel, by decide +kernel, begins_of _ _ _ (by decide +kernel), by decide +kernel⟩

/-- A route binary of one descriptor of zeros, at an address of the other instance. -/
def loadReq (crc : Nat) : Req := reqWith 0x0101 16 [(0, far), (8, 16383), (10, 1), (12, crc)]
def zeroCrc : Nat := (crc32c (List.replicate 128 0)).toNat
set_option maxRecDepth 100000 in
theorem witness_RoutesAndTablesAct_load :
    (ask (near 1 up) (loadReq zeroCrc)).begins 0 0x0101 (loadReq zeroCrc) ∧ pf (loadReq zeroCrc) 0 8 % 256 = 0 ∧ pf (loadReq zeroCrc) 8 2 + pf (loadReq zeroCrc) 10 2 ≤ 16384
    ∧ (ask (near 1 up) (loadReq zeroCrc)).inMem far (128 * 1) = true ∧ (ask (near 1 up) (loadReq zeroCrc)).busyRoute 16383 1 = none
    ∧ (ask (near 1 up) (loadReq zeroCrc)).piecesReady [(far, 128 * 1)] = true
    ∧ (crc32c ((ask (near 1 up) (loadReq zeroCrc)).readMem far (128 * 1))).toNat = pf (loadReq zeroCrc) 12 4 := ⟨begins_of _ _ _ (by decide +kernel), by decide +kernel⟩
set_option maxRecDepth 100000 in
theorem witness_RoutesAndTablesAct_load_crc :
    (ask (near 1 up) (loadReq 1)).begins 0 0x0101 (loadReq 1) ∧ (crc32c ((ask (near 1 up) (loadReq 1)).readMem far (128 * 1))).toNat ≠ pf (loadReq 1) 12 4 :=
  ⟨begins_of _ _ _ (by decide +kernel), by decide +kernel⟩
def kickReq (i : Nat) : Req := reqWith 0x0102 2 [(0, i)]
theorem witness_RoutesAndTablesAct_kick :
    (ask mapped (kickReq 5)).begins 0 0x0102 (kickReq 5) ∧ pf (kickReq 5) 0 2 < 0x4000 ∧ (ask mapped (kickReq 5)).glob.halt = false
    ∧ (ask mapped (kickReq 5)).step.stop = false ∧ (ask mapped (kickReq 5)).stopped = false ∧ (ask mapped (kickReq 5)).kickBad ((ask mapped (kickReq 5)).desc 5) = false
    ∧ (ask mapped (kickReq 0x3FFF)).begins 0 0x0102 (kickReq 0x3FFF) ∧ (ask mapped (kickReq 0x3FFF)).kickBad ((ask mapped (kickReq 0x3FFF)).desc 0x3FFF) = true :=
  ⟨begins_of _ _ _ (by decide +kernel), by decide +kernel, by decide +kernel, by decide +kernel, by decide +kernel, by decide +kernel,
   begins_of _ _ _ (by decide +kernel), by decide +kernel⟩
def armReq (t : Nat) : Req := reqWith 0x0103 16 [(0, 0x3FFF), (8, t)]
theorem witness_RoutesAndTablesAct_arm :
    (ask up (armReq 0)).begins 0 0x0103 (armReq 0) ∧ pf (armReq 0) 8 8 = 0 ∧ (ask up (armReq 100)).begins 0 0x0103 (armReq 100)
    ∧ (ask up (armReq 100)).clk.gtc.toNat < pf (armReq 100) 8 8 ∧ (ask up (armReq 100)).rt.arms.length < 256 :=
  ⟨begins_of _ _ _ (by decide +kernel), by decide +kernel, begins_of _ _ _ (by decide +kernel), by decide +kernel⟩
theorem witness_RoutesAndTablesAct_arm_refused :
    let s : State := { up with clk := { up.clk with gtc := 100 } }
    let f : State := { up with rt := { up.rt with arms := List.replicate 256 (0, 1) } }
    (ask s (armReq 100)).begins 0 0x0103 (armReq 100) ∧ pf (armReq 100) 8 8 ≤ (ask s (armReq 100)).clk.gtc.toNat
    ∧ (ask f (armReq 100)).begins 0 0x0103 (armReq 100) ∧ (ask f (armReq 100)).rt.arms.length = 256 :=
  ⟨begins_of _ _ _ (by decide +kernel), by decide +kernel, begins_of _ _ _ (by decide +kernel), by decide +kernel⟩
/-- A frozen entry of three parts of one line each and a tail, VALID. -/
def entryFields : List (Nat × Nat) := [(20, 1), (24, 2), (28, 3), (62, 0xC000), (68, 4)]
def genReq (fs : List (Nat × Nat)) : Req := reqWith 0x0104 72 ((0, 4095) :: fs)
theorem witness_RoutesAndTablesAct_register :
    let q := genReq entryFields
    (ask halted q).begins 0 0x0104 q ∧ (ask halted q).glob.halt = true ∧ pf q 0 2 < 4096 ∧ (ask halted q).gens = []
    ∧ entryValid (payBytes q 8 64) = true ∧ entryBad (payBytes q 8 64) = none := ⟨begins_of _ _ _ (by decide +kernel), by decide +kernel⟩
theorem witness_RoutesAndTablesAct_unregister :
    (ask halted (genReq [])).begins 0 0x0104 (genReq []) ∧ entryValid (payBytes (genReq []) 8 64) = false := ⟨begins_of _ _ _ (by decide +kernel), by decide +kernel⟩
theorem witness_RoutesAndTablesAct_abort : (ask up (reqWith 0x0105 0 [])).begins 0 0x0105 (reqWith 0x0105 0 []) := begins_of _ _ _ (by decide +kernel)
theorem witness_RoutesAndTablesAct_invalidate :
    let q := reqWith 0x010D 16 [(0, 0x10000), (8, 1)]
    (ask mapped q).begins 0 0x010D q ∧ pf q 0 8 % 65536 = 0 := ⟨begins_of _ _ _ (by decide +kernel), by decide +kernel⟩

def flushReq : Req := reqWith 0x010E 16 [(0, 0x10000), (8, 256)]
def dirtyLine : State := { stacked with lines := [⟨0x100, 0xFF, 0xFF, 0⟩] }
theorem witness_RoutesAndTablesAct_flush :
    (ask dirtyLine flushReq).begins 0 0x010E flushReq ∧ pf flushReq 0 8 % 4096 = 0
    ∧ (ask dirtyLine flushReq).linesIn (pf flushReq 0 8) (pf flushReq 8 8) = [⟨0x100, 0xFF, 0xFF, 0⟩]
    ∧ (ask stacked flushReq).begins 0 0x010E flushReq ∧ (∀ l ∈ (ask stacked flushReq).linesIn (pf flushReq 0 8) (pf flushReq 8 8), l.dirty = 0) :=
  ⟨begins_of _ _ _ (by decide +kernel), by decide +kernel, by decide +kernel, begins_of _ _ _ (by decide +kernel), by decide +kernel⟩
theorem witness_RoutesAndTablesAct_flush_issues : ∃ u m id, (ask dirtyLine flushReq).issueTxn 0x100 true 15 = some (u, m, id) :=
  issueTxn_isSome (m := 0) (l' := 0x10000) (by decide +kernel) (by decide +kernel) (by
    apply List.length_pos_of_mem (a := 0)
    simp [Msp.freeIds, show ((ask dirtyLine flushReq).msps.get 0).txns = [] by decide +kernel])
theorem witness_RoutesAndTablesAct_preempt :
    let q := reqWith 0x010F 8 [(0, 1)]
    (ask one q).begins 0 0x010F q ∧ (∀ b : Bool, (((ask one q).port ⟨0, b⟩).cmds).length = 0) ∧ (∀ p : PCell, p ≠ 0 → ((ask one q).cell p).logical ≠ some 0) :=
  ⟨begins_of _ _ _ (by decide +kernel), by decide +kernel⟩

/-! ### Images: fields at their bytes, everything else 0 -/

/-- Memory of the other instance: bytes at offsets from `far`. -/
def farMem (l : List (Nat × Nat)) : Mem := l.map fun x => (far + x.1, BitVec.ofNat 8 x.2)
def withFar (s : State) (l : List (Nat × Nat)) : State := near 33 { s with mem := farMem l }

def saveReq : Req := reqWith 0x0111 20 [(0, 67), (8, 0x10000), (16, 0x100000)]
def haltedMem : State := { stacked with glob := { stacked.glob with halt := true } }
/-- Row 1 of tile 1 of cell 0, which the save reads, cannot be corrected. -/
def saveReq0 : Req := reqWith 0x0111 20 [(0, 0), (8, 0x10000), (16, 0x100000)]
set_option maxRecDepth 100000 in
theorem witness_ImagesSaveAndRestore_save_void :
    let s : State := { haltedMem with step := running.step }
    (ask s saveReq0).begins 0 0x0111 saveReq0 ∧ pf saveReq0 0 1 = (0 : PCell).val ∧ (ask s saveReq0).glob.halt = true ∧ (ask s saveReq0).cellIdle 0 = true
    ∧ ((ask s saveReq0).ctxImage 0).length ≤ pf saveReq0 16 4 ∧ (ask s saveReq0).inMem (pf saveReq0 8 8) ((ask s saveReq0).ctxImage 0).length = true
    ∧ (1, 1) ∈ (ask s saveReq0).savedReads 0 ∧ eccAt [⟨1, 1, .uncorr⟩] 1 1 = .uncorr ∧ (ask s saveReq0).voidable :=
  ⟨begins_of _ _ _ (by decide +kernel), by unfold State.voidable; decide +kernel⟩
set_option maxRecDepth 100000 in
theorem witness_ImagesSaveAndRestore_save :
    (ask haltedMem saveReq).begins 0 0x0111 saveReq ∧ pf saveReq 0 1 = (67 : PCell).val ∧ (ask haltedMem saveReq).glob.halt = true ∧ pf saveReq 8 8 % 256 = 0
    ∧ (ask haltedMem saveReq).cellIdle 67 = true ∧ ((ask haltedMem saveReq).ctxImage 67).length ≤ pf saveReq 16 4
    ∧ (ask haltedMem saveReq).inMem (pf saveReq 8 8) ((ask haltedMem saveReq).ctxImage 67).length = true ∧ (ask haltedMem saveReq).Inv :=
  ⟨begins_of _ _ _ (by decide +kernel), by unfold State.Inv; decide +kernel⟩

def restoreReq : Req := reqWith 0x0112 16 [(0, 0), (8, far)]
/-- A save image without rows, with the CRC bytes given. -/
def ctxImg (crc : List (Nat × Nat)) : State := withFar haltedMem ([(0, 1), (9, 9)] ++ crc)
set_option maxRecDepth 100000 in
theorem witness_ImagesSaveAndRestore_restore :
    (ask (ctxImg []) restoreReq).begins 0 0x0112 restoreReq ∧ pf restoreReq 0 1 = (0 : PCell).val ∧ ((ask (ctxImg []) restoreReq).cell 0).logical.isSome = true
    ∧ (ask (ctxImg []) restoreReq).inMem far 2304 = true ∧ (ask (ctxImg []) restoreReq).cellIdle 0 = true
    ∧ (ask (ctxImg []) restoreReq).piecesReady [(far, 2304)] = true ∧ headerGood ((ask (ctxImg []) restoreReq).readMem far 2304) = true
    ∧ fld ((ask (ctxImg []) restoreReq).readMem far 2304) 8 4 = 2304 := ⟨begins_of _ _ _ (by decide +kernel), by decide +kernel⟩
set_option maxRecDepth 1000000 in
theorem witness_ImagesSaveAndRestore_restore_unsealed : sealedAt 12 ((ask (ctxImg []) restoreReq).readMem far 2304) = false := by decide +kernel
set_option maxRecDepth 1000000 in
theorem witness_ImagesSaveAndRestore_restore_sealed :
    sealedAt 12 ((ask (ctxImg [(12, 35), (13, 191), (14, 1), (15, 228)]) restoreReq).readMem far 2304) = true := by decide +kernel

def exportReq : Req := reqWith 0x010A 72 [(0, 0x10000), (64, 8448)]
def pausedMem : State := { haltedMem with step := { haltedMem.step with paused := true } }
set_option maxRecDepth 1000000 in
theorem witness_ImagesSaveAndRestore_export :
    let s := ask pausedMem exportReq
    s.begins 0 0x010A exportReq ∧ s.step.paused = true ∧ (∀ i, i < 8 → imageBase exportReq 0 i % 256 = 0)
    ∧ (∀ i, i < 8 → imageBase exportReq 0 i ≠ 0 → paOwner (imageBase exportReq 0 i) = i ∧ s.isDefault (imageBase exportReq 0 i) = false)
    ∧ imageBase exportReq 0 s.pins.instanceId.toNat ≠ 0 ∧ s.walkMiss 0 (pagesOf (slotPages s.gens)) = none
    ∧ (s.cacheLeaves 0 (pagesOf (slotPages s.gens))).reach false (s.gens.flatMap Gen.slots) = .inl []
    ∧ (s.cacheLeaves 0 (pagesOf (slotPages s.gens))).piecesReady ([] ++ s.spilledPieces) = true
    ∧ (s.cacheLeaves 0 (pagesOf (slotPages s.gens))).snapshot.length ≤ pf exportReq 64 8
    ∧ s.inMem (imageBase exportReq 0 s.pins.instanceId.toNat) (s.cacheLeaves 0 (pagesOf (slotPages s.gens))).snapshot.length = true ∧ s.Inv :=
  ⟨begins_of _ _ _ (by decide +kernel), by unfold State.Inv; decide +kernel⟩
/-- The export of another instance's image alone. -/
def exportOther : Req := reqWith 0x010A 72 [(64, 8448)]
theorem witness_ImagesSaveAndRestore_export_other :
    (ask pausedMem exportOther).begins 0 0x010A exportOther ∧ (∀ i, i < 8 → imageBase exportOther 0 i = 0) ∧ (ask pausedMem exportOther).step.paused = true :=
  ⟨begins_of _ _ _ (by decide +kernel), by decide +kernel⟩
theorem witness_ImagesSaveAndRestore_export_running : (ask haltedMem exportReq).begins 0 0x010A exportReq ∧ (ask haltedMem exportReq).step.paused = false :=
  ⟨begins_of _ _ _ (by decide +kernel), by decide +kernel⟩

/-- 256 elements from NP4 to BP4, planes 32 bytes apart. -/
def convReq : Req := reqWith 0x0303 40 [(0, far), (8, far + 0x1000), (16, 256), (24, 1), (28, 32), (32, 0x100), (36, 0x100)]
theorem witness_ImagesSaveAndRestore_convert :
    (ask (near 2 halted) convReq).begins 0 0x0303 convReq ∧ (ask (near 2 halted) convReq).glob.halt = true ∧ pf convReq 16 8 % 256 = 0 ∧ pf convReq 16 8 ≠ 0
    ∧ pf convReq 24 1 = 1 ∧ pf convReq 28 4 % 32 = 0
    ∧ (∀ x ∈ np4Pieces far 0x100 256 ++ bp4Pieces (far + 0x1000) 0x100 32 256, (ask (near 2 halted) convReq).inMem x.1 x.2 = true)
    ∧ (ask (near 2 halted) convReq).piecesReady (np4Pieces far 0x100 256) = true := ⟨begins_of _ _ _ (by decide +kernel), by decide +kernel⟩

/-! ### CRCs of long images whose state becomes 0 and which are 0 from there on -/

theorem crc_zero (l : List Byte) (h : ∀ x ∈ l, x = 0) : l.foldl crc32cByte 0 = 0 := by
  induction l with
  | nil => rfl
  | cons x l ih =>
    rw [List.foldl_cons, h x (by simp), show crc32cByte 0 0 = 0 by decide +kernel]
    exact ih fun y hy => h y (by simp [hy])
theorem readBytes_add (m : Mem) (a j k : Nat) : m.readBytes a (j + k) = m.readBytes a j ++ m.readBytes (a + j) k := by
  simp [Mem.readBytes, List.range_add, Function.comp_def, Nat.add_assoc]
theorem read_above (m : Mem) (a : Nat) (h : ∀ x ∈ m, x.1 < a) : m.read a = 0 := by
  induction m with
  | nil => rfl
  | cons x m ih =>
    have := h x (by simp)
    rw [Mem.read, if_neg (by omega), if_neg (by omega)]
    exact ih fun y hy => h y (by simp [hy])
theorem crc_ff (m : Mem) (a k : Nat) (h4 : m.readBytes a 4 = [0xFF, 0xFF, 0xFF, 0xFF]) (h : ∀ x ∈ m, x.1 < a + 4) : (crc32c (m.readBytes a (4 + k))).toNat = 0xFFFFFFFF := by
  rw [crc32c, readBytes_add, List.foldl_append, h4, show ([0xFF, 0xFF, 0xFF, 0xFF] : List Byte).foldl crc32cByte 0xFFFFFFFF = 0 by decide +kernel, crc_zero]
  · rfl
  · intro x hx
    simp only [Mem.readBytes, List.mem_map] at hx
    obtain ⟨i, -, rfl⟩ := hx
    exact read_above m _ fun y hy => Nat.lt_of_lt_of_le (h y hy) (by omega)

theorem fld_append (l z : List Byte) (o n : Nat) (h : o + n ≤ l.length) : fld (l ++ z) o n = fld l o n := by
  rw [fld, fld, List.drop_append_of_le_length (by omega), List.take_append_of_le_length (by rw [List.length_drop]; omega)]
theorem sealedAt_append (l z : List Byte) (o : Nat) (h : o + 4 ≤ l.length) (hz : ∀ x ∈ z, x = 0)
    (hc : (l.take o ++ zeros 4 ++ l.drop (o + 4)).foldl crc32cByte 0xFFFFFFFF = 0) : sealedAt o (l ++ z) = (0xFFFFFFFF == fld l o 4) := by
  rw [sealedAt, fld_append l z o 4 h, List.take_append_of_le_length (by omega), List.drop_append_of_le_length (by omega), ← List.append_assoc, crc32c,
    List.foldl_append, hc, crc_zero z hz]
  rfl

/-- A snapshot image of 8,448 bytes of step 9 without tensors, its CRC bytes given. -/
def snapImg (crc : Nat) : State := withFar halted ([(0, 9), (89, 0x21)] ++ ((List.range 4).filterMap fun i => if crc = 0 then none else some (104 + i, crc)) ++ [(252, 92), (253, 201), (254, 98), (255, 69)])
def resumeReq (step : Nat) : Req := reqWith 0x010B 96 [(0, step), (32, far)]
theorem snapImg_split (crc : Nat) (h : (snapImg crc).isDefault far = false ∧ ∀ x ∈ (snapImg crc).mem, x.1 < far + 256) :
    ∃ z, (snapImg crc).readMem far 8448 = (snapImg crc).mem.readBytes far 256 ++ z ∧ ∀ x ∈ z, x = 0 := by
  refine ⟨(snapImg crc).mem.readBytes (far + 256) 8192, ?_, ?_⟩
  · rw [State.readMem, h.1]
    exact readBytes_add _ far 256 8192
  · intro x hx
    simp only [Mem.readBytes, List.mem_map] at hx
    obtain ⟨i, -, rfl⟩ := hx
    exact read_above _ _ fun y hy => Nat.lt_of_lt_of_le (h.2 y hy) (by omega)
theorem witness_ImagesSaveAndRestore_resume :
    let q := resumeReq 9
    let s := ask (snapImg 0xFF) q
    s.begins 0 0x010B q ∧ s.glob.halt = true ∧ pf q 16 4 = 0 ∧ imageBase q 32 s.pins.instanceId.toNat = far ∧ s.inMem far 8448 = true
    ∧ s.piecesReady [(far, 8448)] = true ∧ natOf (s.readMem (far + 88) 8) = 8448 ∧ s.resumeSections far 0 (pf q 24 8) 0 false = ([], [])
    ∧ distinctIdx [] = true ∧ s.walkMiss 0 (pagesOf (slotPages [])) = none ∧ (s.cacheLeaves 0 (pagesOf (slotPages []))).reach true [] = .inl [] ∧ pf q 0 6 = 9 ∧ pf q 8 8 = 0 := ⟨begins_of _ _ _ (by decide +kernel), by decide +kernel⟩
set_option maxRecDepth 100000 in
theorem witness_ImagesSaveAndRestore_resume_sealed :
    let img := (snapImg 0xFF).readMem far 8448
    sealedAt 104 img = true ∧ fld img 0 6 = 9 ∧ fld img 8 8 = 0 ∧ fld img 72 4 = 0 ∧ fld img 108 4 = 0 ∧ fld img 112 4 = 0 := by
  obtain ⟨z, hz, h0⟩ := snapImg_split 0xFF (by decide +kernel)
  have hl : ((snapImg 0xFF).mem.readBytes far 256).length = 256 := by simp [Mem.readBytes]
  dsimp only
  rw [hz, sealedAt_append _ z 104 (by omega) h0 (by decide +kernel), fld_append _ z 0 6 (by omega), fld_append _ z 8 8 (by omega),
    fld_append _ z 72 4 (by omega), fld_append _ z 108 4 (by omega), fld_append _ z 112 4 (by omega)]
  decide +kernel
theorem witness_ImagesSaveAndRestore_resume_other : (ask (snapImg 0xFF) (resumeReq 8)).begins 0 0x010B (resumeReq 8) ∧ pf (resumeReq 8) 0 6 ≠ 9 :=
  ⟨begins_of _ _ _ (by decide +kernel), by decide +kernel⟩
set_option maxRecDepth 100000 in
theorem witness_ImagesSaveAndRestore_resume_unsealed :
    (ask (snapImg 0) (resumeReq 9)).begins 0 0x010B (resumeReq 9) ∧ sealedAt 104 ((snapImg 0).readMem far 8448) = false := by
  obtain ⟨z, hz, h0⟩ := snapImg_split 0 (by decide +kernel)
  refine ⟨begins_of _ _ _ (by decide +kernel), ?_⟩
  rw [hz, sealedAt_append _ z 104 (by simp [Mem.readBytes]) h0 (by decide +kernel)]
  decide +kernel

/-! ### RECOVERY_JOIN -/

/-- A joining chip: the block at far, one route at far + 0x1000, a table there too. -/
def joinReq (rc tc : Nat) : Req := reqWith 0x0203 40 [(0, far), (8, far + 0x1000), (16, 1), (20, rc), (24, far + 0x1000), (32, tc), (36, 0x8006)]
def joining : State := near 1040 (withFar halted [(0x1000, 0xFF), (0x1001, 0xFF), (0x1002, 0xFF), (0x1003, 0xFF)])
def joinOk (rc tc : Nat) : Bool :=
  let q := joinReq rc tc
  let s := ask joining q
  let bs := s.readMem far 240
  Begins s 0x0203 q && s.glob.halt && !s.job.present && pf q 16 2 == 1 && s.inMem far 240 && s.inMem (pf q 8 8) 128 && s.inMem (pf q 24 8) 262144
    && (blockReserved bs).isNone && (s.jobCheck bs (pf q 36 4) 36).isNone && pf q 20 4 == rc && pf q 32 4 == tc
set_option maxRecDepth 100000 in
theorem witness_ImagesSaveAndRestore_join : joinOk 0xFFFFFFFF 0xFFFFFFFF = true ∧ joinOk 0xFFFFFFFF 1 = true ∧ joinOk 1 1 = true := by decide +kernel
theorem pieces_near {s : State} {n pa len : Nat} (ha : s.net.away = (List.range n).map fun i => 2 ^ 40 + i) (hd : s.isDefault pa = false)
    (ho : s.ownPa pa = false) (hlo : 2 ^ 40 ≤ pa / 256) (hhi : (pa + len - 1) / 256 < 2 ^ 40 + n) : s.piecesReady [(pa, len)] = true := by
  simp only [State.piecesReady, List.all_cons, List.all_nil, Bool.and_true, List.all_eq_true, linesOf]
  intro l hl
  simp only [State.lineReady, hd, ho, ha]
  split at hl
  · cases hl
  · obtain ⟨i, hi, rfl⟩ := List.mem_map.1 hl
    have hi := List.mem_range.1 hi
    simp only [Bool.false_eq_true, if_false, Bool.not_false, if_true, List.contains_iff_mem, List.mem_map, List.mem_range]
    exact ⟨pa / 256 + i - 2 ^ 40, by omega, by omega⟩
theorem near_away (n : Nat) (s : State) (q : Req) : (ask (near n s) q).net.away = (List.range n).map fun i => 2 ^ 40 + i := rfl
theorem witness_ImagesSaveAndRestore_join_pieces (rc tc : Nat) :
    let s := ask joining (joinReq rc tc)
    s.piecesReady [(far, 240)] = true ∧ jobPieces (s.readMem far 240) = []
    ∧ s.piecesReady [(far + 0x1000, 128)] = true ∧ s.piecesReady [(far + 0x1000, 262144)] = true := by
  have hd : joining.isDefault far = false ∧ joining.isDefault (far + 0x1000) = false := by decide +kernel
  have ho : joining.ownPa far = false ∧ joining.ownPa (far + 0x1000) = false := by decide +kernel
  have hj : jobPieces (joining.readMem far 240) = [] := by decide +kernel
  exact ⟨pieces_near (near_away 1040 _ _) hd.1 ho.1 (by decide) (by decide), hj,
    pieces_near (near_away 1040 _ _) hd.2 ho.2 (by decide) (by decide), pieces_near (near_away 1040 _ _) hd.2 ho.2 (by decide) (by decide)⟩
theorem witness_ImagesSaveAndRestore_join_crc :
    (crc32c (joining.readMem (far + 0x1000) (128 * 1))).toNat = 0xFFFFFFFF ∧ (crc32c (joining.readMem (far + 0x1000) 262144)).toNat = 0xFFFFFFFF := by
  have h4 : joining.mem.readBytes (far + 0x1000) 4 = [0xFF, 0xFF, 0xFF, 0xFF] := by decide +kernel
  have hm : ∀ x ∈ joining.mem, x.1 < far + 0x1000 + 4 := by decide +kernel
  have hd : joining.isDefault (far + 0x1000) = false := by decide +kernel
  simp only [State.readMem, hd]
  exact ⟨crc_ff _ _ 124 h4 hm, crc_ff _ _ 262140 h4 hm⟩
theorem witness_ImagesSaveAndRestore_join_present :
    let s : State := { halted with job := { halted.job with present := true } }
    (ask s (joinReq 0 0)).begins 0 0x0203 (joinReq 0 0) ∧ (ask s (joinReq 0 0)).job.present = true := ⟨begins_of _ _ _ (by decide +kernel), rfl⟩

/-! ### Recovery, maintenance, administration -/

def parReq : Req := reqWith 0x0200 12 [(0, 0x80030001), (8, 0x80030002)]
theorem witness_MaintenanceActs_parity : (ask up parReq).begins 0 0x0200 parReq ∧ parityBad (pf parReq 0 4) (pf parReq 8 4) = none :=
  ⟨begins_of _ _ _ (by decide +kernel), by decide +kernel⟩
def resyncReq : Req := reqWith 0x0201 0 []
def member : State := { up with par := { up.par with mcfg := 0x80010000 } }
theorem witness_MaintenanceActs_resync :
    (ask member resyncReq).begins 0 0x0201 resyncReq ∧ member.par.member = true ∧ member.par.holder = false
    ∧ (ask up resyncReq).begins 0 0x0201 resyncReq ∧ up.par.member = false ∧ up.par.holder = false :=
  ⟨begins_of _ _ _ (by decide +kernel), by decide +kernel, by decide +kernel, begins_of _ _ _ (by decide +kernel), by decide +kernel⟩
/-- A holder of share 0 whose own tensor 9 lies in its image. -/
def sharing : State := { holder [] with gens := [{ gen9 with prot := true, plen := 1 }] }
theorem witness_MaintenanceActs_resync_holder :
    (ask sharing resyncReq).begins 0 0x0201 resyncReq ∧ sharing.par.holder = true ∧ sharing.imageLen ≠ 0 := ⟨begins_of _ _ _ (by decide +kernel), by decide +kernel⟩
def rebuildReq (role lost a b : Nat) : Req := reqWith 0x0202 5 [(0, role), (1, lost), (2, a), (3, b)]
theorem witness_MaintenanceActs_rebuild :
    (ask member (rebuildReq 3 1 31 0)).begins 0 0x0202 (rebuildReq 3 1 31 0) ∧ pf (rebuildReq 3 1 31 0) 0 1 = 3 ∧ pf (rebuildReq 3 1 31 0) 1 1 = 1
    ∧ pf (rebuildReq 3 1 31 0) 2 1 = 31 ∧ pf (rebuildReq 3 1 31 0) 4 1 = 0 := ⟨begins_of _ _ _ (by decide +kernel), by decide +kernel⟩
/-- The holder rebuilds one lost member; it cannot rebuild two of a group of one share. -/
theorem witness_MaintenanceActs_rebuild_holder :
    (ask sharing (rebuildReq 1 1 31 0)).begins 0 0x0202 (rebuildReq 1 1 31 0) ∧ pf (rebuildReq 1 1 31 0) 0 1 = 1 ∧ sharing.par.holder = true ∧ sharing.imageLen ≠ 0
    ∧ (ask sharing (rebuildReq 1 2 0 31)).begins 0 0x0202 (rebuildReq 1 2 0 31) ∧ pf (rebuildReq 1 2 0 31) 0 1 = 1 ∧ pf (rebuildReq 1 2 0 31) 1 1 = 2 :=
  ⟨begins_of _ _ _ (by decide +kernel), by decide +kernel, by decide +kernel, by decide +kernel, begins_of _ _ _ (by decide +kernel), by decide +kernel⟩
theorem witness_MaintenanceActs_losses :
    (ask member (rebuildReq 2 2 0 31)).begins 0 0x0202 (rebuildReq 2 2 0 31) ∧ pf (rebuildReq 2 2 0 31) 0 1 = 2 ∧ pf (rebuildReq 2 2 0 31) 1 1 = 2
    ∧ pf (rebuildReq 2 2 0 31) 2 1 ≠ pf (rebuildReq 2 2 0 31) 3 1 ∧ pf (rebuildReq 2 2 0 31) 4 1 = 0 ∧ member.par.two = false :=
  ⟨begins_of _ _ _ (by decide +kernel), by decide +kernel⟩
def leaveReq : Req := reqWith 0x0204 0 []
def holding : State := { up with tmb := { up.tmb with hold := true } }
theorem witness_MaintenanceActs_resume :
    (ask up leaveReq).begins 0 0x0204 leaveReq ∧ up.tmb.hold = false ∧ (ask holding leaveReq).begins 0 0x0204 leaveReq ∧ holding.tmb.hold = true :=
  ⟨begins_of _ _ _ (by decide +kernel), by decide +kernel, begins_of _ _ _ (by decide +kernel), rfl⟩
def repairReq : Req := reqWith 0x0206 1 [(0, 67)]
def retiredCell : State := up.modCell 67 fun c => { c with retired := true }
theorem witness_MaintenanceActs_repair :
    (ask up repairReq).begins 0 0x0206 repairReq ∧ pf repairReq 0 1 = (67 : PCell).val ∧ (up.cell 67).retired = false
    ∧ (ask retiredCell repairReq).begins 0 0x0206 repairReq ∧ (retiredCell.cell 67).retired = true ∧ (retiredCell.cell 67).down = false ∧ (retiredCell.cell 67).pwr = .off :=
  ⟨begins_of _ _ _ (by decide +kernel), by decide +kernel, by decide +kernel, begins_of _ _ _ (by decide +kernel), by decide +kernel⟩
def ackReq (t : Nat) : Req := reqWith 0x0300 5 [(0, t), (4, 1)]
def logged : State := { up with log := { up.log with head := 1 } }
theorem witness_MaintenanceActs_ack :
    (ask logged (ackReq 1)).begins 0 0x0300 (ackReq 1) ∧ pf (ackReq 1) 4 1 ≤ 1 ∧ ((BitVec.ofNat 32 (pf (ackReq 1) 0 4)) - logged.log.tail).toNat = logged.log.unread
    ∧ (ask logged (ackReq 2)).begins 0 0x0300 (ackReq 2) ∧ logged.log.unread < ((BitVec.ofNat 32 (pf (ackReq 2) 0 4)) - logged.log.tail).toNat :=
  ⟨begins_of _ _ _ (by decide +kernel), by decide +kernel, by decide +kernel, begins_of _ _ _ (by decide +kernel), by decide +kernel⟩
def logReq : Req := reqWith 0x0301 16 [(0, 1), (8, 0x10000)]
theorem witness_MaintenanceActs_log :
    (ask stacked logReq).begins 0 0x0301 logReq ∧ pf logReq 0 1 ≤ 1 ∧ pf logReq 8 8 % 65536 = 0 ∧ stacked.ownPa (pf logReq 8 8) = true
    ∧ stacked.inMem (pf logReq 8 8) 65536 = true := ⟨begins_of _ _ _ (by decide +kernel), by decide +kernel⟩
def powerReq (budget : Nat) : Req := reqWith 0x0304 16 [(0, budget), (4, 4095), (8, 135), (12, 4095)]
theorem witness_MaintenanceActs_power :
    (ask up (powerReq 4095)).begins 0 0x0304 (powerReq 4095) ∧ pf (powerReq 4095) 0 4 < 4096 ∧ pf (powerReq 4095) 4 4 < 4096 ∧ pf (powerReq 4095) 8 1 < 136
    ∧ pf (powerReq 4095) 12 4 < 4096 ∧ floorF up.pins.gradeS ≤ pf (powerReq 4095) 0 4
    ∧ (ask up (powerReq 0)).begins 0 0x0304 (powerReq 0) ∧ pf (powerReq 0) 0 4 < floorF up.pins.gradeS :=
  ⟨begins_of _ _ _ (by decide +kernel), by decide +kernel, by decide +kernel, by decide +kernel, by decide +kernel, by decide +kernel,
   begins_of _ _ _ (by decide +kernel), by decide +kernel⟩
def cellReq (p on : Nat) : Req := reqWith 0x0305 2 [(0, p), (1, on)]
def readySpare : State := up.modCell 67 fun c => { c with pwr := .ready }
theorem witness_MaintenanceActs_cell :
    (ask up (cellReq 67 1)).begins 0 0x0305 (cellReq 67 1) ∧ (up.cell 67).logical = none ∧ (up.cell 67).retired = false ∧ (up.cell 67).filling = false
    ∧ pf (cellReq 67 1) 1 1 = 1 ∧ (up.cell 67).down = false ∧ (up.cell 67).pwr = .off
    ∧ (ask readySpare (cellReq 67 0)).begins 0 0x0305 (cellReq 67 0) ∧ pf (cellReq 67 0) 1 1 = 0 ∧ (readySpare.cell 67).down = false ∧ (readySpare.cell 67).pwr = .ready
    ∧ (readySpare.cell 67).logical = none :=
  ⟨begins_of _ _ _ (by decide +kernel), by decide +kernel, by decide +kernel, by decide +kernel, by decide +kernel, by decide +kernel, by decide +kernel,
   begins_of _ _ _ (by decide +kernel), by decide +kernel⟩
theorem witness_MaintenanceActs_cell_refused : (ask one (cellReq 0 1)).begins 0 0x0305 (cellReq 0 1) ∧ (one.cell 0).logical.isSome = true :=
  ⟨begins_of _ _ _ (by decide +kernel), by decide +kernel⟩
def lifeReq (n : Nat) : Req := reqWith 0x0400 1 [(0, n)]
theorem witness_MaintenanceActs_life :
    (ask up (lifeReq 4)).begins 0 0x0400 (lifeReq 4) ∧ lifeOf (pf (lifeReq 4) 0 1) = some .returned ∧ lifeNext up.pins.life .returned = true
    ∧ up.job.present = false ∧ up.log.flushBase = 0 ∧ (ask up (lifeReq 0)).begins 0 0x0400 (lifeReq 0) ∧ lifeOf (pf (lifeReq 0) 0 1) = some .blank
    ∧ lifeNext up.pins.life .blank = false :=
  ⟨begins_of _ _ _ (by decide +kernel), by decide +kernel, by decide +kernel, by decide +kernel, by decide +kernel, begins_of _ _ _ (by decide +kernel), by decide +kernel⟩
theorem witness_MaintenanceActs_grant :
    let q := reqWith 0x0401 2 [(0, 7), (1, 31)]
    (ask up q).begins 0 0x0401 q ∧ 1 ≤ pf q 0 1 ∧ pf q 0 1 ≤ 7 ∧ pf q 1 1 ≤ 31 := ⟨begins_of _ _ _ (by decide +kernel), by decide +kernel⟩
theorem witness_MaintenanceActs_test :
    let q := reqWith 0x0402 24 [(0, 1), (1, 67)]
    let s : State := { up with pins := { up.pins with life := .test } }
    (ask s q).begins 0 0x0402 q ∧ (ask s q).pins.life = .test ∧ pf q 0 1 = 1 ∧ pf q 1 1 < 68 := ⟨begins_of _ _ _ (by decide +kernel), by decide +kernel⟩
/-- KIND 2: the loopback of 32 bytes of own memory, whose lines are there. -/
theorem witness_MaintenanceActs_test_loopback :
    let q := reqWith 0x0402 24 [(0, 2), (8, 0x10000), (16, 32)]
    let s : State := { stacked with pins := { up.pins with life := .test } }
    (ask s q).begins 0 0x0402 q ∧ pf q 0 1 = 2 ∧ (ask s q).inMem (pf q 8 8) (pf q 16 8) = true ∧ (ask s q).piecesReady [(pf q 8 8, pf q 16 8)] = true :=
  ⟨begins_of _ _ _ (by decide +kernel), by decide +kernel⟩

/-! ### Further cases of the statements -/

/-- Nothing maps 0x10000, and the line of the first table, whose entries are all invalid, is held. -/
def faulting (segs : List (Nat × List (Nat × Nat))) : State :=
  { moving false segs with lines := [⟨0x100, 0, 0xFF, 0⟩, ⟨0, 0, 0xFF, 0⟩], quads := one.quads }
theorem witness_WalkTranslatesRow_fault :
    let f := faulting []
    let l := faulting [(0, [(0x10000, 256)])]
    f.moving dep0 7 (lsCmd false []) (lsProg false []) ∧ f.walkMiss 0 (pagePieces 0x10000 256) = none
    ∧ (f.cacheLeaves 0 (pagePieces 0x10000 256)).xlateAll 0 false (pagePieces 0x10000 256) = ([], some (0x10000, .fault .pagefault))
    ∧ (f.cell 0).tile? (lsCmd false []).tileNo = some someTile ∧ (lsProg false []).next = (0 : RowNo).toNat
    ∧ l.moving dep0 7 (lsCmd false [(0, [(0x10000, 256)])]) (lsProg false [(0, [(0x10000, 256)])]) ∧ l.walkMiss 0 (pagePieces 0x10100 256) = none
    ∧ (l.cacheLeaves 0 (pagePieces 0x10100 256)).xlateAll 0 false (pagePieces 0x10100 256) = ([], some (0x10100, .fault .pagefault))
    ∧ (1 : RowNo).toNat = 0 + [((0 : Nat), [((0x10000 : Nat), (256 : Nat))])].length := by
  unfold State.moving State.holds; decide +kernel

theorem witness_EngineErrorActs_fatal :
    (running.cell 0).logical.isSome = true ∧ (running.cell 0).retired = false ∧ running.voidable := by unfold State.voidable; decide +kernel

theorem witness_KickStartsRun_held : (kicked fromTile).waiters (kick5 fromTile).seq = [] := by decide +kernel
theorem witness_RunEndAnswersWaiters_held :
    let r : Run := { copyRun with next := 2, decerr := some 9 }
    (withRun r).runOf 5 = some (0, r) ∧ r.stop = none ∧ (withRun r).moved r = true ∧ r.decerr = some 9 ∧ (withRun r).waiters r.seq = []
    ∧ (withRun { scatterRun with stop := some (.pagefault, 5, none) }).waiters 1 = [] := by decide +kernel

/-- The master no longer reaches instance 1, with a step in progress and without one; instance 1 no longer reaches its master. -/
theorem witness_NetworkFaultsAct_remote :
    linked.isMaster = true ∧ (linked.others.any fun i => !(linked.anyWqUp && (1 : BitVec 8).getLsbD i)) = true ∧ linked.voidable ∧ linked.tmb.hold = false
    ∧ up.isMaster = true ∧ (up.others.any fun i => !(up.anyWqUp && (1 : BitVec 8).getLsbD i)) = true ∧ up.step.running = false
    ∧ member1.isMaster = false ∧ member1.others.contains member1.pkg.master.toNat = true
    ∧ (member1.anyWqUp && (2 : BitVec 8).getLsbD member1.pkg.master.toNat) = false := by unfold State.voidable; decide +kernel
/-- The last identity to come. -/
theorem witness_MspAnswersFillAndFree_last :
    let s : State := { up with pkg := { up.pkg with settled := false }, msps := (Vector.replicate 6 { idDone := true, absent := true }).set 3 {}
                               cells := up.cells.set 5 { pwr := .wiping, toTest := true } }
    (s.msps.get 3).idDone = false ∧ (∀ n, n ≠ 3 → (s.msps.get n).idDone = true) ∧ (s.cell 5).toTest = true ∧ (s.cell 5).pwr = .wiping := by decide +kernel

theorem witness_StepsOpenAndClose_dueLaunch :
    (({ armedUp.clk with gtc := 100 } : Clk).dueLaunch).map (·.1) = some 100 ∧ (({ up.clk with reached := some 7, gtc := 100 } : Clk).dueLaunch).map (·.1) = some 7
    ∧ (({ up.clk with gtc := 100 } : Clk).dueLaunch) = none := by decide +kernel

/-- A fatal report waits in coalescing mode, in a drain and before one. -/
def fatalReport : Report := { aReport with sev := .instfatal }
def fatalWaits (draining : Bool) : State :=
  { up with log := { up.log with intakes := up.log.intakes.set 4 { fatal := [fatalReport] }, coal := true, draining := draining, table := [aReport] } }
theorem witness_LogRecordsAndFlushes_fatal :
    ∀ b : Bool, (fatalWaits b).recorderOn = true ∧ (fatalWaits b).log.draining = b ∧ (fatalWaits b).log.intakes.any Intake.crowded = false
    ∧ ((fatalWaits b).log.takeFatal).map (·.1) = some fatalReport ∧ (fatalWaits b).log.coal = true ∧ (fatalWaits b).log.flush = none := by decide +kernel
theorem witness_LogRecordsAndFlushes_drain_none :
    let s : State := { up with log := { up.log with coal := true, table := [aReport] } }
    let c : State := { s with log := { s.log with draining := true, intakes := s.log.intakes.set 4 { ordinary := List.replicate 32 aReport } } }
    s.log.takeFatal = none ∧ c.log.takeFatal = none := by decide +kernel

/-- A wipe that waits for the block's own clients, and one whose memories cannot be corrected. -/
theorem witness_ResetAndStartUp_wipe_waits :
    let s : State := { up with pins := { up.pins with wiping := true, ready := false } }
    let w : State := { s with cba := { s.cba with want := s.cba.want.setIfInBounds 208 5 } }
    w.pins.trans = false ∧ w.cba.ownServed = false ∧ s.pins.rstN = true ∧ s.pins.wiping = true ∧ s.pins.trans = false ∧ s.cba.ownServed = true := by
  decide +kernel

/-- A PAUSE whose response waits when instance 1 is lost, and one that has lost it before. -/
theorem witness_MailboxProtocol_aborted :
    let b (l : Option (BitVec 3)) : State :=
      { up with mbs := up.mbs.set 2 { st := .busy, cur := some { req := 0x0109, started := true, resp := some (answer resOk), lost := l } } }
    ∀ l ∈ [none, some 1], (b l).busOn ∧ (b l).firmwareRuns = true ∧ ((b l).mbs.get 2).cur.map (·.lost) = some l ∧ (b l).others.contains (1 : BitVec 3).toNat = true
      ∧ (b l).waitOver .none = true := by
  unfold State.busOn; decide +kernel

/-- A route with a run, one with a kick that has been taken, one with neither; a launch that a later write found reached; offsets that take no write. -/
theorem witness_HostWritesAct_cases :
    mapped.routeTaken 5 = false ∧ (withRun copyRun).routeTaken 5 = true ∧ (kicked copyD).routeTaken 5 = true ∧ (kicked copyD).busOn
    ∧ hostWritable 0x28 = false ∧ hostWritable 0x100000 = false ∧ hostWritable 0x300000 = false ∧ hostWritable 0x24 = true := by
  unfold State.busOn; decide +kernel

/-- Puts that wait: at a port, and of a run nobody waits for. -/
theorem witness_RoutesAndTablesAct_abort_waits :
    let q := reqWith 0x0105 0 []
    let r : Run := { copyRun with desc := mkDesc [(0, 0x88), (64, 0x2)] [1], waitSince := some 0 }
    (ask waitingPut q).begins 0 0x0105 q ∧ ((ask waitingPut q).port dep0).cmds = [{ putCmd with waitSince := some 0 }] ∧ putCmd.op = opSTASHPUT
    ∧ (ask (withRun r) q).begins 0 0x0105 q ∧ ((ask (withRun r) q).quad 0).runs = [r] ∧ r.code = none ∧ (dKind r.desc = kPUT) ∧ (ask (withRun r) q).waiters r.seq = [] :=
  ⟨begins_of _ _ _ (by decide +kernel), by decide +kernel, by decide, begins_of _ _ _ (by decide +kernel), by decide +kernel⟩
/-- The stack of a dirty line has a fenced port while a step runs. -/
theorem witness_RoutesAndTablesAct_flush_fenced :
    let s : State := ask { dirtyLine with step := running.step, msps := dirtyLine.msps.set 0 { ident := [16, 0, 0, 0], idDone := true, fenced := true } } flushReq
    s.begins 0 0x010E flushReq ∧ s.linesIn (pf flushReq 0 8) (pf flushReq 8 8) = [⟨0x100, 0xFF, 0xFF, 0⟩] ∧ (s.fencedAt 0x100).isSome = true ∧ s.voidable :=
  ⟨begins_of _ _ _ (by decide +kernel), by decide +kernel, by decide +kernel, by unfold State.voidable; decide +kernel⟩
/-- PREEMPT meets a load before row 0, and a store with a part of row 0 written, its last row or not. -/
theorem witness_RoutesAndTablesAct_preempt_moving :
    let q := reqWith 0x010F 8 [(0, 1)]
    let segs := [(0, [(0x100E0, 32), (0x10100, 224)])]
    let c (n : Nat) : Cmd := { lsCmd true segs with ls := some { lsProg true segs with parts := [0], n := n } }
    let s (n : Nat) : State := ask (stacked.modPort dep0 fun x => { x with cmds := [c n] }) q
    (ask (moving false []) q).begins 0 0x010F q ∧ (ask (moving false []) q).mspsOpen ∧ (ask (moving false []) q).holds dep0 7 (lsCmd false [])
    ∧ ((ask (moving false []) q).cell 0).logical = some 0 ∧ pf q 0 8 / 2 ^ (0 : LCell).toNat % 2 = 1
    ∧ ((ask (moving false []) q).cell 0).tile? (lsCmd false []).tileNo = some someTile
    ∧ ∀ n ∈ [1, 2], Begins (s n) 0x010F q = true ∧ (s n).holds dep0 7 (c n) ∧ (segs.find? fun y => y.1 == 0).isSome = true := by
  refine ⟨begins_of _ _ _ (by decide +kernel), ?_⟩
  unfold State.mspsOpen State.holds; decide +kernel

/-- The second turn of a life-cycle transition, whose flush is over. -/
theorem witness_MaintenanceActs_life_second :
    let r : MReq := { req := lifeReq 4, started := true }
    let s : State := { up with pins := { up.pins with trans := true }, mbs := up.mbs.set 0 { up.mbs.get 0 with classes := 0x1F, cur := some r } }
    s.firmwareRuns = true ∧ (s.mbs.get 0).cur = some r ∧ r.resp = none ∧ reqOp r.req = 0x0400 ∧ lifeOf (pf r.req 0 1) = some .returned ∧ s.pins.trans = true := by
  decide +kernel
/-- A spare that is powering up is disabled. -/
theorem witness_MaintenanceActs_cell_enabling :
    let s : State := { up with cba := { up.cba with want := up.cba.want.setIfInBounds (cellClient 67) 2 } }
    (ask s (cellReq 67 0)).begins 0 0x0305 (cellReq 67 0) ∧ (s.cell 67).down = false ∧ (s.cell 67).pwr = .off ∧ s.enabling 67 = true
    ∧ (s.cell 67).logical = none ∧ (s.cell 67).retired = false ∧ (s.cell 67).filling = false :=
  ⟨begins_of _ _ _ (by decide +kernel), by decide +kernel⟩

/-- The commands that R357 lists with scope P are those the package's words know. -/
theorem test_pkg_commands : ((List.range 0x500).all fun op => isPkgOp op == ((cmdRow op).map (·.pkg)).getD false) = true := by decide +kernel

/-- A read of three sectors whose third has come: the first may come next, the third again and a fourth are violations, as is another id. -/
def threeSectors : State := { outstanding with msps := outstanding.msps.set 0 { outstanding.msps.get 0 with txns := [⟨5, false, 0x300, 3, 4, 0, 0⟩, ⟨6, true, 0x300, 1, 0, 0, 0⟩] } }
theorem witness_MspAnswersFillAndFree_sectors :
    let x : Txn := ⟨5, false, 0x300, 3, 4, 0, 0⟩
    threeSectors.asleep = false ∧ threeSectors.Inv ∧ (threeSectors.msps.get 0).txns.find? (fun t => t.id == 5 && !t.write) = some x
    ∧ (0 : BitVec 4).toNat < x.len ∧ x.got.getLsbD 0 = false ∧ (threeSectors.freeWay 0x300).isSome = true ∧ x.got ||| (1 <<< 0) ≠ BitVec.ofNat 16 (2 ^ x.len - 1)
    ∧ x.got.getLsbD 2 = true ∧ x.len ≤ (3 : BitVec 4).toNat ∧ (threeSectors.msps.get 0).txns.find? (fun t => t.id == 9 && !t.write) = none
    ∧ (threeSectors.msps.get 0).txns.find? (fun t => t.id == 9 && t.write) = none ∧ (threeSectors.msps.get 0).fenced = false
    ∧ (threeSectors.recentViols 1 (threeSectors.msps.get 0).viols).length + 1 < fenceLimit threeSectors 1 ∧ (threeSectors.msps.get 0).idDone = true
    ∧ threeSectors.net.misses = [] := by
  unfold State.Inv; decide +kernel
/-- A miss of a line of stack 0 waits for an id. -/
theorem witness_MspAnswersFillAndFree_miss :
    let s : State := { threeSectors with net := { threeSectors.net with misses := [⟨0x300, 2, 0⟩] } }
    (s.msps.get 0).txns.find? (fun t => t.id == 6 && t.write) = some ⟨6, true, 0x300, 1, 0, 0, 0⟩
    ∧ (s.interleave (paLocal (0x300 * 256))).map (·.1) = some 0 ∧ (s.msps.get 0).fenced = false ∧ s.asleep = false := by decide +kernel
/-- The ring has no room for the entry of a drain, and has room for a fatal one. -/
theorem witness_LogRecordsAndFlushes_room :
    let s : State := { up with log := { up.log with coal := true, draining := true, head := 960, table := [aReport] } }
    let f : State := { s with log := { s.log with table := [fatalReport] } }
    s.log.takeFatal = none ∧ s.log.unread = 960 ∧ s.log.table.foldr insertReport [] = [aReport] ∧ aReport.sev.fatal = false ∧ s.recorderOn = true
    ∧ s.log.intakes.any Intake.crowded = false ∧ f.log.table.foldr insertReport [] = [fatalReport] ∧ fatalReport.sev.fatal = true := by decide +kernel

/-- A fill with the identity words of start-up and with others; one that fails with a spare left and with none. -/
theorem witness_CellStagesAndScrub_fill_ident :
    let f : BitVec 64 := 0x1000000000000000
    let g : BitVec 64 := 0x2000000000000000
    let s : State := (filling 4).modCell 16 fun c => { c with pwr := .ready, dep := { idStart := f }, sep := { idStart := g } }
    s.fills.cur = some ⟨0, 0, 16, 4⟩ ∧ (s.cell 16).down = false ∧ s.idsGood 16 [⟨⟨16, false⟩, f, f, f, f⟩, ⟨⟨16, true⟩, g, g, g, g⟩] = true
    ∧ s.idsGood 16 [] = false ∧ (s.cell 16).spare = false ∧ s.asleep = false := by decide +kernel
theorem witness_CellStagesAndScrub_fill_fails :
    let ok (s : State) : PCell → Bool := fun p => !s.glob.detmode || (s.cell p).canon
    let s : State := (filling 2).setCell 33 { spare := true }
    let n : State := { filling 2 with cells := (filling 2).cells.map fun c => { c with spare := false } }
    ((s.spares 0).find? (ok s)).isSome = true ∧ (n.spares 0).find? (ok n) = none ∧ (n.cell 16).spare = false ∧ (s.cell 16).spare = false
    ∧ (n.cell 16).down = false ∧ (n.cell 16).pwr = .wiping := by decide +kernel
/-- A mapped cell that is retired; cells that fail on the enable path, one of them under repair; one wiped on its way to OFF. -/
theorem witness_CellStagesAndScrub_retired :
    (running.cell 0).retired = false ∧ running.fills.cur = none ∧ running.fills.queue = [] ∧ (running.cell 0).logical.isSome = true
    ∧ (running.cell 0).spare = false ∧ (running.cell 0).down = false ∧ (running.cell 0).pwr ≠ .off := by decide +kernel
theorem witness_CellStagesAndScrub_power_fails :
    ∀ b : Bool, let s : State := up.setCell 16 { pwr := .bist, repairing := b, again := b, retired := b }
    (s.cell 16).filling = false ∧ s.pins.ready = true ∧ (s.cell 16).toTest = false ∧ (s.cell 16).down = false ∧ (s.cell 16).again = b
    ∧ s.idsGood 16 [] = false ∧ ((up.setCell 16 { pwr := .wiping, down := true }).cell 16).pwr = .wiping := by decide +kernel
/-- An instance that its clock check holds in the wipe (R29). -/
theorem witness_ResetAndStartUp_held :
    ({ up with pins := { up.pins with wiping := true, held := true, ready := false } } : State).asleep = true ∧ up.pins.held = false := by decide +kernel

/-- A joined instance whose master is another. -/
theorem witness_JobControlActs_master :
    member1.firmwareRuns = true ∧ member1.pins.preRstN = true ∧ member1.pkg.settled = true ∧ member1.isMaster = false
    ∧ member1.pkg.present.getLsbD member1.pins.instanceId.toNat = true ∧ up.isMaster = true
    ∧ reqOp (haltReq 1) = 0x0108 ∧ pf (haltReq 1) 0 1 = 1 ∧ reqOp (reqWith 0x0106 8 [(0, 5)]) = 0x0106 ∧ reqOp (reqWith 0x0109 0 []) = 0x0109
    ∧ reqOp (reqWith 0x0205 15 [(14, 1)]) = 0x0205 ∧ pf (reqWith 0x0205 15 [(14, 1)]) 14 1 = 1 := by decide +kernel

end Sys2Proof.Tests
end

section
/-! SUPPORT. The frames of a completed command, put together from the frames of its parts (R51, R97, R98). -/

namespace Sys2Proof.Machine

/-- Within the frame of `CellFrame`, every cell changes in its two ports alone. -/
structure PortFrame (s t : State) : Prop where
  rest  : CellFrame s t
  cells : ∀ q, t.cell q = { s.cell q with dep := (t.cell q).dep, sep := (t.cell q).sep }

theorem PortFrame.trans {s t u : State} (a : PortFrame s t) (b : PortFrame t u) : PortFrame s u where
  rest := a.rest.trans b.rest
  cells q := by rw [b.cells q, a.cells q]

theorem State.modPort_portFrame (s : State) (e : EPort) (f : Port → Port) : PortFrame s (s.modPort e f) where
  rest := State.modCell_cellFrame s e.p _
  cells q := by
    by_cases hq : q = e.p
    · subst hq
      rw [State.modPort, State.cell_modCell]
      unfold Cell.setPort
      cases e.sep <;> rfl
    · rw [State.modPort, State.cell_modCell_ne _ _ hq]

theorem State.putCmd_portFrame (s : State) (e : EPort) (c : Cmd) : PortFrame s (s.putCmd e c) :=
  State.modPort_portFrame s e _

theorem State.settle_portFrame (s : State) : PortFrame s s.settle where
  rest := State.settle_cellFrame s
  cells q := by
    obtain ⟨a, b, h⟩ := State.settle_cell s q
    rw [h]

theorem State.complete_ok_portFrame (s : State) (e : EPort) (c : Cmd) (d : Word) (r : Nat) : PortFrame s (s.complete e c .ok d r) where
  rest := State.complete_cellFrame s e c .ok d r
  cells q := by
    by_cases hq : q = e.p
    · subst hq
      obtain ⟨a, b, h⟩ := State.complete_cell s e c d r
      rw [h]
    · rw [State.complete_cell_ne s e c .ok d r hq]

/-! ### Commands that fail -/

theorem PortFrame.failFrame {s t : State} (h : PortFrame s t) (p : PCell) : FailFrame s t p where
  rest := h.rest
  other q _ := h.cells q
  own := by rw [h.cells p]

theorem FailFrame.trans {s t u : State} {p : PCell} (a : FailFrame s t p) (b : FailFrame t u p) : FailFrame s u p where
  rest := a.rest.trans b.rest
  other q hq := by rw [b.other q hq, a.other q hq]
  own := by rw [b.own, a.own]

/-- In its own cell a completion changes the two ports and TF_FAULT alone (R98). -/
theorem State.complete_cell_fault (s : State) (e : EPort) (c : Cmd) (k : Code) (d : Word) (r : Nat) :
    ∃ a b f, (s.complete e c k d r).cell e.p = { s.cell e.p with dep := a, sep := b, tfFault := f } := by
  have hp : ∃ f, (s.present e c.op c.tag (faultTile c k d) k d r).cell e.p = { s.cell e.p with tfFault := f } := by
    unfold State.present
    dsimp only
    split
    · exact ⟨_, rfl⟩
    · unfold State.tfFault
      rw [State.cell_modCell]
      split <;> exact ⟨_, rfl⟩
  obtain ⟨f, hf⟩ := hp
  unfold State.complete
  rw [State.cell_modCell, hf]
  unfold Cell.setPort
  cases e.sep <;> exact ⟨_, _, f, rfl⟩

theorem State.complete_failFrame (s : State) (e : EPort) (c : Cmd) (k : Code) (d : Word) (r : Nat) :
    FailFrame s (s.complete e c k d r) e.p where
  rest := State.complete_cellFrame s e c k d r
  other q hq := by rw [State.complete_cell_ne s e c k d r hq]
  own := by
    obtain ⟨a, b, f, h⟩ := State.complete_cell_fault s e c k d r
    rw [h]

/-! ### Commands that change tiles -/

theorem PortFrame.tile? {s t : State} (h : PortFrame s t) (p : PCell) (n : TileNo) : (t.cell p).tile? n = (s.cell p).tile? n := by
  rw [h.cells p]
  rfl

theorem PortFrame.tileFrame {s t : State} (h : PortFrame s t) (p : PCell) (ns : List TileNo) : TileFrame s t p ns where
  rest := h.rest
  other q _ := h.cells q
  own := by rw [h.cells p]
  tiles n _ := h.tile? p n
  back := by rw [h.cells p]; exact ⟨fun _ hx => hx, fun _ hx _ => hx⟩

theorem TileFrame.trans {s t u : State} {p : PCell} {ns : List TileNo} (a : TileFrame s t p ns) (b : TileFrame t u p ns) :
    TileFrame s u p ns where
  rest := a.rest.trans b.rest
  other q hq := by rw [b.other q hq, a.other q hq]
  own := by rw [b.own, a.own]
  tiles n hn := (b.tiles n hn).trans (a.tiles n hn)
  back := ⟨fun x hx => a.back.1 x (b.back.1 x hx), fun x hx hn => b.back.2 x (a.back.2 x hx hn) hn⟩

/-! ### Completions behind later steps -/

/-- A completion presented first stays first as FENCE commands settle. -/
theorem State.completes.settle {s t : State} {e : EPort} {op tag : Byte} {code : Code} {d : Word} (h : s.completes t e op tag code d) :
    s.completes t.settle e op tag code d :=
  List.IsPrefix.trans h (State.settle_outs t)

/-- The completion of a command is presented first, over any state with the outputs of `s`. -/
theorem State.complete_completes {s t : State} (h : t.outs = s.outs) (e : EPort) (c : Cmd) (k : Code) (d : Word) :
    s.completes (t.complete e c k d) e c.op c.tag k d := by
  have ho : (t.complete e c k d).outs = s.outs ++ [.cpl e (cplWord d 0 c.op k c.tag)] := by rw [State.complete_outs, h]
  exact ⟨[], by rw [List.append_nil, ho]⟩

/-! ### The state in which a command starts -/

/-- The state in which a command runs that starts as its beat is taken: it is the only one of its port. -/
def State.begun (s : State) (e : EPort) (c : Cmd) : State :=
  (s.modPort e fun q => { q with cmds := [c] }).putCmd e { c with started := true }

theorem State.begun_portFrame (s : State) (e : EPort) (c : Cmd) : PortFrame s (s.begun e c) :=
  (State.modPort_portFrame s e _).trans (State.putCmd_portFrame _ e _)

@[simp] theorem State.begun_outs (s : State) (e : EPort) (c : Cmd) : (s.begun e c).outs = s.outs := rfl

@[simp] theorem State.begun_idNow (s : State) (e : EPort) (c : Cmd) : ((s.begun e c).port e).idNow = (s.port e).idNow := by
  simp [State.begun, State.putCmd]

theorem beatOf_op (op tag : Byte) (arg : BitVec 112) : (beatOf op tag arg).extractLsb' 0 8 = op :=
  BitVec.extractLsb'_append_eq_right

theorem beatOf_tag (op tag : Byte) (arg : BitVec 112) : (beatOf op tag arg).extractLsb' 8 8 = tag := by
  unfold beatOf
  rw [BitVec.extractLsb'_append_eq_of_le (by decide), BitVec.extractLsb'_append_eq_right]

/-- Only RVREAD, STASHPUT and FENCE remember more of the moment they were taken than their beat. -/
theorem State.newCmd_beat_only (s : State) (e : EPort) {op : Byte} (tag : Byte) (arg : BitVec 112) (hr : op ≠ opRVREAD) (hp : op ≠ opSTASHPUT)
    (hf : op ≠ opFENCE) : s.newCmd e (beatOf op tag arg) = { beat := beatOf op tag arg } := by
  have hop : (Cmd.op { beat := beatOf op tag arg }) = op := beatOf_op op tag arg
  unfold State.newCmd
  simp only [hop, hr, hp, hf, if_false, decide_false, Bool.false_and, Bool.false_eq_true]

end Sys2Proof.Machine
end

section
/-! PROOFS. TCFG (R83, R84). -/

namespace Sys2Proof.Machine

/-- BPk layout is required of the BPk formats and of no other (R83). -/
theorem layout_ne_isBP_iff (k : TileCfg) : (k.layout != isBP k.fmt) = true
    ↔ (k.layout = true ∧ ¬ (0x10 ≤ k.fmt.toNat ∧ k.fmt.toNat ≤ 0x17)) ∨ (k.layout = false ∧ 0x10 ≤ k.fmt.toNat ∧ k.fmt.toNat ≤ 0x17) := by
  rw [bne_iff_ne, isBP]
  cases k.layout <;> simp

/-- The model's checks of a TCFG are those of R83 in their order. -/
theorem State.tcfgCheck_eq_tcfgCode (s : State) (e : EPort) (c : Cmd) : s.tcfgCheck e c = tcfgCode s e c.tileNo (tcfgOf c) := by
  unfold State.tcfgCheck tcfgCode
  have hf : (!fmtDefined (tcfgOf c).fmt || isNP4 (tcfgOf c).fmt) = true ↔ fmtDefined (tcfgOf c).fmt = false ∨ (tcfgOf c).fmt = 0x1E := by
    simp [isNP4]
  have h9 : ((tcfgOf c).fmt == 0x09 && (tcfgOf c).bytes % 96 != 0) = true
      ↔ (tcfgOf c).fmt = 0x09 ∧ (32 * ((tcfgOf c).rb.toNat + 1)) % 96 ≠ 0 := by
    simp [TileCfg.bytes]
  simp only [hf, h9, layout_ne_isBP_iff, Bool.not_eq_true', Bool.not_eq_true]
  cases (s.cell e.p).tile? c.tileNo <;> simp

/-- The checks read nothing of the port but its format set. -/
theorem State.begun_tcfgCheck (s : State) (e : EPort) (c d : Cmd) : (s.begun e c).tcfgCheck e d = s.tcfgCheck e d := by
  unfold State.tcfgCheck
  simp only [State.begun_idNow, (s.begun_portFrame e c).tile?]

/-! ### The tile that is configured (R84) -/

@[simp] theorem Cell.tile_forget (c : Cell) (n m : TileNo) : (c.forget n).tile? m = c.tile? m := rfl

/-- A tile in use stays as it is, another has the configuration and no valid row. -/
theorem Cell.configure_tile_same {c : Cell} {n : TileNo} {x : Tile} (k : TileCfg) (h : c.tile? n = some x) :
    (c.configure n k).tile? n = some (if x.inUse then x else { x with cfg := some k, valid := 0, written := 0 }) := by
  unfold Cell.configure
  rw [h, Option.any_some]
  split
  · exact h
  · rw [Cell.tile_forget, Cell.tile_modTile, if_pos rfl, h, Option.map_some]

theorem Cell.configure_tile_ne (c : Cell) {n m : TileNo} (k : TileCfg) (h : m ≠ n) : (c.configure n k).tile? m = c.tile? m := by
  unfold Cell.configure
  split
  · rfl
  · rw [Cell.tile_forget, Cell.tile_modTile, if_neg h]

/-- Of a cell, TCFG changes the tiles and the ports' memory of recent writes alone. -/
theorem Cell.configure_eq (c : Cell) (n : TileNo) (k : TileCfg) :
    ∃ a b x, c.configure n k = { c with dep := a, sep := b, tiles := x } := by
  unfold Cell.configure Cell.modTile Cell.forget
  repeat' split
  all_goals exact ⟨_, _, _, rfl⟩

theorem State.configure_tileFrame (s : State) (p : PCell) (n : TileNo) (k : TileCfg) :
    TileFrame s (s.modCell p fun c => c.configure n k) p [n] where
  rest := State.modCell_cellFrame s p _
  other q hq := by rw [State.cell_modCell_ne _ _ hq]
  own := by
    obtain ⟨a, b, x, h⟩ := (s.cell p).configure_eq n k
    rw [State.cell_modCell, h]
  tiles m hm := by rw [State.cell_modCell, Cell.configure_tile_ne _ _ (by simpa using hm)]
  back := by
    obtain ⟨a, b, x, h⟩ := (s.cell p).configure_eq n k
    rw [State.cell_modCell, h]
    exact ⟨fun _ hx => hx, fun _ hx _ => hx⟩

/-! ### TCFG as it runs -/

/-- A TCFG that passes its checks configures its tile and completes with OK. -/
theorem State.startTcfg_passes {s u : State} {e : EPort} {c : Cmd} (hu : PortFrame s u) (ho : u.outs = s.outs) (hc : u.tcfgCheck e c = .ok) :
    s.completes (u.startTcfg e c) e c.op c.tag .ok 0 ∧ TileFrame s (u.startTcfg e c) e.p [c.tileNo]
    ∧ ∀ x, (s.cell e.p).tile? c.tileNo = some x → ((u.startTcfg e c).cell e.p).tile? c.tileNo
        = some (if x.inUse then x else { x with cfg := some (tcfgOf c), valid := 0, written := 0 }) := by
  have hrun : u.startTcfg e c = (u.modCell e.p fun x => x.configure c.tileNo (tcfgOf c)).complete e c .ok 0 := by
    unfold State.startTcfg
    exact if_pos hc
  rw [hrun]
  have hdone := State.complete_ok_portFrame (u.modCell e.p fun x => x.configure c.tileNo (tcfgOf c)) e c 0 0
  refine ⟨State.complete_completes ho e c .ok 0, ?_, fun x hx => ?_⟩
  · exact ((hu.tileFrame e.p _).trans (u.configure_tileFrame e.p c.tileNo (tcfgOf c))).trans (hdone.tileFrame e.p _)
  · rw [hdone.tile?, State.cell_modCell]
    exact Cell.configure_tile_same (tcfgOf c) ((hu.tile? e.p _).trans hx)

/-- A TCFG that fails a check changes no tile and completes with its code and the tile in DETAIL. -/
theorem State.startTcfg_fails {s u : State} {e : EPort} {c : Cmd} (hu : PortFrame s u) (ho : u.outs = s.outs) (hc : u.tcfgCheck e c ≠ .ok) :
    s.completes (u.startTcfg e c) e c.op c.tag (u.tcfgCheck e c) (tileDetail c.tileNo) ∧ FailFrame s (u.startTcfg e c) e.p := by
  have hrun : u.startTcfg e c = u.complete e c (u.tcfgCheck e c) (tileDetail c.tileNo) := by
    unfold State.startTcfg
    exact if_neg hc
  rw [hrun]
  exact ⟨State.complete_completes ho e c _ _, (hu.failFrame e.p).trans (u.complete_failFrame e c _ _ 0)⟩

/-- A command of opcode TCFG runs `startTcfg`. -/
theorem State.startCmd_tcfg {s : State} {e : EPort} {c : Cmd} (ecc : List RowEcc) (h : c.op = opTCFG) :
    s.startCmd e c ecc = (s.putCmd e { c with started := true }).startTcfg e { c with started := true } := by
  have h' : (Cmd.op { c with started := true }) = opTCFG := h
  unfold State.startCmd
  simp [h', opTCFG]

/-- A TCFG that starts as it is taken runs alone in its port. -/
theorem exec_tcfg_startsNow {s : State} {e : EPort} {tag : Byte} {arg : BitVec 112} (h : s.startsNow e opTCFG tag arg) :
    exec (.tcfg e tag arg) s = .next (((s.begun e { beat := beatOf opTCFG tag arg }).startTcfg e
      { beat := beatOf opTCFG tag arg, started := true }).settle).settle := by
  have hx : exec (.tcfg e tag arg) s = .next (s.takeBeat e opTCFG tag arg).settle := rfl
  have hop : (Cmd.op { beat := beatOf opTCFG tag arg }) = opTCFG := beatOf_op opTCFG tag arg
  rw [hx, State.takeBeat_startsNow [] h rfl (fun _ => rfl), State.newCmd_beat_only s e tag arg (by decide) (by decide) (by decide),
    State.startCmd_tcfg [] hop]
  rfl

theorem tcfg_tileNo {c : Cmd} (h : c.op = opTCFG) : c.tileNo = c.beat.extractLsb' 24 5 := by
  unfold Cmd.tileNo
  rw [h]
  rfl

/-- Settles O9: the command starts on the state `begun`, whose checks are those of `s`; what `startTcfg` answers in each case stays as FENCE
commands settle. -/
theorem tcfgChecksAndConfigures : Obligations.TcfgChecksAndConfigures := by
  unfold Obligations.TcfgChecksAndConfigures
  intro e tag arg s hs b n k code
  have hop : (Cmd.op { beat := b, started := true }) = opTCFG := beatOf_op opTCFG tag arg
  have htag : (Cmd.tag { beat := b, started := true }) = tag := beatOf_tag opTCFG tag arg
  have hn : (Cmd.tileNo { beat := b, started := true }) = n := tcfg_tileNo hop
  have hu : PortFrame s (s.begun e { beat := b }) := s.begun_portFrame e _
  have ho : (s.begun e { beat := b }).outs = s.outs := s.begun_outs e _
  have hcode : (s.begun e { beat := b }).tcfgCheck e { beat := b, started := true } = code := by
    rw [State.begun_tcfgCheck, State.tcfgCheck_eq_tcfgCode, hn]
    rfl
  have hsettle (u : State) : PortFrame u u.settle.settle := (State.settle_portFrame _).trans (State.settle_portFrame _)
  refine ⟨_, exec_tcfg_startsNow hs, fun hok => ?_, fun hbad => ?_⟩
  · obtain ⟨hdone, hframe, htile⟩ := State.startTcfg_passes hu ho (hcode.trans hok)
    rw [hop, htag] at hdone
    rw [hn] at hframe htile
    refine ⟨hdone.settle.settle, hframe.trans ((hsettle _).tileFrame e.p [n]), fun x hx => ?_⟩
    rw [(hsettle _).tile?]
    exact htile x hx
  · obtain ⟨hdone, hframe⟩ := State.startTcfg_fails hu ho (fun h => hbad (hcode.symm.trans h))
    rw [hop, htag, hcode, hn] at hdone
    exact ⟨hdone.settle.settle, hframe.trans ((hsettle _).failFrame e.p)⟩

end Sys2Proof.Machine
end

section
/-! SUPPORT. Register words by their bits, the register map at the cells, and the host's read of the lower half of a pair (R15, R16, R434). -/

namespace Sys2Proof.Machine

/-! ### Words by their bits -/

/-- A bit of a register word, from the number that the word holds. -/
theorem w32_bit {n i : Nat} {b : Bool} (hi : i < 32) (h : n / 2 ^ i % 2 = b.toNat) : (w32 n).getLsbD i = b := by
  rw [w32, BitVec.getLsbD_ofNat, Nat.testBit_eq_decide_div_mod_eq, decide_eq_true hi, Bool.true_and, h]
  cases b <;> rfl

/-- A field of a register word, from the number that the word holds. -/
theorem w32_field {n i w : Nat} {f : BitVec w} (hi : i + w ≤ 32) (h : n / 2 ^ i % 2 ^ w = f.toNat) : (w32 n).extractLsb' i w = f := by
  apply BitVec.eq_of_getLsbD_eq
  intro j hj
  have hf : f = BitVec.ofNat w (n / 2 ^ i) := BitVec.eq_of_toNat_eq (by rw [BitVec.toNat_ofNat, h])
  rw [BitVec.getLsbD_extractLsb', decide_eq_true hj, Bool.true_and, hf, BitVec.getLsbD_ofNat, Nat.testBit_div_two_pow, w32,
    BitVec.getLsbD_ofNat, decide_eq_true (by omega : i + j < 32), decide_eq_true hj, Nat.add_comm]

theorem bitAt_eq (b : Bool) (k : Nat) : bitAt b k = 2 ^ k * b.toNat := by
  cases b <;> simp [bitAt]

/-! ### Cell registers in the register map (R434) -/

theorem regAt_cell (s : State) (p : PCell) {o : Nat} (ho : o < 0x2000) : regAt s (0x100000 + 0x2000 * p.val + o) = cellReg s p o := by
  have hp := p.isLt
  have hq : (0x100000 + 0x2000 * p.val + o - 0x100000) / 0x2000 = p.val := by omega
  have hr : (0x100000 + 0x2000 * p.val + o - 0x100000) % 0x2000 = o := by omega
  unfold regAt
  simp only [hq, hr]
  repeat rw [if_neg (by omega)]
  rw [dif_neg (by omega), if_neg (by omega), dif_pos (by omega)]

/-- The two words of a tile configuration, of a cell whose power state answers (R70, R81, R82). -/
theorem cellReg_tile {s : State} {p : PCell} (n : Fin 24) {k : Nat} (hk : k < 8) (h : (s.cell p).pwr.answers = true) :
    cellReg s p (0x100 + 8 * n.val + k) =
      if k = 0 then some (tcfgLo ((s.cell p).tiles.get n)) else if k = 4 then some (tcfgHi s p n) else none := by
  have hn := n.isLt
  have hq : (0x100 + 8 * n.val + k - 0x100) / 8 = n.val := by omega
  have hr : (0x100 + 8 * n.val + k) % 8 = k := by omega
  unfold cellReg
  simp only [hq, hr, h, if_true]
  repeat rw [if_neg (by omega)]
  rw [if_pos (by omega), dif_pos hn]

/-! ### The host's read of the lower half of a pair (R16, R419) -/

theorem find_setLatch (l : List (Nat × Word)) (o : Nat) (w : Word) : (setLatch l o w).find? (fun x => x.1 = o) = some (o, w) := by
  simp [setLatch]

theorem State.regRead_busOn {s : State} (h : s.busOn) (o : Nat) : s.regRead o = regAt s o := by
  unfold State.regRead
  rw [h.2]
  rfl

/-- A read of the lower half of a pair answers its value and latches the upper half, and does nothing else. -/
theorem exec_pairLoReadLatch {s : State} {off : BitVec 24} {v : Word} (hb : s.busOn) (ha : off.toNat % 4 = 0) (hp : isPairLo off.toNat = true)
    (hv : regAt s off.toNat = some v) :
    exec (.pairLoReadLatch off) s = .next (({ s with glob := { s.glob with
      latches := setLatch s.glob.latches off.toNat ((regAt s (off.toNat + 4)).getD 0) } } : State).cbOk v) := by
  have hx : exec (.pairLoReadLatch off) s = .next (s.hostRead off 0xF) := rfl
  have hr : s.pins.rstN = true := hb.1
  rw [hx]
  unfold State.hostRead
  simp [hr, ha, hp, State.regRead_busOn hb, hv]

end Sys2Proof.Machine
end

section
/-! PROOFS. The host reads a tile configuration (R81, R82). -/

namespace Sys2Proof.Machine

/-! ### TF_TCFG_LO (R81) -/

theorem tcfgLo_unconfigured {x : Tile} (h : x.cfg = none) : tcfgLo x = 0 := by
  rw [tcfgLo, h]

/-- Bit 31 says that the tile is configured; the reserved bits of TF_TCFG_LO are 0. -/
theorem tcfgLo_valid_reserved (x : Tile) :
    (tcfgLo x).getLsbD 31 = x.cfg.isSome ∧ (tcfgLo x).extractLsb' 25 6 = 0#6 ∧ (tcfgLo x).extractLsb' 21 3 = 0#3
    ∧ (tcfgLo x).extractLsb' 11 5 = 0#5 ∧ (tcfgLo x).getLsbD 7 = false := by
  cases h : x.cfg with
  | none => rw [tcfgLo_unconfigured h]; decide
  | some c =>
    have hl := c.layout.toNat_le
    simp only [tcfgLo, h, bitAt_eq]
    exact ⟨w32_bit (by omega) (by rw [Option.isSome_some, Bool.toNat_true]; omega), w32_field (by omega) (by bv_omega),
      w32_field (by omega) (by bv_omega), w32_field (by omega) (by bv_omega), w32_bit (by omega) (by rw [Bool.toNat_false]; omega)⟩

/-- The fields of a configured tile in TF_TCFG_LO. -/
theorem tcfgLo_fields {x : Tile} {c : TileCfg} (h : x.cfg = some c) :
    (tcfgLo x).getLsbD 24 = c.layout ∧ (tcfgLo x).extractLsb' 16 5 = c.fmt ∧ (tcfgLo x).extractLsb' 8 3 = c.rb
    ∧ (tcfgLo x).extractLsb' 0 7 = c.rm1 := by
  have hl := c.layout.toNat_le
  simp only [tcfgLo, h, bitAt_eq]
  exact ⟨w32_bit (by omega) (by omega), w32_field (by omega) (by omega), w32_field (by omega) (by omega), w32_field (by omega) (by omega)⟩

/-! ### TF_TCFG_HI (R82) -/

/-- BUSY_W, BUSY_R and VALIDROWS in TF_TCFG_HI; its reserved bits are 0. -/
theorem tcfgHi_fields (s : State) (p : PCell) (n : Fin 24) :
    (tcfgHi s p n).getLsbD 31 = s.busyW p (BitVec.ofNat 5 n.val) ∧ (tcfgHi s p n).getLsbD 30 = s.busyR p (BitVec.ofNat 5 n.val)
    ∧ (tcfgHi s p n).extractLsb' 24 6 = 0#6 ∧ (tcfgHi s p n).extractLsb' 16 8 = BitVec.ofNat 8 ((s.cell p).tiles.get n).valid
    ∧ (tcfgHi s p n).extractLsb' 0 16 = 0#16 := by
  have hw := (s.busyW p (BitVec.ofNat 5 n.val)).toNat_le
  have hr := (s.busyR p (BitVec.ofNat 5 n.val)).toNat_le
  rw [tcfgHi, bitAt_eq, bitAt_eq]
  exact ⟨w32_bit (by omega) (by omega), w32_bit (by omega) (by omega), w32_field (by omega) (by bv_omega),
    w32_field (by omega) (by bv_omega), w32_field (by omega) (by bv_omega)⟩

/-! ### In reset -/

theorem State.reset_cell (p : PCell) : State.reset.cell p = {} :=
  (vector_get _ p).trans (Vector.getElem_replicate p.isLt)

theorem State.reset_tile (p : PCell) (n : Fin 24) : (State.reset.cell p).tiles.get n = {} := by
  rw [State.reset_cell]
  exact (vector_get _ n).trans (Vector.getElem_replicate n.isLt)

/-- No command and no run uses a tile in reset. -/
theorem State.reset_not_busy (p : PCell) (t : TileNo) : State.reset.busyW p t = false ∧ State.reset.busyR p t = false := by
  unfold State.busyW State.busyR
  rw [State.reset_cell]
  exact ⟨rfl, rfl⟩

/-! ### The read of a pair -/

/-- Both words of a configuration answer at their offsets, and the lower one is the lower half of a pair (R16, R434). -/
theorem tcfg_pair {s : State} {p : PCell} (n : Fin 24) (h : (s.cell p).pwr.answers = true) :
    regAt s (0x100100 + 0x2000 * p.val + 8 * n.val) = some (tcfgLo ((s.cell p).tiles.get n))
    ∧ regAt s (0x100100 + 0x2000 * p.val + 8 * n.val + 4) = some (tcfgHi s p n)
    ∧ isPairLo (0x100100 + 0x2000 * p.val + 8 * n.val) = true := by
  have hp := p.isLt
  have hn := n.isLt
  refine ⟨?_, ?_, ?_⟩
  · rw [show 0x100100 + 0x2000 * p.val + 8 * n.val = 0x100000 + 0x2000 * p.val + (0x100 + 8 * n.val + 0) by omega, regAt_cell s p (by omega)]
    exact cellReg_tile n (by decide) h
  · rw [show 0x100100 + 0x2000 * p.val + 8 * n.val + 4 = 0x100000 + 0x2000 * p.val + (0x100 + 8 * n.val + 4) by omega,
      regAt_cell s p (by omega)]
    exact cellReg_tile n (by decide) h
  · unfold isPairLo
    simp only [Bool.or_eq_true, Bool.and_eq_true, decide_eq_true_eq, beq_iff_eq]
    exact .inr (by omega)

/-- Settles O52: the read is that of a register pair whose halves are the two words of the tile; the fields of each word are its lemmas. -/
theorem tileConfigurationReads : Obligations.TileConfigurationReads := by
  unfold Obligations.TileConfigurationReads
  refine ⟨fun p n s hb ha => ?_, fun p n => ⟨?_, ?_⟩⟩
  · have hp := p.isLt
    have hn := n.isLt
    have ho : (BitVec.ofNat 24 (0x100100 + 0x2000 * p.val + 8 * n.val)).toNat = 0x100100 + 0x2000 * p.val + 8 * n.val := by
      rw [BitVec.toNat_ofNat]
      omega
    obtain ⟨hlo, hhi, hpair⟩ := tcfg_pair n ha
    rw [← ho] at hlo hhi hpair
    have hx := exec_pairLoReadLatch hb (by omega) hpair hlo
    rw [hhi] at hx
    obtain ⟨hvalid, hres25, hres21, hres11, hres7⟩ := tcfgLo_valid_reserved ((s.cell p).tiles.get n)
    exact ⟨_, _, _, hx, rfl, find_setLatch _ _ _, hvalid, hres25, hres21, hres11, hres7, fun c hc => tcfgLo_fields hc, tcfgLo_unconfigured,
      tcfgHi_fields s p n⟩
  · rw [State.reset_tile]
  · obtain ⟨hw, hr⟩ := State.reset_not_busy p (BitVec.ofNat 5 n.val)
    rw [tcfgHi, hw, hr, State.reset_tile]
    rfl

end Sys2Proof.Machine
end

section
/-! SUPPORT. Rows and numbers by their bytes, little end first. -/

namespace Sys2Proof.Machine

theorem natOf_cons (b : Byte) (bs : List Byte) : natOf (b :: bs) = b.toNat + 256 * natOf bs := rfl

theorem natOf_cons_div (b : Byte) (bs : List Byte) : natOf (b :: bs) / 256 = natOf bs := by
  have hb := b.isLt
  rw [natOf_cons]
  omega

theorem natOf_cons_mod (b : Byte) (bs : List Byte) : natOf (b :: bs) % 256 = b.toNat := by
  have hb := b.isLt
  rw [natOf_cons]
  omega

theorem natOf_drop (bs : List Byte) (o : Nat) : natOf (bs.drop o) = natOf bs / 256 ^ o := by
  induction bs generalizing o with
  | nil => rw [List.drop_nil]; exact (Nat.zero_div _).symm
  | cons b bs ih =>
    cases o with
    | zero => rw [List.drop_zero, Nat.pow_zero, Nat.div_one]
    | succ o => rw [List.drop_succ_cons, ih, Nat.pow_succ', ← Nat.div_div_eq_div_mul, natOf_cons_div]

theorem natOf_take (bs : List Byte) (n : Nat) : natOf (bs.take n) = natOf bs % 256 ^ n := by
  induction bs generalizing n with
  | nil => rw [List.take_nil]; exact (Nat.zero_mod _).symm
  | cons b bs ih =>
    cases n with
    | zero => rw [List.take_zero, Nat.pow_zero, Nat.mod_one]; rfl
    | succ n => rw [List.take_succ_cons, natOf_cons, ih, Nat.pow_succ', Nat.mod_mul, natOf_cons_mod, natOf_cons_div]

theorem bytesOf_succ (n v : Nat) : bytesOf (n + 1) v = BitVec.ofNat 8 v :: bytesOf n (v / 256) := by
  have hshift (i : Nat) : v / 2 ^ (8 * (i + 1)) = v / 256 / 2 ^ (8 * i) := by
    rw [Nat.div_div_eq_div_mul, Nat.mul_succ, Nat.pow_add, Nat.mul_comm]
  simp [bytesOf, List.range_succ_eq_map, hshift]

theorem natOf_bytesOf (n v : Nat) : natOf (bytesOf n v) = v % 256 ^ n := by
  induction n generalizing v with
  | zero => exact (Nat.mod_one v).symm
  | succ n ih =>
    calc natOf (bytesOf (n + 1) v)
        = v % 256 + 256 * natOf (bytesOf n (v / 256)) := by rw [bytesOf_succ, natOf_cons, BitVec.toNat_ofNat]
      _ = v % 256 ^ (n + 1) := by rw [ih, Nat.pow_succ', Nat.mod_mul]

theorem extractLsb'_ofNat {w n i k : Nat} (h : i + k ≤ w) : (BitVec.ofNat w n).extractLsb' i k = BitVec.ofNat k (n / 2 ^ i) := by
  apply BitVec.eq_of_getLsbD_eq
  intro j hj
  rw [BitVec.getLsbD_extractLsb', BitVec.getLsbD_ofNat, BitVec.getLsbD_ofNat, Nat.testBit_div_two_pow, decide_eq_true hj,
    decide_eq_true (by omega : i + j < w), Bool.true_and, Bool.true_and, Bool.true_and, Nat.add_comm]

/-- The bits of a row at whole bytes are the number that those bytes make. -/
theorem rowOf_extract (bs : List Byte) {o n : Nat} (h : o + n ≤ 256) :
    (rowOf bs).extractLsb' (8 * o) (8 * n) = BitVec.ofNat (8 * n) (natOf ((bs.drop o).take n)) := by
  rw [rowOf, extractLsb'_ofNat (by omega), natOf_take, natOf_drop]
  apply BitVec.eq_of_toNat_eq
  rw [BitVec.toNat_ofNat, BitVec.toNat_ofNat, Nat.pow_mul, Nat.pow_mul, Nat.mod_mod]

theorem ofNat_toNat_self {w : Nat} (x : BitVec w) : BitVec.ofNat w x.toNat = x := by
  rw [BitVec.ofNat_toNat, BitVec.setWidth_eq]

theorem ofNat_bf {w : Nat} (x : BitVec w) (lo n : Nat) : BitVec.ofNat n (bf x lo n) = x.extractLsb' lo n :=
  ofNat_toNat_self _

/-- A number stored in whole bytes of a row is read back from its bits. -/
theorem rowOf_number {bs : List Byte} {o n v : Nat} (h : o + n ≤ 256) (hv : (bs.drop o).take n = bytesOf n v) :
    (rowOf bs).extractLsb' (8 * o) (8 * n) = BitVec.ofNat (8 * n) v := by
  rw [rowOf_extract bs h, hv, natOf_bytesOf]
  apply BitVec.eq_of_toNat_eq
  rw [BitVec.toNat_ofNat, BitVec.toNat_ofNat, Nat.pow_mul]
  exact Nat.mod_mod _ _

theorem rowByte_rowOf {bs : List Byte} {i : Nat} {y : Byte} (h : i < 256) (hy : bs[i]? = some y) : rowByte (rowOf bs) i = y := by
  have hb : (bs.drop i).take 1 = [y] := by
    rw [List.take_one, List.head?_drop, hy]
    rfl
  have hx := rowOf_extract bs (n := 1) h
  rw [hb] at hx
  exact hx.trans (ofNat_toNat_self y)

end Sys2Proof.Machine
end

section
/-! PROOFS. The layout of a response (R352). -/

namespace Sys2Proof.Machine

/-- The header of a response: each field of R352 at its bytes. -/
theorem rspBits_header (req : Req) (x : Resp) :
    (rspBits req x).extractLsb' 0 16 = req.extractLsb' 0 16 ∧ (rspBits req x).extractLsb' 16 8 = 0x01#8
    ∧ (rspBits req x).extractLsb' 24 8 = 0x00#8 ∧ (rspBits req x).extractLsb' 32 32 = req.extractLsb' 32 32
    ∧ (rspBits req x).extractLsb' 64 16 = BitVec.ofNat 16 x.payload.length ∧ (rspBits req x).extractLsb' 80 16 = x.result
    ∧ (rspBits req x).extractLsb' 96 32 = x.detail := by
  unfold rspBits
  refine ⟨?opcode, ?version, ?zero, ?seq, ?length, ?result, ?detail⟩
  case opcode => exact (rowOf_number (o := 0) (n := 2) (by decide) rfl).trans (ofNat_bf req 0 16)
  case version => exact rowByte_rowOf (i := 2) (by decide) rfl
  case zero => exact rowByte_rowOf (i := 3) (by decide) rfl
  case seq => exact (rowOf_number (o := 4) (n := 4) (by decide) rfl).trans (ofNat_bf req 32 32)
  case length => exact rowOf_number (o := 8) (n := 2) (by decide) rfl
  case result => exact (rowOf_number (o := 10) (n := 2) (by decide) rfl).trans (ofNat_toNat_self x.result)
  case detail => exact (rowOf_number (o := 12) (n := 4) (by decide) rfl).trans (ofNat_toNat_self x.detail)

/-- The payload of a response follows its sixteen bytes of header. -/
theorem rspBits_payload {x : Resp} {i : Nat} {y : Byte} (req : Req) (hi : i < 240) (hy : x.payload[i]? = some y) :
    (rspBits req x).extractLsb' (128 + 8 * i) 8 = y := by
  rw [show 128 + 8 * i = 8 * (i + 16) by omega]
  exact rowByte_rowOf (by omega) hy

/-- The response to an INFO carries the GTC of its writing (R357). -/
theorem State.lastWord_info (s : State) {q : Req} {x : Resp} (hop : reqOp q = 0x0001) (hok : x.result = resOk) :
    (s.lastWord q x none).payload = x.payload.take 8 ++ bytesOf 8 s.clk.gtc.toNat := by
  simp [State.lastWord, hop, hok]

theorem State.respond_rsp (s : State) (n : Fin 8) (bits : BitVec 2048) : ((s.respond n.val bits).mbs.get n).rsp = bits := by
  simp [State.respond, State.modMb, vector_get]

/-- Firmware writes the response of a mailbox once what it waits for has come about (R350). -/
theorem exec_mbResponse_writes {n : Fin 8} {s : State} {r : MReq} {x : Resp} (lost : Option (BitVec 3)) (hf : s.firmwareRuns = true)
    (hr : (s.mbs.get n).cur = some r) (hx : r.resp = some x) (hw : s.waitOver r.wait = true) :
    exec (.mbResponse n lost) s = .next (s.respond n.val (rspBits r.req (s.lastWord r.req x (s.lostOf r lost)))) := by
  have he : exec (.mbResponse n lost) s = .next (s.mbRespond n lost) := rfl
  rw [he]
  simp [State.mbRespond, hr, hx, hf, hw]

/-- Settles O51: the mailbox holds the bytes of `rspBits`, whose fields are those of its header lemma and its payload lemma. -/
theorem responseHasItsFields : Obligations.ResponseHasItsFields := by
  unfold Obligations.ResponseHasItsFields
  intro n lost s r x0 hf hr hx hw
  refine ⟨_, exec_mbResponse_writes lost hf hr hx hw, ?_⟩
  dsimp only
  rw [State.respond_rsp]
  obtain ⟨hop, hver, hzero, hseq, hlen, hres, hdet⟩ := rspBits_header r.req (s.lastWord r.req x0 (s.lostOf r lost))
  refine ⟨fun hl hi hok => ?_, hop, hver, hzero, hseq, hlen, hres, hdet, fun i y hi hy => rspBits_payload r.req hi hy⟩
  rw [hl]
  exact s.lastWord_info hi hok

end Sys2Proof.Machine
end
